-- ==== Sys2Proof/Word.lean ====
section
/-! DEFINITION. The word types of the PZ9 and their plainest arithmetic. -/

namespace Sys2Proof

/-- A 32-bit register, instruction word or table word (R22, R25). -/
abbrev Word := BitVec 32

/-- A 64-bit value, as an even:odd pair holds it (R28). -/
abbrev DWord := BitVec 64

/-- A byte of memory. -/
abbrev Byte := BitVec 8

/-- A 7-bit operand code (R25). -/
abbrev Code := BitVec 7

/-- The 64-bit value of an even:odd pair: the even register is the low word (R28). -/
def Word.pair (lo hi : Word) : DWord := hi ++ lo

/-- The low word of a 64-bit value. -/
def DWord.lo (d : DWord) : Word := d.extractLsb' 0 32

/-- The high word of a 64-bit value. -/
def DWord.hi (d : DWord) : Word := d.extractLsb' 32 32

end Sys2Proof
end

