-- ==== Sys2Proof/Syntax.lean ====
section
/-! DEFINITION. The instruction type: one constructor for each row of spec/opcode_table.json. The rows are
the instructions of the two encodings (with their raw fields, R22 to R24) and the part's own steps, the
events (with what each acts on). A field that an encoding makes must-be-zero is kept here; WellFormed judges it. -/

namespace Sys2Proof

/-- The two framings of Loben 3 words: D-form on D-cores, L-form on L-cores (R29, R37). -/
inductive Form where
  | d
  | l
  deriving DecidableEq, Repr

/-- A format-T word with the literal word that may follow it (R22, R27). -/
structure TForm where
  k : Bool
  d : Code
  a : Code
  b : Code
  m : BitVec 2
  lit : Option Word
  deriving DecidableEq, Repr

/-- A format-I word (R22). -/
structure IForm where
  k : Bool
  d : Code
  a : Code
  imm : BitVec 9
  lit : Option Word
  deriving DecidableEq, Repr

/-- A format-J word (R22). -/
structure JForm where
  k : Bool
  p : BitVec 3
  n : Bool
  off : BitVec 19
  deriving DecidableEq, Repr

/-- A format-W word (R22); CSRW may have a literal (R440). -/
structure WForm where
  k : Bool
  d : Code
  imm : BitVec 16
  lit : Option Word
  deriving DecidableEq, Repr

/-- A format-X instruction: the fields of both words and the literal word (R22, R23, R27). -/
structure XForm where
  k : Bool
  d : Code
  a : Code
  b : Code
  m : BitVec 2
  c : Code
  e : BitVec 17
  lit : Option Word
  deriving DecidableEq, Repr

/-- A RUNH word (R37). -/
structure RunhForm where
  k : Bool
  len : BitVec 5
  hint : BitVec 2
  xmask : BitVec 16
  deriving DecidableEq, Repr

/-- A RUNT word (R38). -/
structure RuntForm where
  k : Bool
  w1 : Code
  w2 : Code
  w3 : Code
  hint : BitVec 2
  deriving DecidableEq, Repr

/-- A PAD word (R35). -/
structure PadForm where
  k : Bool
  hint : BitVec 23
  deriving DecidableEq, Repr

/-- The fields of an instruction's words, whatever its format (R22, R23): OP, SUB (0 outside format X), K, the
operand fields, M, the immediate bits (IMM9, OFF19 with P and N, or IMM16, as a number) and the literal word. -/
structure Raw where
  op : Nat
  sub : Nat
  k : Bool
  d : Nat
  a : Nat
  b : Nat
  m : Nat
  c : Nat
  e : Nat
  imm : Nat
  lit : Option Word
  deriving DecidableEq, Repr

/-- The structures whose loss is a state error (R419): the codebook table, the weight planes, or one that holds nothing but the state
of the teams it is lost for. -/
inductive StateArray where
  | codebook
  | planes
  | ofTeams
  deriving DecidableEq, Repr

/-- Where a hardware error lies (R419). -/
inductive ErrPlace where
  /-- a physical line of device memory -/
  | deviceLine (line : Nat)
  /-- a physical line held in a Marrow frame -/
  | marrowLine (line : Nat)
  /-- a 128-byte line of the carved Marrow -/
  | carveLine (line : Nat)
  /-- a 32-bit word of a team's scratch -/
  | scratchWord (team word : Nat)
  /-- a vector register (codes 0 to 63), latch or temporary (64 to 79) of a thread -/
  | threadRegister (thread code : Nat)
  /-- a uniform register of a group -/
  | uniformRegister (group reg : Nat)
  /-- an accumulator element of a team -/
  | accElement (team element : Nat)
  /-- an inner accumulator of a team -/
  | innerElement (team element : Nat)
  /-- a state structure that holds state of the teams named -/
  | stateStructure (core : Nat) (array : StateArray) (teams : List Nat)
  /-- the reduction buffer of a picker -/
  | redBuffer (core picker : Nat)
  /-- L1, brick store, instruction buffer or TLB of a core -/
  | cleanCopy (core : Nat)
  /-- any other protected array of a core -/
  | other (core : Nat)
  deriving DecidableEq, Repr

/-- A hardware error as detected (R419, R423): where, whether it was corrected, and what its record names. -/
structure HwError where
  place : ErrPlace
  corrected : Bool
  structureCode : BitVec 16
  asid : BitVec 16
  address : DWord
  deriving DecidableEq, Repr

/-- What a self-test finds (R421). -/
inductive TestOutcome where
  | transient
  | lasting
  deriving DecidableEq, Repr

/-- What bring-up meets (R448): the firmware's security version, the cores that fail their test, the peer ports trained. -/
structure Boot where
  firmware : Nat
  failing : List Nat
  peers : List Nat
  unfitted : List (Nat × Nat)
  deriving DecidableEq, Repr

/-- One step of the PZ9: an instruction, or an event of the part (opcode_table.json). -/
inductive Instr where
  /-- ADD (R159): Integer add of A and B at width w, wrapping. -/
  | add (w : TForm)
  /-- ADDC (R160): 32-bit add with carry in and out through carry predicate p(4+M). -/
  | addc (w : TForm)
  /-- SUB (R159): Integer subtract of B from A at width w, wrapping. -/
  | sub (w : TForm)
  /-- SUBB (R160): 32-bit subtract with borrow through carry predicate p(4+M). -/
  | subb (w : TForm)
  /-- MUL (R159): Low half of the integer product, wrapped to w bits. -/
  | mul (w : TForm)
  /-- MULH (R159): High half of the exact 2w-bit integer product. -/
  | mulh (w : TForm)
  /-- MAD (R159): Integer multiply-add accumulating into D. -/
  | mad (w : TForm)
  /-- MADW (R159): 32x32 multiply added into a 64-bit destination pair. -/
  | madw (w : TForm)
  /-- MIN (R159): Integer minimum, signed or unsigned by type. -/
  | min (w : TForm)
  /-- MAX (R159): Integer maximum, signed or unsigned by type. -/
  | max (w : TForm)
  /-- ABS (R159): Integer absolute value, optionally saturating. -/
  | abs (w : TForm)
  /-- NEG (R159): Integer negation, optionally saturating. -/
  | neg (w : TForm)
  /-- AND (R161): Bitwise AND over w bits. -/
  | and (w : TForm)
  /-- OR (R161): Bitwise OR over w bits. -/
  | or (w : TForm)
  /-- XOR (R161): Bitwise XOR over w bits. -/
  | xor (w : TForm)
  /-- ANDN (R161): A AND NOT B over w bits. -/
  | andn (w : TForm)
  /-- NOT (R161): Bitwise complement over w bits. -/
  | not (w : TForm)
  /-- SHL (R162): Shift left by an unsigned amount, zero at or beyond w. -/
  | shl (w : TForm)
  /-- SHR (R162): Logical shift right. -/
  | shr (w : TForm)
  /-- SAR (R162): Arithmetic shift right. -/
  | sar (w : TForm)
  /-- ROTL (R162): Rotate left by amount mod w. -/
  | rotl (w : TForm)
  /-- BFX (R163): Extract a bit field by descriptor, sign- or zero-extended. -/
  | bfx (w : TForm)
  /-- BFI (R163): Insert a bit field into D by descriptor. -/
  | bfi (w : TForm)
  /-- BMSK (R163): Build a mask of a given position and length. -/
  | bmsk (w : TForm)
  /-- POPC (R164): Count one bits. -/
  | popc (w : TForm)
  /-- CLZ (R164): Count leading zeros. -/
  | clz (w : TForm)
  /-- CTZ (R164): Count trailing zeros. -/
  | ctz (w : TForm)
  /-- BREV (R164): Reverse the bits of a w-bit value. -/
  | brev (w : TForm)
  /-- LEA (R167): 64-bit address plus scaled signed 32-bit index. -/
  | lea (w : TForm)
  /-- MOV (R170): Copy A to D with its poison mark. -/
  | mov (w : TForm)
  /-- MOVI (R170): Write a sign-extended 16-bit immediate. -/
  | movi (w : WForm)
  /-- MOVHI (R170): Write a 16-bit immediate into the high half of D. -/
  | movhi (w : WForm)
  /-- V2G (R171): Write a uniform register from the first thread of each group in the bundle. -/
  | v2g (w : TForm)
  /-- ADD_I (R159): 32-bit add of a sign-extended 9-bit immediate. -/
  | addI (w : IForm)
  /-- AND_I (R161): 32-bit AND with a 9-bit immediate. -/
  | andI (w : IForm)
  /-- OR_I (R161): 32-bit OR with a 9-bit immediate. -/
  | orI (w : IForm)
  /-- XOR_I (R161): 32-bit XOR with a 9-bit immediate. -/
  | xorI (w : IForm)
  /-- SHL_I (R162): 32-bit shift left by an immediate amount. -/
  | shlI (w : IForm)
  /-- SHR_I (R162): 32-bit logical shift right by an immediate amount. -/
  | shrI (w : IForm)
  /-- SAR_I (R162): 32-bit arithmetic shift right by an immediate amount. -/
  | sarI (w : IForm)
  /-- PAND (R172): AND of two optionally negated predicates. -/
  | pand (w : TForm)
  /-- POR (R172): OR of two optionally negated predicates. -/
  | por (w : TForm)
  /-- PXOR (R172): XOR of two optionally negated predicates. -/
  | pxor (w : TForm)
  /-- PNOT (R172): Negate a predicate. -/
  | pnot (w : TForm)
  /-- BRA (R174): Unconditional PC-relative branch. -/
  | bra (w : JForm)
  /-- BRP (R174): Branch when the optionally negated predicate is set. -/
  | brp (w : JForm)
  /-- CALL (R175): Push a call-stack entry and branch PC-relative. -/
  | call (w : JForm)
  /-- CALLI (R175): Push a call-stack entry and branch to a register target. -/
  | calli (w : TForm)
  /-- RET (R176): Pop the call-stack entry and return to its PC. -/
  | ret (w : TForm)
  /-- EXIT (R178): End the thread. -/
  | exit (w : TForm)
  /-- NOP (R179): No operation. -/
  | nop (w : TForm)
  /-- YIELD (R179): Reset age and sit out the next pick. -/
  | yield (w : TForm)
  /-- JOINH (R180): Set the thread's join PC for a join wait. -/
  | joinh (w : JForm)
  /-- TRAP (R181): Take trap DEBUG with a 16-bit code. -/
  | trap (w : WForm)
  /-- TRET (R405): Return from a trap handler, restoring saved state. -/
  | tret (w : TForm)
  /-- PNEW (R115): Start building a pod at an address. -/
  | pnew (w : TForm)
  /-- PSET (R116): Set FRAME, GRID, TEAM or SUCC fields of a built pod. -/
  | pset (w : TForm)
  /-- PEDGE (R117): Add a dependence edge between two pods. -/
  | pedge (w : TForm)
  /-- PARM (R118): Arm a pod with class and priority. -/
  | parm (w : TForm)
  /-- PWAIT (R119): Arm a continuation and swap the group out until it is ready. -/
  | pwait (w : TForm)
  /-- FADD (R189): F32 add rounded once. -/
  | fadd (w : TForm)
  /-- FSUB (R189): F32 subtract rounded once. -/
  | fsub (w : TForm)
  /-- FMUL (R189): F32 multiply rounded once. -/
  | fmul (w : TForm)
  /-- FFMA (R189): F32 fused multiply-add into D. -/
  | ffma (w : TForm)
  /-- FMIN (R191): F32 minimum with NaN and signed-zero rules. -/
  | fmin (w : TForm)
  /-- FMAX (R191): F32 maximum with NaN and signed-zero rules. -/
  | fmax (w : TForm)
  /-- FABS (R190): Clear the sign bit. -/
  | fabs (w : TForm)
  /-- FNEG (R190): Invert the sign bit. -/
  | fneg (w : TForm)
  /-- FCPS (R190): Copy the sign of B onto A. -/
  | fcps (w : TForm)
  /-- FCMP (R191): F32 compare writing a predicate. -/
  | fcmp (w : TForm)
  /-- FCLASS (R192): Classify a floating-point value into a one-hot mask. -/
  | fclass (w : TForm)
  /-- FRND (R193): Round an F32 to an integral value. -/
  | frnd (w : TForm)
  /-- FRACT (R193): Fractional part of an F32, rounded down. -/
  | fract (w : TForm)
  /-- FDIV (R189): Correctly rounded F32 divide on the special-function unit. -/
  | fdiv (w : TForm)
  /-- PACK2 (R196): Round two F32 values into a packed F16 pair. -/
  | pack2 (w : TForm)
  /-- HADD2 (R196): Packed F16 add. -/
  | hadd2 (w : TForm)
  /-- HMUL2 (R196): Packed F16 multiply. -/
  | hmul2 (w : TForm)
  /-- HFMA2 (R196): Packed F16 fused multiply-add into D. -/
  | hfma2 (w : TForm)
  /-- RCP (R198): Correctly rounded reciprocal. -/
  | rcp (w : TForm)
  /-- RSQ (R198): Reciprocal square root rounded to nearest. -/
  | rsq (w : TForm)
  /-- SQRT (R198): Correctly rounded square root. -/
  | sqrt (w : TForm)
  /-- EXP2 (R198): Base-2 exponential. -/
  | exp2 (w : TForm)
  /-- LOG2 (R198): Base-2 logarithm. -/
  | log2 (w : TForm)
  /-- SIN (R198): Sine with exact argument reduction. -/
  | sin (w : TForm)
  /-- COS (R198): Cosine with exact argument reduction. -/
  | cos (w : TForm)
  /-- TANH (R198): Hyperbolic tangent. -/
  | tanh (w : TForm)
  /-- XADD (R200): Interval add with outward rounding. -/
  | xadd (w : TForm)
  /-- XSUB (R200): Interval subtract. -/
  | xsub (w : TForm)
  /-- XMUL (R200): Interval multiply. -/
  | xmul (w : TForm)
  /-- XSQR (R200): Interval square. -/
  | xsqr (w : TForm)
  /-- XSQRT (R200): Interval square root clipped at zero. -/
  | xsqrt (w : TForm)
  /-- XRCP (R200): Interval reciprocal. -/
  | xrcp (w : TForm)
  /-- XMIN (R200): Interval minimum. -/
  | xmin (w : TForm)
  /-- XMAX (R200): Interval maximum. -/
  | xmax (w : TForm)
  /-- XABS (R200): Interval absolute value. -/
  | xabs (w : TForm)
  /-- XHULL (R200): Interval hull of two intervals. -/
  | xhull (w : TForm)
  /-- XCONT (R201): Interval containment test writing a predicate. -/
  | xcont (w : TForm)
  /-- GSHF (R208): Shuffle values between threads of a group. -/
  | gshf (w : TForm)
  /-- GBC (R209): Broadcast one thread's value to the group. -/
  | gbc (w : TForm)
  /-- GVOTE (R210): Any or all vote over a predicate. -/
  | gvote (w : TForm)
  /-- GBALL (R210): Ballot mask of a predicate across the group. -/
  | gball (w : TForm)
  /-- GRED (R214): Group reduction by the fixed butterfly. -/
  | gred (w : TForm)
  /-- GSCAN (R214): Group inclusive or exclusive scan. -/
  | gscan (w : TForm)
  /-- GMATCH (R211): Mask of threads holding an equal value. -/
  | gmatch (w : TForm)
  /-- GELECT (R212): Elect the lowest qualifying present thread. -/
  | gelect (w : TForm)
  /-- GSYNC (R215): Group synchronisation: release and acquire at group scope. -/
  | gsync (w : TForm)
  /-- LDP (R268): Load from private space. -/
  | ldp (w : TForm)
  /-- STP (R269): Store to private space. -/
  | stp (w : TForm)
  /-- LDS (R268): Load from scratch space. -/
  | lds (w : TForm)
  /-- STS (R269): Store to scratch space. -/
  | sts (w : TForm)
  /-- LDC (R268): Load from cluster space. -/
  | ldc (w : TForm)
  /-- STC (R269): Store to cluster space. -/
  | stc (w : TForm)
  /-- LDG (R268): Load from global space. -/
  | ldg (w : TForm)
  /-- STG (R269): Store to global space. -/
  | stg (w : TForm)
  /-- STGM (R271): Masked byte store to global space. -/
  | stgm (w : TForm)
  /-- LDK (R268): Load from carve space. -/
  | ldk (w : TForm)
  /-- STK (R269): Store to carve space. -/
  | stk (w : TForm)
  /-- LDA (R268): Load from the argument frame. -/
  | lda (w : TForm)
  /-- PREF (R272): Prefetch a line into the Marrow or L1. -/
  | pref (w : TForm)
  /-- BRKF (R273): Fetch distance and gradient from a brick map. -/
  | brkf (w : TForm)
  /-- ATS (R276): Atomic read-modify-write on scratch. -/
  | ats (w : TForm)
  /-- ATG (R276): Atomic read-modify-write on global memory. -/
  | atg (w : TForm)
  /-- RED (R277): Record an ordered reduction entry in the picker's buffer. -/
  | red (w : TForm)
  /-- RFLUSH (R279): Raise the thread's flush number. -/
  | rflush (w : TForm)
  /-- FENCE (R280): Order the thread's own accesses at a scope. -/
  | fence (w : TForm)
  /-- ICINV_LINE (R281): Drop one instruction line on every core. -/
  | icinvLine (w : TForm)
  /-- ICINV_ALL (R281): Drop every instruction line of the ASID on every core. -/
  | icinvAll (w : TForm)
  /-- BARI (R393): Initialise a barrier object with an arrival target. -/
  | bari (w : TForm)
  /-- BARX (R393): Expect bytes on a barrier object, optionally arriving. -/
  | barx (w : TForm)
  /-- BARA (R393): Arrive on a barrier object and return the parity. -/
  | bara (w : TForm)
  /-- BARW (R393): Block until the barrier phase differs from the given parity. -/
  | barw (w : TForm)
  /-- BARW_TRY (R393): Test the barrier phase into a predicate without blocking. -/
  | barwTry (w : TForm)
  /-- BART (R393): Read a word of a barrier object without ordering. -/
  | bart (w : TForm)
  /-- EQP (R219): Record the thread's most recent equivalence point. -/
  | eqp (w : WForm)
  /-- MIGR (R220): Ask the quad scheduler to move the group to the other class. -/
  | migr (w : TForm)
  /-- CSRR (R440): Read a control and status register. -/
  | csrr (w : WForm)
  /-- CSRW (R440): Write a control and status register. -/
  | csrw (w : WForm)
  /-- TLBI_PAGE (R259): Invalidate translations of one page of the ASID on every core. -/
  | tlbiPage (w : TForm)
  /-- TLBI_ASID (R259): Invalidate all translations of the ASID on every core. -/
  | tlbiAsid (w : TForm)
  /-- HALT (R417): Stop the thread's grid for inspection. -/
  | halt (w : TForm)
  /-- RUNH (R37): Run header: checked on entry, opens a D-form run. -/
  | runh (w : RunhForm)
  /-- RUNT (R38): Run trailer: makes named long-latency results awaited. -/
  | runt (w : RuntForm)
  /-- PAD (R35): Fill an L-form slot with no effect. -/
  | pad (w : PadForm)
  /-- UNIFORM_PIPE_OP (R158): Integer or bit instruction executed once per group on uniform registers. -/
  | uniformPipeOp (sub : BitVec 8) (w : XForm)
  /-- CMP (R168): Integer compare writing a predicate, with optional combine. -/
  | cmp (w : XForm)
  /-- CMPV (R168): Integer compare writing an all-ones or zero mask. -/
  | cmpv (w : XForm)
  /-- SEL (R169): Select A or B by a predicate. -/
  | sel (w : XForm)
  /-- PRMT (R165): Byte permute from an eight-byte pool. -/
  | prmt (w : XForm)
  /-- FSHL (R166): Funnel shift left. -/
  | fshl (w : XForm)
  /-- FSHR (R166): Funnel shift right. -/
  | fshr (w : XForm)
  /-- FFMA4 (R189): F32 fused multiply-add with addend from C. -/
  | ffma4 (w : XForm)
  /-- CVT (R195): Convert a value between number formats. -/
  | cvt (w : XForm)
  /-- TIDW (R296): Write a tensor-identifier entry from a scratch image. -/
  | tidw (w : XForm)
  /-- TIDR (R296): Copy a tensor-identifier entry to scratch. -/
  | tidr (w : XForm)
  /-- CPY (R285): Queue a tensor copy with optional conversion. -/
  | cpy (w : XForm)
  /-- CPYG (R286): Queue a gather along the outermost dimension. -/
  | cpyg (w : XForm)
  /-- CPYX (R286): Queue a scatter along the outermost dimension. -/
  | cpyx (w : XForm)
  /-- QNT (R287): Queue a block quantisation into B8A or B8B. -/
  | qnt (w : XForm)
  /-- PUB (R295): Exchange the backings of a publish slot. -/
  | pub (w : XForm)
  /-- MXCFG_ACQ (R302): Acquire the matrix arrays and set the configuration. -/
  | mxcfgAcq (w : XForm)
  /-- MXCFG_SET (R302): Change the matrix configuration word as owner. -/
  | mxcfgSet (w : XForm)
  /-- MXCFG_REL (R302): Release ownership of the matrix arrays. -/
  | mxcfgRel (w : XForm)
  /-- MXCFG_CBW (R302): Write or restore the core's codebook table. -/
  | mxcfgCbw (w : XForm)
  /-- MXLW (R311): Load weights into the shadow plane. -/
  | mxlw (w : XForm)
  /-- MXSW (R312): Exchange front and shadow planes. -/
  | mxsw (w : XForm)
  /-- MXST (R313): Stream activation rows through the front plane into tiles. -/
  | mxst (w : XForm)
  /-- MXDR (R315): Drain accumulator tiles to scratch. -/
  | mxdr (w : XForm)
  /-- MXZ (R316): Zero accumulator tiles and their OVF bits. -/
  | mxz (w : XForm)
  /-- MXPR (R317): Scale and bias tile rows in place. -/
  | mxpr (w : XForm)
  /-- TRAV (R328): Start a tree walk of a scene on a ray slot. -/
  | trav (w : XForm)
  /-- MWALK (R336): Walk mesh cells in EVENTS, ISO, INTEGRATE or LOCATE mode. -/
  | mwalk (w : XForm)
  /-- MLOC (R337): Locate the mesh cell holding a point. -/
  | mloc (w : XForm)
  /-- MARCH (R355): March one field node or prune block on a ray. -/
  | march (w : XForm)
  /-- RRES (R332): Resume a parked walk with a verdict. -/
  | rres (w : XForm)
  /-- RREL (R325): Release a ray slot to IDLE. -/
  | rrel (w : XForm)
  /-- RGET (R333): Read 16 bytes of a slot image. -/
  | rget (w : XForm)
  /-- FPRUNE (R352): Queue a tile pre-pass writing a specialised program. -/
  | fprune (w : XForm)
  /-- PRIM_TRI (R366): Route a triangle to a binning unit. -/
  | primTri (w : XForm)
  /-- PRIM_END (R364): Declare the end of a producer's primitives. -/
  | primEnd (w : XForm)
  /-- VISW (R367): Merge a fragment into the team's tile store. -/
  | visw (w : XForm)
  /-- VISR (R368): Read a tile-store entry, waiting for close or not. -/
  | visr (w : XForm)
  /-- ATTR (R369): Interpolate a primitive attribute and its derivatives at a pixel. -/
  | attr (w : XForm)
  /-- PICK (R139): A picker chooses a key and issues a bundle. -/
  | pick (core picker : Nat)
  /-- OVERDUE (R140): A thread's age reaches 64 and it becomes overdue. -/
  | overdue (thread : Nat)
  /-- JOIN_WAIT_TIMEOUT (R144): A join wait ends after 32 picks. -/
  | joinWaitTimeout (thread : Nat)
  /-- RESULT_ARRIVAL (R147): A long-latency result arrives and is written to its register. -/
  | resultArrival (thread index : Nat)
  /-- GROUP_MOVE (R223): A granted move drains results and stores and rebinds the group on the target core. -/
  | groupMove (group : Nat)
  /-- CONVERGENCE_MISMATCH (R204): All present threads blocked at different group-convergent instructions trap BARERR. -/
  | convergenceMismatch (group : Nat)
  /-- DOORBELL (R112): A doorbell write arms a pod from the companion. -/
  | doorbell (n width : Nat) (value : DWord)
  /-- POD_COMPLETE (R104): A pod completes and its successors' joins are dropped. -/
  | podComplete (pod : Nat)
  /-- PENDING_ENTRY_RELEASE (R113): A pending-launch entry frees after its pod is popped and 48 cycles pass. -/
  | pendingEntryRelease (team index : Nat)
  /-- READY_QUEUE_POP (R108): The placement engine or an engine pops a ready pod by weighted round-robin. -/
  | readyQueuePop (engines : Bool)
  /-- TEAM_PLACEMENT (R129): A team or cluster is placed atomically once room exists. -/
  | teamPlacement (grid : Nat)
  /-- CONT_RESUME (R119): A continuation is taken and its swapped-out group is restored. -/
  | contResume (index : Nat)
  /-- RECLAMATION_COMPLETE (R424): A team's reclamation ends and its resources return. -/
  | reclamationComplete (team : Nat)
  /-- REDUCTION_DRAIN (R396): A grid's entries of one flush number drain in key order. -/
  | reductionDrain (pod : Nat)
  /-- ACCESS_COUNTER_RECORD (R262): An access count reaches THRESH and a record is written. -/
  | accessCounterRecord (asid region : Nat)
  /-- TLBINV_PAGE (R260): Companion invalidates one page of an ASID. -/
  | tlbinvPage (asid va : Nat)
  /-- TLBINV_ASID (R260): Companion invalidates all translations of an ASID. -/
  | tlbinvAsid (asid : Nat)
  /-- TLBINV_ALL (R260): Companion invalidates translations of all ASIDs. -/
  | tlbinvAll
  /-- TLBINV_DONE (R260): Every core acknowledges and TLBINV.BUSY clears. -/
  | tlbinvDone
  /-- MARCFG_WRITE (R247): A carve-out request is written and may wait pending. -/
  | marcfgWrite (value : Word)
  /-- CARVE_CHANGE (R247): The carve-out changes once no team is resident and no command in flight. -/
  | carveChange
  /-- L1CFG_WRITE (R245): The brick-store size changes at once, dropping displaced lines. -/
  | l1cfgWrite (core : Nat) (value : Word)
  /-- ACCCTL_WRITE (R262): Access counting is enabled, disabled (discarding counts) or retuned. -/
  | accctlWrite (value : Word)
  /-- REGISTER_WRITE (R7): A write to a register with no behaviour of its own sets its fields by access code. -/
  | registerWrite (offset width : Nat) (value : DWord)
  /-- ENGINE_COMMAND_START (R284): A queued copy or quantise command starts in queue order. -/
  | engineCommandStart (core : Nat)
  /-- ENGINE_BYTES_LAND (R288): Bytes of an engine command land and count on its barrier. -/
  | engineBytesLand (core command elements : Nat)
  /-- ENGINE_COMMAND_END (R288): An engine command ends, adding any remaining byte total. -/
  | engineCommandEnd (core command : Nat)
  /-- PUB_EXCHANGE (R295): The slot controller exchanges backings once earlier commands have landed. -/
  | pubExchange (core command : Nat)
  /-- MATRIX_COMMAND_EXECUTE (R307): A queued matrix command executes in queue order. -/
  | matrixCommandExecute (core index : Nat)
  /-- PROMOTE (R314): An inner plane is promoted after P steps. -/
  | promote (team tile : Nat)
  /-- RAY_COMMAND_START (R324): A slot's next queued ray command starts. -/
  | rayCommandStart (team slot : Nat)
  /-- SLOT_EVICT (R332): A slot parked 65,536 cycles is written to its spill region. -/
  | slotEvict (team slot : Nat)
  /-- STEPLIMIT (R336): A cell walk ends after 2^20 cell steps. -/
  | steplimit (team slot : Nat)
  /-- FWORK (R348): A march ends after 65,536 evaluations. -/
  | fwork (team slot : Nat)
  /-- FPRUNE_EXECUTE (R357): A queued FPRUNE runs and writes its block. -/
  | fpruneExecute (core : Nat)
  /-- BIN_TRIANGLE (R362): A binning unit covers pixels of a triangle and delivers fragments. -/
  | binTriangle (unit : Nat)
  /-- BIN_REPLAY (R363): On owner placement, binned identifiers are replayed into its tile. -/
  | binReplay (team target : Nat)
  /-- TILE_CLOSE (R364): A tile closes when all ends, replays and deliveries are done. -/
  | tileClose (asid target tile : Nat)
  /-- PMTCTL_SAVE (R407): Companion requests halt, save and hold of selected teams. -/
  | pmtctlSave (sel : BitVec 2) (value : BitVec 52)
  /-- PMTCTL_HALT (R407): Companion requests selected teams halt in place. -/
  | pmtctlHalt (sel : BitVec 2) (value : BitVec 52)
  /-- PMTCTL_RESUME (R415): Companion releases teams held by SAVE or HALT. -/
  | pmtctlResume (sel : BitVec 2) (value : BitVec 52)
  /-- CORE_HALT (R408): Every core holding a selected team has reached clean boundaries. -/
  | coreHalt
  /-- TEAM_SAVE (R410): A halted team is drained and its image written to the pool. -/
  | teamSave (team : Nat)
  /-- TEAM_RESTORE (R415): A saved team is restored to a core and its groups resumed. -/
  | teamRestore (index : Nat)
  /-- KILL_COMMAND (R428): Companion kills selected grids through KILLCTL. -/
  | killCommand (sel : BitVec 2) (value : BitVec 52)
  /-- HARDWARE_ERROR (R419): An error is detected in a protected structure and handled by class. -/
  | hardwareError (error : HwError)
  /-- SELF_TEST (R421): The health engine tests a structure after an error. -/
  | selfTest (place : ErrPlace) (outcome : TestOutcome)
  /-- COUNTER_SAMPLE (R435): At each counter tick every live core latches and clears its counters. -/
  | counterSample
  /-- PWRCTL_RUN (R447): Request the RUN power state. -/
  | pwrctlRun
  /-- PWRCTL_IDLE (R447): Request the IDLE power state. -/
  | pwrctlIdle
  /-- PWRCTL_RETAIN (R447): Request the RETAIN power state. -/
  | pwrctlRetain
  /-- POWER_STATE_CHANGE (R447): A pending power-state change takes effect when its conditions hold. -/
  | powerStateChange
  /-- SECADV (R446): Writing the key advances SECFUSE.COUNT by one step. -/
  | secadv (key : Word)
  /-- CKPTCTL_GO (R449): Start a checkpoint of device memory and carved Marrow. -/
  | ckptctlGo (value : DWord)
  /-- CHECKPOINT_END (R449): The checkpoint copy ends or stops on a failed write. -/
  | checkpointEnd (failed : Bool)
  /-- BRING_UP (R448): After power-good the part loads firmware, tests, trains and sets READY. -/
  | bringUp (boot : Boot)
  /-- COMPANION_STORE (R103): A store from the companion processor arrives over Loben Link into device memory, and adds 1 to LQERR when it touches an owned byte of an in-flight pod. -/
  | companionStore (address : Nat) (bytes : List Byte)
  deriving DecidableEq, Repr

end Sys2Proof
end

