-- ==== Sys2Proof/Machine/Raw.lean ====
section
/-! DEFINITION. The raw fields of every instruction, by the opcode map (R45, R46). -/

namespace Sys2Proof.Machine

/-- Raw fields of a format-T word (R22). -/
def rawT (op : Nat) (w : TForm) : Raw :=
  { op := op, sub := 0, k := w.k, d := w.d.toNat, a := w.a.toNat, b := w.b.toNat, m := w.m.toNat,
    c := 0, e := 0, imm := 0, lit := w.lit }

/-- Raw fields of a format-I word (R22). -/
def rawI (op : Nat) (w : IForm) : Raw :=
  { op := op, sub := 0, k := w.k, d := w.d.toNat, a := w.a.toNat, b := 0, m := 0,
    c := 0, e := 0, imm := w.imm.toNat, lit := w.lit }

/-- Raw fields of a format-J word: imm is the 23-bit field P, N, OFF19 (R22). -/
def rawJ (op : Nat) (w : JForm) : Raw :=
  { op := op, sub := 0, k := w.k, d := 0, a := 0, b := 0, m := 0, c := 0, e := 0,
    imm := (w.p.toNat * 2 + w.n.toNat) * 524288 + w.off.toNat, lit := none }

/-- Raw fields of a format-W word (R22). -/
def rawW (op : Nat) (w : WForm) : Raw :=
  { op := op, sub := 0, k := w.k, d := w.d.toNat, a := 0, b := 0, m := 0, c := 0, e := 0,
    imm := w.imm.toNat, lit := w.lit }

/-- Raw fields of a format-X instruction (R22, R23). -/
def rawX (op sub : Nat) (w : XForm) : Raw :=
  { op := op, sub := sub, k := w.k, d := w.d.toNat, a := w.a.toNat, b := w.b.toNat, m := w.m.toNat,
    c := w.c.toNat, e := w.e.toNat, imm := 0, lit := w.lit }

/-- Raw fields of a RUNH word: imm is the 23-bit field LEN, hint, XMASK (R37). -/
def rawRunh (w : RunhForm) : Raw :=
  { op := 0xE0, sub := 0, k := w.k, d := 0, a := 0, b := 0, m := 0, c := 0, e := 0,
    imm := (w.len.toNat * 4 + w.hint.toNat) * 65536 + w.xmask.toNat, lit := none }

/-- Raw fields of a RUNT word (R38). -/
def rawRunt (w : RuntForm) : Raw :=
  { op := 0xE1, sub := 0, k := w.k, d := w.w1.toNat, a := w.w2.toNat, b := w.w3.toNat, m := w.hint.toNat,
    c := 0, e := 0, imm := 0, lit := none }

/-- Raw fields of a PAD word (R35). -/
def rawPad (w : PadForm) : Raw :=
  { op := 0xE2, sub := 0, k := w.k, d := 0, a := 0, b := 0, m := 0, c := 0, e := 0, imm := w.hint.toNat, lit := none }

/-- The raw fields of an instruction; an event of the part has none (R22, R45, R46). -/
def instrRaw : Instr → Option Raw
  | .add w => some (rawT 0x00 w)
  | .addc w => some (rawT 0x01 w)
  | .sub w => some (rawT 0x02 w)
  | .subb w => some (rawT 0x03 w)
  | .mul w => some (rawT 0x04 w)
  | .mulh w => some (rawT 0x05 w)
  | .mad w => some (rawT 0x06 w)
  | .madw w => some (rawT 0x07 w)
  | .min w => some (rawT 0x08 w)
  | .max w => some (rawT 0x09 w)
  | .abs w => some (rawT 0x0A w)
  | .neg w => some (rawT 0x0B w)
  | .and w => some (rawT 0x0C w)
  | .or w => some (rawT 0x0D w)
  | .xor w => some (rawT 0x0E w)
  | .andn w => some (rawT 0x0F w)
  | .not w => some (rawT 0x10 w)
  | .shl w => some (rawT 0x11 w)
  | .shr w => some (rawT 0x12 w)
  | .sar w => some (rawT 0x13 w)
  | .rotl w => some (rawT 0x14 w)
  | .bfx w => some (rawT 0x15 w)
  | .bfi w => some (rawT 0x16 w)
  | .bmsk w => some (rawT 0x17 w)
  | .popc w => some (rawT 0x18 w)
  | .clz w => some (rawT 0x19 w)
  | .ctz w => some (rawT 0x1A w)
  | .brev w => some (rawT 0x1B w)
  | .lea w => some (rawT 0x1C w)
  | .mov w => some (rawT 0x1D w)
  | .movi w => some (rawW 0x1E w)
  | .movhi w => some (rawW 0x1F w)
  | .v2g w => some (rawT 0x20 w)
  | .addI w => some (rawI 0x21 w)
  | .andI w => some (rawI 0x22 w)
  | .orI w => some (rawI 0x23 w)
  | .xorI w => some (rawI 0x24 w)
  | .shlI w => some (rawI 0x25 w)
  | .shrI w => some (rawI 0x26 w)
  | .sarI w => some (rawI 0x27 w)
  | .pand w => some (rawT 0x40 w)
  | .por w => some (rawT 0x41 w)
  | .pxor w => some (rawT 0x42 w)
  | .pnot w => some (rawT 0x43 w)
  | .bra w => some (rawJ 0x44 w)
  | .brp w => some (rawJ 0x45 w)
  | .call w => some (rawJ 0x46 w)
  | .calli w => some (rawT 0x47 w)
  | .ret w => some (rawT 0x48 w)
  | .exit w => some (rawT 0x49 w)
  | .nop w => some (rawT 0x4A w)
  | .yield w => some (rawT 0x4B w)
  | .joinh w => some (rawJ 0x4C w)
  | .trap w => some (rawW 0x4D w)
  | .tret w => some (rawT 0x4E w)
  | .pnew w => some (rawT 0x50 w)
  | .pset w => some (rawT 0x51 w)
  | .pedge w => some (rawT 0x52 w)
  | .parm w => some (rawT 0x53 w)
  | .pwait w => some (rawT 0x54 w)
  | .fadd w => some (rawT 0x60 w)
  | .fsub w => some (rawT 0x61 w)
  | .fmul w => some (rawT 0x62 w)
  | .ffma w => some (rawT 0x63 w)
  | .fmin w => some (rawT 0x64 w)
  | .fmax w => some (rawT 0x65 w)
  | .fabs w => some (rawT 0x66 w)
  | .fneg w => some (rawT 0x67 w)
  | .fcps w => some (rawT 0x68 w)
  | .fcmp w => some (rawT 0x69 w)
  | .fclass w => some (rawT 0x6A w)
  | .frnd w => some (rawT 0x6B w)
  | .fract w => some (rawT 0x6C w)
  | .fdiv w => some (rawT 0x6D w)
  | .pack2 w => some (rawT 0x6E w)
  | .hadd2 w => some (rawT 0x6F w)
  | .hmul2 w => some (rawT 0x70 w)
  | .hfma2 w => some (rawT 0x71 w)
  | .rcp w => some (rawT 0x72 w)
  | .rsq w => some (rawT 0x73 w)
  | .sqrt w => some (rawT 0x74 w)
  | .exp2 w => some (rawT 0x75 w)
  | .log2 w => some (rawT 0x76 w)
  | .sin w => some (rawT 0x77 w)
  | .cos w => some (rawT 0x78 w)
  | .tanh w => some (rawT 0x79 w)
  | .xadd w => some (rawT 0x7A w)
  | .xsub w => some (rawT 0x7B w)
  | .xmul w => some (rawT 0x7C w)
  | .xsqr w => some (rawT 0x7D w)
  | .xsqrt w => some (rawT 0x7E w)
  | .xrcp w => some (rawT 0x7F w)
  | .xmin w => some (rawT 0x80 w)
  | .xmax w => some (rawT 0x81 w)
  | .xabs w => some (rawT 0x82 w)
  | .xhull w => some (rawT 0x83 w)
  | .xcont w => some (rawT 0x84 w)
  | .gshf w => some (rawT 0x90 w)
  | .gbc w => some (rawT 0x91 w)
  | .gvote w => some (rawT 0x92 w)
  | .gball w => some (rawT 0x93 w)
  | .gred w => some (rawT 0x94 w)
  | .gscan w => some (rawT 0x95 w)
  | .gmatch w => some (rawT 0x96 w)
  | .gelect w => some (rawT 0x97 w)
  | .gsync w => some (rawT 0x98 w)
  | .ldp w => some (rawT 0xA0 w)
  | .stp w => some (rawT 0xA1 w)
  | .lds w => some (rawT 0xA2 w)
  | .sts w => some (rawT 0xA3 w)
  | .ldc w => some (rawT 0xA4 w)
  | .stc w => some (rawT 0xA5 w)
  | .ldg w => some (rawT 0xA6 w)
  | .stg w => some (rawT 0xA7 w)
  | .stgm w => some (rawT 0xA8 w)
  | .ldk w => some (rawT 0xA9 w)
  | .stk w => some (rawT 0xAA w)
  | .lda w => some (rawT 0xAB w)
  | .pref w => some (rawT 0xAC w)
  | .brkf w => some (rawT 0xAD w)
  | .ats w => some (rawT 0xAE w)
  | .atg w => some (rawT 0xAF w)
  | .red w => some (rawT 0xB0 w)
  | .rflush w => some (rawT 0xB1 w)
  | .fence w => some (rawT 0xB2 w)
  | .icinvLine w => some (rawT 0xB3 w)
  | .icinvAll w => some (rawT 0xB3 w)
  | .bari w => some (rawT 0xC0 w)
  | .barx w => some (rawT 0xC1 w)
  | .bara w => some (rawT 0xC2 w)
  | .barw w => some (rawT 0xC3 w)
  | .barwTry w => some (rawT 0xC3 w)
  | .bart w => some (rawT 0xC4 w)
  | .eqp w => some (rawW 0xC5 w)
  | .migr w => some (rawT 0xC6 w)
  | .csrr w => some (rawW 0xD0 w)
  | .csrw w => some (rawW 0xD1 w)
  | .tlbiPage w => some (rawT 0xD2 w)
  | .tlbiAsid w => some (rawT 0xD2 w)
  | .halt w => some (rawT 0xD3 w)
  | .runh w => some (rawRunh w)
  | .runt w => some (rawRunt w)
  | .pad w => some (rawPad w)
  | .uniformPipeOp sub w => some (rawX 0xF0 sub.toNat w)
  | .cmp w => some (rawX 0xF1 0x00 w)
  | .cmpv w => some (rawX 0xF1 0x01 w)
  | .sel w => some (rawX 0xF1 0x02 w)
  | .prmt w => some (rawX 0xF1 0x03 w)
  | .fshl w => some (rawX 0xF1 0x04 w)
  | .fshr w => some (rawX 0xF1 0x05 w)
  | .ffma4 w => some (rawX 0xF2 0x00 w)
  | .cvt w => some (rawX 0xF2 0x01 w)
  | .tidw w => some (rawX 0xF3 0x00 w)
  | .tidr w => some (rawX 0xF3 0x01 w)
  | .cpy w => some (rawX 0xF3 0x02 w)
  | .cpyg w => some (rawX 0xF3 0x03 w)
  | .cpyx w => some (rawX 0xF3 0x04 w)
  | .qnt w => some (rawX 0xF3 0x05 w)
  | .pub w => some (rawX 0xF3 0x06 w)
  | .mxcfgAcq w => some (rawX 0xF4 0x00 w)
  | .mxcfgSet w => some (rawX 0xF4 0x00 w)
  | .mxcfgRel w => some (rawX 0xF4 0x00 w)
  | .mxcfgCbw w => some (rawX 0xF4 0x00 w)
  | .mxlw w => some (rawX 0xF4 0x01 w)
  | .mxsw w => some (rawX 0xF4 0x02 w)
  | .mxst w => some (rawX 0xF4 0x03 w)
  | .mxdr w => some (rawX 0xF4 0x04 w)
  | .mxz w => some (rawX 0xF4 0x05 w)
  | .mxpr w => some (rawX 0xF4 0x06 w)
  | .trav w => some (rawX 0xF5 0x00 w)
  | .mwalk w => some (rawX 0xF5 0x01 w)
  | .mloc w => some (rawX 0xF5 0x02 w)
  | .march w => some (rawX 0xF5 0x03 w)
  | .rres w => some (rawX 0xF5 0x04 w)
  | .rrel w => some (rawX 0xF5 0x05 w)
  | .rget w => some (rawX 0xF5 0x06 w)
  | .fprune w => some (rawX 0xF5 0x07 w)
  | .primTri w => some (rawX 0xF6 0x00 w)
  | .primEnd w => some (rawX 0xF6 0x00 w)
  | .visw w => some (rawX 0xF6 0x01 w)
  | .visr w => some (rawX 0xF6 0x02 w)
  | .attr w => some (rawX 0xF6 0x03 w)
  | .pick _ _ => none
  | .overdue _ => none
  | .joinWaitTimeout _ => none
  | .resultArrival _ _ => none
  | .groupMove _ => none
  | .convergenceMismatch _ => none
  | .doorbell _ _ _ => none
  | .podComplete _ => none
  | .pendingEntryRelease _ _ => none
  | .readyQueuePop _ => none
  | .teamPlacement _ => none
  | .contResume _ => none
  | .reclamationComplete _ => none
  | .reductionDrain _ => none
  | .accessCounterRecord _ _ => none
  | .tlbinvPage _ _ => none
  | .tlbinvAsid _ => none
  | .tlbinvAll => none
  | .tlbinvDone => none
  | .marcfgWrite _ => none
  | .carveChange => none
  | .l1cfgWrite _ _ => none
  | .accctlWrite _ => none
  | .registerWrite _ _ _ => none
  | .engineCommandStart _ => none
  | .engineBytesLand _ _ _ => none
  | .engineCommandEnd _ _ => none
  | .pubExchange _ _ => none
  | .matrixCommandExecute _ _ => none
  | .promote _ _ => none
  | .rayCommandStart _ _ => none
  | .slotEvict _ _ => none
  | .steplimit _ _ => none
  | .fwork _ _ => none
  | .fpruneExecute _ => none
  | .binTriangle _ => none
  | .binReplay _ _ => none
  | .tileClose _ _ _ => none
  | .pmtctlSave _ _ => none
  | .pmtctlHalt _ _ => none
  | .pmtctlResume _ _ => none
  | .coreHalt => none
  | .teamSave _ => none
  | .teamRestore _ => none
  | .killCommand _ _ => none
  | .hardwareError _ => none
  | .selfTest _ _ => none
  | .counterSample => none
  | .pwrctlRun => none
  | .pwrctlIdle => none
  | .pwrctlRetain => none
  | .powerStateChange => none
  | .secadv _ => none
  | .ckptctlGo _ => none
  | .checkpointEnd _ => none
  | .bringUp _ => none
  | .companionStore _ _ => none

end Sys2Proof.Machine
end

