-- ==== Sys2Proof/Machine/Legal.lean ====
section
/-! DEFINITION. The static properties of an instruction's words: its operand fields and what each may hold (R24 to R28,
R155, R156, R183, R185, R206, R263 to R266, R275, R282, R303, R322, R354, R365, R392), its must-be-zero fields and illegal
values, its pipe (R31), latency class (R145), and the registers it reads and writes. `legal` is false exactly where
the word traps ILLENC by itself (R49); rules about a word's place in a packet or run stand in Machine/Frame.lean. -/

namespace Sys2Proof.Machine

/-- What an operand field is, and so which codes it may hold. -/
inductive OKind where
  /-- a 32-bit source, any source code, a literal included (R25) -/
  | src
  /-- a 64-bit or interval source, an even pair (R28) -/
  | srcPair
  /-- a source read as a predicate (R155) -/
  | srcPred
  /-- a source group of n registers, v, x or g codes only, n-aligned (R322) -/
  | srcRegs (n : Nat)
  /-- a 32-bit source that is a dash, and not read, where it is 0 (R303) -/
  | srcDash
  /-- a source quad of which three registers are read (R273) -/
  | srcThree
  /-- store data of n registers, n = 2 or 4 (R266) -/
  | data (n : Nat)
  /-- a 32-bit destination -/
  | dst
  /-- a 32-bit destination that must be even (R164) -/
  | dstEven
  /-- a 64-bit or interval destination pair -/
  | dstPair
  /-- a destination of four registers where 127 discards (R266) -/
  | dstQuad
  /-- a destination of n vector registers where 127 is illegal (R322, R365) -/
  | dstRegs (n : Nat)
  /-- a predicate destination -/
  | dstPred
  /-- a 32-bit operand read and written (R156) -/
  | acc
  /-- a pair read and written (R156) -/
  | accPair
  /-- a uniform destination g0 to g31 of n registers (R171) -/
  | dstUni (n : Nat)
  /-- the data and old value of an atomic, n registers (R263, R275) -/
  | atom (n : Nat)
  /-- a uniform register number read, n registers (R47) -/
  | uniSrc (n : Nat)
  /-- a uniform register number written, n registers (R47) -/
  | uniDst (n : Nat)
  /-- a uniform register number read and written, n registers (R47, R156) -/
  | uniAcc (n : Nat)
  /-- a must-be-zero field (R24) -/
  | zero
  deriving DecidableEq, Repr

/-- An operand field: its code and its kind. -/
structure Opd where
  code : Nat
  kind : OKind
  deriving DecidableEq, Repr

/-- The latency classes of R145. -/
inductive Latency where
  | fix1
  | fix4
  | long
  | ctrl
  | frame
  deriving DecidableEq, Repr

/-- The pipes of R31. -/
inductive Pipe where
  | a
  | b
  | m
  | none
  deriving DecidableEq, Repr

/-- A value operand by the type code TY: a pair for the 64-bit types (R154). -/
def srcTy (m : Nat) : OKind := if 2 ≤ m then .srcPair else .src

/-- A destination by the type code TY (R154). -/
def dstTy (m : Nat) : OKind := if 2 ≤ m then .dstPair else .dst

/-- A read-and-written destination by the type code TY (R154, R156). -/
def accTy (m : Nat) : OKind := if 2 ≤ m then .accPair else .acc

/-- SZ of a load or store descriptor, word bits [8:6] (R264). -/
def descSz (b : Nat) : Nat := b / 16
/-- SCOPE of a load, store or fence descriptor, word bits [5:3] (R264, R280). -/
def descScope (b : Nat) : Nat := b / 2 % 8
/-- OPC of an atomic or reduction descriptor, word bits [8:4] (R275, R278). -/
def atomOpc (b : Nat) : Nat := b / 4
/-- SCOPE of an atomic descriptor, word bits [3:2] (R275). -/
def atomScope (b : Nat) : Nat := b % 4

/-- The registers of an atomic's D group, by OPC (R275). -/
def atomRegs (opc : Nat) : Nat :=
  if opc = 0x16 then 4
  else if opc ∈ [0x01, 0x05, 0x06, 0x0A, 0x0B, 0x0E, 0x10, 0x12, 0x14, 0x15] then 2
  else 1

/-- The destination of a load by SZ (R266). -/
def loadDst (sz : Nat) : OKind := if sz = 5 then .dstPair else if sz = 6 then .dstQuad else .dst

/-- The data of a store by the registers it takes (R266). -/
def storeData (n : Nat) : OKind := if n = 1 then .src else .data n

/-- Registers of a load or store of size SZ (R266). -/
def szRegs (sz : Nat) : Nat := if sz = 5 then 2 else if sz = 6 then 4 else 1

/-- Operands of the instruction named by SUB in uniform-pipe form (R47): D, A, then B or the literal. -/
def uniOperands (r : Raw) : List Opd :=
  let n := if 2 ≤ r.m then 2 else 1
  let b (k : Nat) : Opd := if r.e % 2 = 1 then ⟨r.b, .zero⟩ else ⟨r.b, .uniSrc k⟩
  if r.sub = 0x01 ∨ r.sub = 0x03 then [⟨r.d, .uniDst 1⟩, ⟨r.a, .uniSrc 1⟩, b 1]
  else if r.sub = 0x06 then [⟨r.d, .uniAcc n⟩, ⟨r.a, .uniSrc n⟩, b n]
  else if r.sub = 0x07 then [⟨r.d, .uniAcc 2⟩, ⟨r.a, .uniSrc 1⟩, b 1]
  else if r.sub ∈ [0x0A, 0x0B, 0x10, 0x1B, 0x1D] then [⟨r.d, .uniDst n⟩, ⟨r.a, .uniSrc n⟩, ⟨r.b, .zero⟩]
  else if r.sub ∈ [0x11, 0x12, 0x13, 0x14, 0x15] then [⟨r.d, .uniDst n⟩, ⟨r.a, .uniSrc n⟩, b 1]
  else if r.sub = 0x16 then [⟨r.d, .uniAcc n⟩, ⟨r.a, .uniSrc n⟩, b 1]
  else if r.sub = 0x17 then [⟨r.d, .uniDst n⟩, ⟨r.a, .uniSrc 1⟩, b 1]
  else if r.sub ∈ [0x18, 0x19, 0x1A] then
    [⟨r.d, .uniDst 1⟩, ⟨r.d % n, .zero⟩, ⟨r.a, .uniSrc n⟩, ⟨r.b, .zero⟩]
  else if r.sub = 0x1C then [⟨r.d, .uniDst 2⟩, ⟨r.a, .uniSrc 2⟩, b 1]
  else [⟨r.d, .uniDst n⟩, ⟨r.a, .uniSrc n⟩, b n]

/-- True when the instruction named by SUB reads a source B, so that E[0] may replace it by a literal (R47). -/
def uniHasB (sub : Nat) : Bool := decide (¬ sub ∈ [0x0A, 0x0B, 0x10, 0x18, 0x19, 0x1A, 0x1B, 0x1D])

/-- BV of a format-X instruction's E field (R282, R303). -/
def eBv (e : Nat) : Nat := e / 65536
/-- The barrier operand C of an engine command (R282). -/
def engC (r : Raw) : Opd := ⟨r.c, if eBv r.e = 1 then .src else .zero⟩
/-- BAR is zero when BV is 0 (R303). -/
def barOk (e : Nat) : Bool := decide (eBv e = 1 ∨ e % 2048 = 0)

/-- True for the numbers to which the manual gives a control and status register (R440). -/
def csrAssigned (n : Nat) : Bool :=
  decide (n ≤ 0x009 ∨ n = 0x010 ∨ n = 0x012 ∨ (0x014 ≤ n ∧ n ≤ 0x018) ∨ (0x020 ≤ n ∧ n ≤ 0x024) ∨
    (0x030 ≤ n ∧ n ≤ 0x032) ∨ (0x038 ≤ n ∧ n ≤ 0x03A) ∨ (0x040 ≤ n ∧ n ≤ 0x042) ∨ n = 0x050 ∨ n = 0x051 ∨ n = 0x054 ∨
    (0x060 ≤ n ∧ n ≤ 0x06F))

/-- True for the codes a RUNT field may hold (R38). -/
def awaitCode (c : Nat) : Bool := decide (c < 64 ∨ (80 ≤ c ∧ c < 120) ∨ c = 127)

/-- The operand fields of an instruction with raw fields r, from the encoding tables of the instruction chapters. -/
def operandsOf : Instr → Raw → List Opd
  | .add _, r => [⟨r.d, dstTy r.m⟩, ⟨r.a, srcTy r.m⟩, ⟨r.b, srcTy r.m⟩]
  | .addc _, r => [⟨r.d, .dst⟩, ⟨r.a, .src⟩, ⟨r.b, .src⟩]
  | .sub _, r => [⟨r.d, dstTy r.m⟩, ⟨r.a, srcTy r.m⟩, ⟨r.b, srcTy r.m⟩]
  | .subb _, r => [⟨r.d, .dst⟩, ⟨r.a, .src⟩, ⟨r.b, .src⟩]
  | .mul _, r => [⟨r.d, dstTy r.m⟩, ⟨r.a, srcTy r.m⟩, ⟨r.b, srcTy r.m⟩]
  | .mulh _, r => [⟨r.d, dstTy r.m⟩, ⟨r.a, srcTy r.m⟩, ⟨r.b, srcTy r.m⟩]
  | .mad _, r => [⟨r.d, accTy r.m⟩, ⟨r.a, srcTy r.m⟩, ⟨r.b, srcTy r.m⟩]
  | .madw _, r => [⟨r.d, .accPair⟩, ⟨r.a, .src⟩, ⟨r.b, .src⟩]
  | .min _, r => [⟨r.d, dstTy r.m⟩, ⟨r.a, srcTy r.m⟩, ⟨r.b, srcTy r.m⟩]
  | .max _, r => [⟨r.d, dstTy r.m⟩, ⟨r.a, srcTy r.m⟩, ⟨r.b, srcTy r.m⟩]
  | .abs _, r => [⟨r.d, dstTy r.m⟩, ⟨r.a, srcTy r.m⟩, ⟨r.b, .zero⟩]
  | .neg _, r => [⟨r.d, dstTy r.m⟩, ⟨r.a, srcTy r.m⟩, ⟨r.b, .zero⟩]
  | .and _, r => [⟨r.d, dstTy r.m⟩, ⟨r.a, srcTy r.m⟩, ⟨r.b, srcTy r.m⟩]
  | .or _, r => [⟨r.d, dstTy r.m⟩, ⟨r.a, srcTy r.m⟩, ⟨r.b, srcTy r.m⟩]
  | .xor _, r => [⟨r.d, dstTy r.m⟩, ⟨r.a, srcTy r.m⟩, ⟨r.b, srcTy r.m⟩]
  | .andn _, r => [⟨r.d, dstTy r.m⟩, ⟨r.a, srcTy r.m⟩, ⟨r.b, srcTy r.m⟩]
  | .not _, r => [⟨r.d, dstTy r.m⟩, ⟨r.a, srcTy r.m⟩, ⟨r.b, .zero⟩]
  | .shl _, r => [⟨r.d, dstTy r.m⟩, ⟨r.a, srcTy r.m⟩, ⟨r.b, .src⟩]
  | .shr _, r => [⟨r.d, dstTy r.m⟩, ⟨r.a, srcTy r.m⟩, ⟨r.b, .src⟩]
  | .sar _, r => [⟨r.d, dstTy r.m⟩, ⟨r.a, srcTy r.m⟩, ⟨r.b, .src⟩]
  | .rotl _, r => [⟨r.d, dstTy r.m⟩, ⟨r.a, srcTy r.m⟩, ⟨r.b, .src⟩]
  | .bfx _, r => [⟨r.d, dstTy r.m⟩, ⟨r.a, srcTy r.m⟩, ⟨r.b, .src⟩]
  | .bfi _, r => [⟨r.d, accTy r.m⟩, ⟨r.a, srcTy r.m⟩, ⟨r.b, .src⟩]
  | .bmsk _, r => [⟨r.d, dstTy r.m⟩, ⟨r.a, .src⟩, ⟨r.b, .src⟩]
  | .popc _, r => [⟨r.d, (if 2 ≤ r.m then .dstEven else .dst)⟩, ⟨r.a, srcTy r.m⟩, ⟨r.b, .zero⟩]
  | .clz _, r => [⟨r.d, (if 2 ≤ r.m then .dstEven else .dst)⟩, ⟨r.a, srcTy r.m⟩, ⟨r.b, .zero⟩]
  | .ctz _, r => [⟨r.d, (if 2 ≤ r.m then .dstEven else .dst)⟩, ⟨r.a, srcTy r.m⟩, ⟨r.b, .zero⟩]
  | .brev _, r => [⟨r.d, dstTy r.m⟩, ⟨r.a, srcTy r.m⟩, ⟨r.b, .zero⟩]
  | .lea _, r => [⟨r.d, .dstPair⟩, ⟨r.a, .srcPair⟩, ⟨r.b, .src⟩]
  | .mov _, r => [⟨r.d, dstTy r.m⟩, ⟨r.a, srcTy r.m⟩, ⟨r.b, .zero⟩]
  | .movi _, r => [⟨r.d, .dst⟩]
  | .movhi _, r => [⟨r.d, .acc⟩]
  | .v2g _, r => [⟨r.d, (.dstUni (if r.m = 2 then 2 else 1))⟩, ⟨r.a, srcTy r.m⟩, ⟨r.b, .zero⟩]
  | .addI _, r => [⟨r.d, .dst⟩, ⟨r.a, .src⟩]
  | .andI _, r => [⟨r.d, .dst⟩, ⟨r.a, .src⟩]
  | .orI _, r => [⟨r.d, .dst⟩, ⟨r.a, .src⟩]
  | .xorI _, r => [⟨r.d, .dst⟩, ⟨r.a, .src⟩]
  | .shlI _, r => [⟨r.d, .dst⟩, ⟨r.a, .src⟩]
  | .shrI _, r => [⟨r.d, .dst⟩, ⟨r.a, .src⟩]
  | .sarI _, r => [⟨r.d, .dst⟩, ⟨r.a, .src⟩]
  | .pand _, r => [⟨r.d, .dstPred⟩, ⟨r.a, .srcPred⟩, ⟨r.b, .srcPred⟩]
  | .por _, r => [⟨r.d, .dstPred⟩, ⟨r.a, .srcPred⟩, ⟨r.b, .srcPred⟩]
  | .pxor _, r => [⟨r.d, .dstPred⟩, ⟨r.a, .srcPred⟩, ⟨r.b, .srcPred⟩]
  | .pnot _, r => [⟨r.d, .dstPred⟩, ⟨r.a, .srcPred⟩, ⟨r.b, .zero⟩]
  | .bra _, _ => []
  | .brp _, r => [⟨112 + r.imm / 1048576, .srcPred⟩]
  | .call _, _ => []
  | .calli _, r => [⟨r.d, .zero⟩, ⟨r.a, .src⟩, ⟨r.b, .zero⟩]
  | .ret _, r => [⟨r.d, .zero⟩, ⟨r.a, .zero⟩, ⟨r.b, .zero⟩]
  | .exit _, r => [⟨r.d, .zero⟩, ⟨r.a, .zero⟩, ⟨r.b, .zero⟩]
  | .nop _, r => [⟨r.d, .zero⟩, ⟨r.a, .zero⟩, ⟨r.b, .zero⟩]
  | .yield _, r => [⟨r.d, .zero⟩, ⟨r.a, .zero⟩, ⟨r.b, .zero⟩]
  | .joinh _, _ => []
  | .trap _, r => [⟨r.d, .zero⟩]
  | .tret _, r => [⟨r.d, .zero⟩, ⟨r.a, .zero⟩, ⟨r.b, .zero⟩]
  | .pnew _, r => [⟨r.d, .dst⟩, ⟨r.a, .srcPair⟩, ⟨r.b, .srcPair⟩]
  | .pset _, r => [⟨r.d, .dst⟩, ⟨r.a, .srcPair⟩, ⟨r.b, .srcPair⟩]
  | .pedge _, r => [⟨r.d, .dst⟩, ⟨r.a, .srcPair⟩, ⟨r.b, .srcPair⟩]
  | .parm _, r => [⟨r.d, .dst⟩, ⟨r.a, .srcPair⟩, ⟨r.b, .src⟩]
  | .pwait _, r => [⟨r.d, .zero⟩, ⟨r.a, .srcPair⟩, ⟨r.b, .zero⟩]
  | .fadd _, r => [⟨r.d, .dst⟩, ⟨r.a, .src⟩, ⟨r.b, .src⟩]
  | .fsub _, r => [⟨r.d, .dst⟩, ⟨r.a, .src⟩, ⟨r.b, .src⟩]
  | .fmul _, r => [⟨r.d, .dst⟩, ⟨r.a, .src⟩, ⟨r.b, .src⟩]
  | .ffma _, r => [⟨r.d, .acc⟩, ⟨r.a, .src⟩, ⟨r.b, .src⟩]
  | .fmin _, r => [⟨r.d, .dst⟩, ⟨r.a, .src⟩, ⟨r.b, .src⟩]
  | .fmax _, r => [⟨r.d, .dst⟩, ⟨r.a, .src⟩, ⟨r.b, .src⟩]
  | .fabs _, r => [⟨r.d, .dst⟩, ⟨r.a, .src⟩, ⟨r.b, .zero⟩]
  | .fneg _, r => [⟨r.d, .dst⟩, ⟨r.a, .src⟩, ⟨r.b, .zero⟩]
  | .fcps _, r => [⟨r.d, .dst⟩, ⟨r.a, .src⟩, ⟨r.b, .src⟩]
  | .fcmp _, r => [⟨r.d, .dstPred⟩, ⟨r.a, .src⟩, ⟨r.b, .src⟩]
  | .fclass _, r => [⟨r.d, .dst⟩, ⟨r.a, .src⟩, ⟨r.b, .zero⟩]
  | .frnd _, r => [⟨r.d, .dst⟩, ⟨r.a, .src⟩, ⟨r.b, .zero⟩]
  | .fract _, r => [⟨r.d, .dst⟩, ⟨r.a, .src⟩, ⟨r.b, .zero⟩]
  | .fdiv _, r => [⟨r.d, .dst⟩, ⟨r.a, .src⟩, ⟨r.b, .src⟩]
  | .pack2 _, r => [⟨r.d, .dst⟩, ⟨r.a, .src⟩, ⟨r.b, .src⟩]
  | .hadd2 _, r => [⟨r.d, .dst⟩, ⟨r.a, .src⟩, ⟨r.b, .src⟩]
  | .hmul2 _, r => [⟨r.d, .dst⟩, ⟨r.a, .src⟩, ⟨r.b, .src⟩]
  | .hfma2 _, r => [⟨r.d, .acc⟩, ⟨r.a, .src⟩, ⟨r.b, .src⟩]
  | .rcp _, r => [⟨r.d, .dst⟩, ⟨r.a, .src⟩, ⟨r.b, .zero⟩]
  | .rsq _, r => [⟨r.d, .dst⟩, ⟨r.a, .src⟩, ⟨r.b, .zero⟩]
  | .sqrt _, r => [⟨r.d, .dst⟩, ⟨r.a, .src⟩, ⟨r.b, .zero⟩]
  | .exp2 _, r => [⟨r.d, .dst⟩, ⟨r.a, .src⟩, ⟨r.b, .zero⟩]
  | .log2 _, r => [⟨r.d, .dst⟩, ⟨r.a, .src⟩, ⟨r.b, .zero⟩]
  | .sin _, r => [⟨r.d, .dst⟩, ⟨r.a, .src⟩, ⟨r.b, .zero⟩]
  | .cos _, r => [⟨r.d, .dst⟩, ⟨r.a, .src⟩, ⟨r.b, .zero⟩]
  | .tanh _, r => [⟨r.d, .dst⟩, ⟨r.a, .src⟩, ⟨r.b, .zero⟩]
  | .xadd _, r => [⟨r.d, .dstPair⟩, ⟨r.a, .srcPair⟩, ⟨r.b, .srcPair⟩]
  | .xsub _, r => [⟨r.d, .dstPair⟩, ⟨r.a, .srcPair⟩, ⟨r.b, .srcPair⟩]
  | .xmul _, r => [⟨r.d, .dstPair⟩, ⟨r.a, .srcPair⟩, ⟨r.b, .srcPair⟩]
  | .xsqr _, r => [⟨r.d, .dstPair⟩, ⟨r.a, .srcPair⟩, ⟨r.b, .zero⟩]
  | .xsqrt _, r => [⟨r.d, .dstPair⟩, ⟨r.a, .srcPair⟩, ⟨r.b, .zero⟩]
  | .xrcp _, r => [⟨r.d, .dstPair⟩, ⟨r.a, .srcPair⟩, ⟨r.b, .zero⟩]
  | .xmin _, r => [⟨r.d, .dstPair⟩, ⟨r.a, .srcPair⟩, ⟨r.b, .srcPair⟩]
  | .xmax _, r => [⟨r.d, .dstPair⟩, ⟨r.a, .srcPair⟩, ⟨r.b, .srcPair⟩]
  | .xabs _, r => [⟨r.d, .dstPair⟩, ⟨r.a, .srcPair⟩, ⟨r.b, .zero⟩]
  | .xhull _, r => [⟨r.d, .dstPair⟩, ⟨r.a, .srcPair⟩, ⟨r.b, .srcPair⟩]
  | .xcont _, r => [⟨r.d, .dstPred⟩, ⟨r.a, .srcPair⟩, ⟨r.b, (if r.m = 0 then .zero else if r.m = 1 then .src else .srcPair)⟩]
  | .gshf _, r => [⟨r.d, .acc⟩, ⟨r.a, .src⟩] ++ (if r.m = 3 then [⟨r.b, .src⟩] else [])
  | .gbc _, r => [⟨r.d, (if r.m = 1 then .accPair else .acc)⟩, ⟨r.a, (if r.m = 1 then .srcPair else .src)⟩, ⟨r.b, .src⟩]
  | .gvote _, r => [⟨r.d, .dstPred⟩, ⟨r.a, .srcPred⟩, ⟨r.b, .zero⟩]
  | .gball _, r => [⟨r.d, .dst⟩, ⟨r.a, (if r.m % 2 = 1 then .zero else .srcPred)⟩, ⟨r.b, .zero⟩]
  | .gred _, r => [⟨r.d, .dst⟩, ⟨r.a, .src⟩]
  | .gscan _, r => [⟨r.d, (if r.b / 2 % 2 = 1 then .acc else .dst)⟩, ⟨r.a, .src⟩]
  | .gmatch _, r => [⟨r.d, .dst⟩, ⟨r.a, (if r.m = 1 then .srcPair else .src)⟩, ⟨r.b, .zero⟩]
  | .gelect _, r => [⟨r.d, .dstPred⟩, ⟨r.a, (if r.m % 2 = 1 then .zero else .srcPred)⟩, ⟨r.b, .zero⟩]
  | .gsync _, r => [⟨r.d, .zero⟩, ⟨r.a, .zero⟩, ⟨r.b, .zero⟩]
  | .ldp _, r => [⟨r.d, (loadDst (descSz r.b))⟩, ⟨r.a, .src⟩]
  | .stp _, r => [⟨r.d, (storeData (szRegs (descSz r.b)))⟩, ⟨r.a, .src⟩]
  | .lds _, r => [⟨r.d, (loadDst (descSz r.b))⟩, ⟨r.a, .src⟩]
  | .sts _, r => [⟨r.d, (storeData (szRegs (descSz r.b)))⟩, ⟨r.a, .src⟩]
  | .ldc _, r => [⟨r.d, (loadDst (descSz r.b))⟩, ⟨r.a, .src⟩]
  | .stc _, r => [⟨r.d, (storeData (szRegs (descSz r.b)))⟩, ⟨r.a, .src⟩]
  | .ldg _, r => [⟨r.d, (loadDst (descSz r.b))⟩, ⟨r.a, .srcPair⟩]
  | .stg _, r => [⟨r.d, (storeData (szRegs (descSz r.b)))⟩, ⟨r.a, .srcPair⟩]
  | .stgm _, r => [⟨r.d, (storeData (if r.m = 0 then 1 else if r.m = 1 then 2 else 4))⟩, ⟨r.a, .srcPair⟩, ⟨r.b, .src⟩]
  | .ldk _, r => [⟨r.d, (loadDst (descSz r.b))⟩, ⟨r.a, .src⟩]
  | .stk _, r => [⟨r.d, (storeData (szRegs (descSz r.b)))⟩, ⟨r.a, .src⟩]
  | .lda _, r => [⟨r.d, (loadDst (descSz r.b))⟩, ⟨r.a, .src⟩]
  | .pref _, r => [⟨r.d, .zero⟩, ⟨r.a, .srcPair⟩, ⟨r.b, .zero⟩]
  | .brkf _, r => [⟨r.d, .dstQuad⟩, ⟨r.a, .srcPair⟩, ⟨r.b, .srcThree⟩]
  | .ats _, r => [⟨r.d, (.atom (atomRegs (atomOpc r.b)))⟩, ⟨r.a, .src⟩]
  | .atg _, r => [⟨r.d, (.atom (atomRegs (atomOpc r.b)))⟩, ⟨r.a, .srcPair⟩]
  | .red _, r => [⟨r.d, (storeData (if atomOpc r.b = 1 then 2 else 1))⟩, ⟨r.a, .srcPair⟩]
  | .rflush _, r => [⟨r.d, .zero⟩, ⟨r.a, .zero⟩, ⟨r.b, .zero⟩]
  | .fence _, r => [⟨r.d, .zero⟩, ⟨r.a, .zero⟩]
  | .icinvLine _, r => [⟨r.d, .zero⟩, ⟨r.a, .srcPair⟩, ⟨r.b, .zero⟩]
  | .icinvAll _, r => [⟨r.d, .zero⟩, ⟨r.a, .zero⟩, ⟨r.b, .zero⟩]
  | .bari _, r => [⟨r.d, .zero⟩, ⟨r.a, .src⟩, ⟨r.b, .src⟩]
  | .barx _, r => [⟨r.d, (if r.m = 1 then .dst else .zero)⟩, ⟨r.a, .src⟩, ⟨r.b, .src⟩]
  | .bara _, r => [⟨r.d, .dst⟩, ⟨r.a, .src⟩, ⟨r.b, .src⟩]
  | .barw _, r => [⟨r.d, .zero⟩, ⟨r.a, .src⟩, ⟨r.b, .src⟩]
  | .barwTry _, r => [⟨r.d, .dstPred⟩, ⟨r.a, .src⟩, ⟨r.b, .src⟩]
  | .bart _, r => [⟨r.d, .dst⟩, ⟨r.a, .src⟩, ⟨r.b, .zero⟩]
  | .eqp _, r => [⟨r.d, .zero⟩]
  | .migr _, r => [⟨r.d, .zero⟩, ⟨r.a, .zero⟩, ⟨r.b, .zero⟩]
  | .csrr _, r => [⟨r.d, .dst⟩]
  | .csrw _, r => [⟨r.d, .src⟩]
  | .tlbiPage _, r => [⟨r.d, .zero⟩, ⟨r.a, .srcPair⟩, ⟨r.b, .zero⟩]
  | .tlbiAsid _, r => [⟨r.d, .zero⟩, ⟨r.a, .zero⟩, ⟨r.b, .zero⟩]
  | .halt _, r => [⟨r.d, .zero⟩, ⟨r.a, .src⟩, ⟨r.b, .zero⟩]
  | .runh _, _ => []
  | .runt _, _ => []
  | .pad _, _ => []
  | .uniformPipeOp _ _, r => uniOperands r
  | .cmp _, r => [⟨r.d, .dstPred⟩, ⟨r.a, srcTy r.m⟩, ⟨r.b, srcTy r.m⟩, ⟨r.c, (if r.e / 8 % 4 = 0 then .zero else .srcPred)⟩]
  | .cmpv _, r => [⟨r.d, .dst⟩, ⟨r.a, srcTy r.m⟩, ⟨r.b, srcTy r.m⟩, ⟨r.c, (if r.e / 8 % 4 = 0 then .zero else .srcPred)⟩]
  | .sel _, r => [⟨r.d, dstTy r.m⟩, ⟨r.a, srcTy r.m⟩, ⟨r.b, srcTy r.m⟩, ⟨r.c, .srcPred⟩]
  | .prmt _, r => [⟨r.d, .dst⟩, ⟨r.a, .src⟩, ⟨r.b, .src⟩, ⟨r.c, .src⟩]
  | .fshl _, r => [⟨r.d, .dst⟩, ⟨r.a, .src⟩, ⟨r.b, .src⟩, ⟨r.c, .src⟩]
  | .fshr _, r => [⟨r.d, .dst⟩, ⟨r.a, .src⟩, ⟨r.b, .src⟩, ⟨r.c, .src⟩]
  | .ffma4 _, r => [⟨r.d, .dst⟩, ⟨r.a, .src⟩, ⟨r.b, .src⟩, ⟨r.c, .src⟩]
  | .cvt _, r => [⟨r.d, (if 10 ≤ r.e % 16 then .dstPair else .dst)⟩, ⟨r.a, (if 10 ≤ r.e / 16 % 16 then .srcPair else .src)⟩, ⟨r.b, .zero⟩, ⟨r.c, .zero⟩]
  | .tidw _, r => [⟨r.d, .dst⟩, ⟨r.a, .src⟩, ⟨r.b, .src⟩, ⟨r.c, .zero⟩]
  | .tidr _, r => [⟨r.d, .dst⟩, ⟨r.a, .src⟩, ⟨r.b, .src⟩, ⟨r.c, .zero⟩]
  | .cpy _, r => [⟨r.d, (if r.e % 2 = 1 then .src else .zero)⟩, ⟨r.a, .src⟩, ⟨r.b, .src⟩, engC r]
  | .cpyg _, r => [⟨r.d, .src⟩, ⟨r.a, .src⟩, ⟨r.b, .src⟩, engC r]
  | .cpyx _, r => [⟨r.d, .src⟩, ⟨r.a, .src⟩, ⟨r.b, .src⟩, engC r]
  | .qnt _, r => [⟨r.d, .zero⟩, ⟨r.a, .src⟩, ⟨r.b, .src⟩, engC r]
  | .pub _, r => [⟨r.d, .dst⟩, ⟨r.a, .src⟩, ⟨r.b, .zero⟩, ⟨r.c, .zero⟩]
  | .mxcfgAcq _, r => [⟨r.d, .dst⟩, ⟨r.a, .src⟩, ⟨r.b, .zero⟩, ⟨r.c, .zero⟩]
  | .mxcfgSet _, r => [⟨r.d, .dst⟩, ⟨r.a, .src⟩, ⟨r.b, .zero⟩, ⟨r.c, .zero⟩]
  | .mxcfgRel _, r => [⟨r.d, .dst⟩, ⟨r.a, .zero⟩, ⟨r.b, .zero⟩, ⟨r.c, .zero⟩]
  | .mxcfgCbw _, r => [⟨r.d, .dst⟩, ⟨r.a, .src⟩, ⟨r.b, .zero⟩, ⟨r.c, .zero⟩]
  | .mxlw _, r => [⟨r.d, .zero⟩, ⟨r.a, .src⟩, ⟨r.b, .src⟩, ⟨r.c, .srcDash⟩]
  | .mxsw _, r => [⟨r.d, .zero⟩, ⟨r.a, .zero⟩, ⟨r.b, .zero⟩, ⟨r.c, .zero⟩]
  | .mxst _, r => [⟨r.d, .src⟩, ⟨r.a, .src⟩, ⟨r.b, (if r.m = 0 then .src else .zero)⟩, ⟨r.c, .src⟩]
  | .mxdr _, r => [⟨r.d, .src⟩, ⟨r.a, .src⟩, ⟨r.b, .src⟩, ⟨r.c, .src⟩]
  | .mxz _, r => [⟨r.d, .src⟩, ⟨r.a, .src⟩, ⟨r.b, .zero⟩, ⟨r.c, .zero⟩]
  | .mxpr _, r => [⟨r.d, .src⟩, ⟨r.a, .src⟩, ⟨r.b, (if r.e / 32768 % 2 = 1 then .zero else .src)⟩, ⟨r.c, .src⟩]
  | .trav _, r => [⟨r.d, (.dstRegs 4)⟩, ⟨r.a, (.srcRegs 8)⟩, ⟨r.b, (.srcRegs 2)⟩, ⟨r.c, (.srcRegs 2)⟩]
  | .mwalk _, r => [⟨r.d, (.dstRegs 4)⟩, ⟨r.a, (if r.e = 1 then .zero else .srcRegs (if r.m = 3 then 4 else 8))⟩, ⟨r.b, (if r.e = 1 then .zero else .srcRegs 2)⟩, ⟨r.c, (.srcRegs 2)⟩]
  | .mloc _, r => [⟨r.d, (.dstRegs 4)⟩, ⟨r.a, (.srcRegs 4)⟩, ⟨r.b, (.srcRegs 2)⟩, ⟨r.c, (.srcRegs 2)⟩]
  | .march _, r => [⟨r.d, (.dstRegs 4)⟩, ⟨r.a, (.srcRegs 8)⟩, ⟨r.b, (if r.m / 2 = 0 then .srcRegs 2 else .src)⟩, ⟨r.c, .src⟩]
  | .rres _, r => [⟨r.d, (.dstRegs 4)⟩, ⟨r.a, (if r.m = 3 then .srcRegs 4 else .zero)⟩, ⟨r.b, .zero⟩, ⟨r.c, .src⟩]
  | .rrel _, r => [⟨r.d, .zero⟩, ⟨r.a, .zero⟩, ⟨r.b, .zero⟩, ⟨r.c, .src⟩]
  | .rget _, r => [⟨r.d, (.dstRegs 4)⟩, ⟨r.a, .zero⟩, ⟨r.c, .src⟩]
  | .fprune _, r => [⟨r.d, (.dstRegs 4)⟩, ⟨r.a, (.srcRegs 8)⟩, ⟨r.b, (.srcRegs 2)⟩, ⟨r.c, .src⟩]
  | .primTri _, r => [⟨r.d, (.dstRegs 1)⟩, ⟨r.a, .src⟩, ⟨r.b, (.srcRegs 2)⟩, ⟨r.c, .zero⟩]
  | .primEnd _, r => [⟨r.d, (.dstRegs 1)⟩, ⟨r.a, .zero⟩, ⟨r.b, (.srcRegs 2)⟩, ⟨r.c, .zero⟩]
  | .visw _, r => [⟨r.d, .zero⟩, ⟨r.a, .src⟩, ⟨r.b, (.srcRegs 2)⟩, ⟨r.c, (.srcRegs 2)⟩]
  | .visr _, r => [⟨r.d, (.dstRegs 4)⟩, ⟨r.a, .src⟩, ⟨r.b, (.srcRegs 2)⟩, ⟨r.c, .zero⟩]
  | .attr _, r => [⟨r.d, (.dstRegs 4)⟩, ⟨r.a, .src⟩, ⟨r.b, (.srcRegs 2)⟩, ⟨r.c, .src⟩]
  | .pick _ _, _ => []
  | .overdue _, _ => []
  | .joinWaitTimeout _, _ => []
  | .resultArrival _ _, _ => []
  | .groupMove _, _ => []
  | .convergenceMismatch _, _ => []
  | .doorbell _ _ _, _ => []
  | .podComplete _, _ => []
  | .pendingEntryRelease _ _, _ => []
  | .readyQueuePop _, _ => []
  | .teamPlacement _, _ => []
  | .contResume _, _ => []
  | .reclamationComplete _, _ => []
  | .reductionDrain _, _ => []
  | .accessCounterRecord _ _, _ => []
  | .tlbinvPage _ _, _ => []
  | .tlbinvAsid _, _ => []
  | .tlbinvAll, _ => []
  | .tlbinvDone, _ => []
  | .marcfgWrite _, _ => []
  | .carveChange, _ => []
  | .l1cfgWrite _ _, _ => []
  | .accctlWrite _, _ => []
  | .registerWrite _ _ _, _ => []
  | .engineCommandStart _, _ => []
  | .engineBytesLand _ _ _, _ => []
  | .engineCommandEnd _ _, _ => []
  | .pubExchange _ _, _ => []
  | .matrixCommandExecute _ _, _ => []
  | .promote _ _, _ => []
  | .rayCommandStart _ _, _ => []
  | .slotEvict _ _, _ => []
  | .steplimit _ _, _ => []
  | .fwork _ _, _ => []
  | .fpruneExecute _, _ => []
  | .binTriangle _, _ => []
  | .binReplay _ _, _ => []
  | .tileClose _ _ _, _ => []
  | .pmtctlSave _ _, _ => []
  | .pmtctlHalt _ _, _ => []
  | .pmtctlResume _ _, _ => []
  | .coreHalt, _ => []
  | .teamSave _, _ => []
  | .teamRestore _, _ => []
  | .killCommand _ _, _ => []
  | .hardwareError _, _ => []
  | .selfTest _ _, _ => []
  | .counterSample, _ => []
  | .pwrctlRun, _ => []
  | .pwrctlIdle, _ => []
  | .pwrctlRetain, _ => []
  | .powerStateChange, _ => []
  | .secadv _, _ => []
  | .ckptctlGo _, _ => []
  | .checkpointEnd _, _ => []
  | .bringUp _, _ => []
  | .companionStore _ _, _ => []

/-- The remaining checks of an instruction's fields: must-be-zero fields and illegal values that no operand kind states. -/
def fieldsOk : Instr → Raw → Bool
  | .add _, _ => true
  | .addc _, _ => true
  | .sub _, _ => true
  | .subb _, _ => true
  | .mul _, _ => true
  | .mulh _, _ => true
  | .mad _, _ => true
  | .madw _, r => decide (r.m ≤ 1)
  | .min _, _ => true
  | .max _, _ => true
  | .abs _, _ => true
  | .neg _, _ => true
  | .and _, _ => true
  | .or _, _ => true
  | .xor _, _ => true
  | .andn _, _ => true
  | .not _, _ => true
  | .shl _, _ => true
  | .shr _, _ => true
  | .sar _, _ => true
  | .rotl _, _ => true
  | .bfx _, _ => true
  | .bfi _, _ => true
  | .bmsk _, _ => true
  | .popc _, _ => true
  | .clz _, _ => true
  | .ctz _, _ => true
  | .brev _, _ => true
  | .lea _, _ => true
  | .mov _, _ => true
  | .movi _, _ => true
  | .movhi _, _ => true
  | .v2g _, r => decide (r.m % 2 = 0)
  | .addI _, _ => true
  | .andI _, _ => true
  | .orI _, _ => true
  | .xorI _, _ => true
  | .shlI _, _ => true
  | .shrI _, _ => true
  | .sarI _, _ => true
  | .pand _, _ => true
  | .por _, _ => true
  | .pxor _, _ => true
  | .pnot _, r => decide (r.m = 0)
  | .bra _, r => decide (r.imm < 524288)
  | .brp _, _ => true
  | .call _, r => decide (r.imm < 524288)
  | .calli _, r => decide (r.m = 0)
  | .ret _, r => decide (r.m = 0)
  | .exit _, r => decide (r.m = 0)
  | .nop _, r => decide (r.m = 0)
  | .yield _, r => decide (r.m = 0)
  | .joinh _, r => decide (r.imm < 524288)
  | .trap _, _ => true
  | .tret _, r => decide (r.m = 0)
  | .pnew _, _ => true
  | .pset _, _ => true
  | .pedge _, r => decide (r.m = 0)
  | .parm _, _ => true
  | .pwait _, r => decide (r.m = 0)
  | .fadd _, _ => true
  | .fsub _, _ => true
  | .fmul _, _ => true
  | .ffma _, _ => true
  | .fmin _, r => decide (r.m = 0)
  | .fmax _, r => decide (r.m = 0)
  | .fabs _, r => decide (r.m = 0)
  | .fneg _, r => decide (r.m = 0)
  | .fcps _, r => decide (r.m = 0)
  | .fcmp _, _ => true
  | .fclass _, r => decide (r.m ≤ 2)
  | .frnd _, _ => true
  | .fract _, r => decide (r.m = 0)
  | .fdiv _, _ => true
  | .pack2 _, _ => true
  | .hadd2 _, _ => true
  | .hmul2 _, _ => true
  | .hfma2 _, _ => true
  | .rcp _, _ => true
  | .rsq _, r => decide (r.m = 0)
  | .sqrt _, _ => true
  | .exp2 _, r => decide (r.m = 0)
  | .log2 _, r => decide (r.m = 0)
  | .sin _, r => decide (r.m = 0)
  | .cos _, r => decide (r.m = 0)
  | .tanh _, r => decide (r.m = 0)
  | .xadd _, r => decide (r.m = 0)
  | .xsub _, r => decide (r.m = 0)
  | .xmul _, r => decide (r.m = 0)
  | .xsqr _, r => decide (r.m = 0)
  | .xsqrt _, r => decide (r.m = 0)
  | .xrcp _, r => decide (r.m = 0)
  | .xmin _, r => decide (r.m = 0)
  | .xmax _, r => decide (r.m = 0)
  | .xabs _, r => decide (r.m = 0)
  | .xhull _, r => decide (r.m = 0)
  | .xcont _, _ => true
  | .gshf _, r => decide (r.m = 3 ∨ r.b ≤ 7)
  | .gbc _, r => decide (r.m ≤ 1)
  | .gvote _, _ => true
  | .gball _, r => decide (r.m ≠ 3)
  | .gred _, r => decide (r.b / 2 % 2 = 0 ∧ r.b / 16 ≤ 5 ∧ r.b / 4 % 4 ≤ 2 ∧ r.b % 2 = 0 ∧ (3 ≤ r.b / 16 → r.b / 4 % 4 ≠ 2) ∧ (r.m = 0 ∨ (r.b / 16 = 0 ∧ r.b / 4 % 4 = 2)))
  | .gscan _, r => decide (r.b / 16 ≤ 5 ∧ r.b / 4 % 4 ≤ 2 ∧ r.b % 2 = 0 ∧ (3 ≤ r.b / 16 → r.b / 4 % 4 ≠ 2) ∧ (r.m = 0 ∨ (r.b / 16 = 0 ∧ r.b / 4 % 4 = 2)))
  | .gmatch _, r => decide (r.m ≤ 1)
  | .gelect _, r => decide (r.m ≠ 3)
  | .gsync _, r => decide (r.m = 0)
  | .ldp _, r => decide (descSz r.b ≤ 6 ∧ r.b % 2 = 0 ∧ (r.m = 0 → descScope r.b = 0) ∧ (r.m ≠ 0 → descSz r.b ≠ 6) ∧ r.m = 0)
  | .stp _, r => decide (descSz r.b ≤ 6 ∧ r.b % 2 = 0 ∧ (r.m = 0 → descScope r.b = 0) ∧ (r.m ≠ 0 → descSz r.b ≠ 6) ∧ r.m = 0 ∧ r.m ≤ 2)
  | .lds _, r => decide (descSz r.b ≤ 6 ∧ r.b % 2 = 0 ∧ (r.m = 0 → descScope r.b = 0) ∧ (r.m ≠ 0 → descSz r.b ≠ 6) ∧ r.m ≤ 2 ∧ descScope r.b ≤ 3)
  | .sts _, r => decide (descSz r.b ≤ 6 ∧ r.b % 2 = 0 ∧ (r.m = 0 → descScope r.b = 0) ∧ (r.m ≠ 0 → descSz r.b ≠ 6) ∧ r.m ≤ 2 ∧ descScope r.b ≤ 3 ∧ r.m ≤ 2)
  | .ldc _, r => decide (descSz r.b ≤ 6 ∧ r.b % 2 = 0 ∧ (r.m = 0 → descScope r.b = 0) ∧ (r.m ≠ 0 → descSz r.b ≠ 6) ∧ descScope r.b ≤ 3 ∧ (r.m = 3 → descScope r.b = 3))
  | .stc _, r => decide (descSz r.b ≤ 6 ∧ r.b % 2 = 0 ∧ (r.m = 0 → descScope r.b = 0) ∧ (r.m ≠ 0 → descSz r.b ≠ 6) ∧ descScope r.b ≤ 3 ∧ (r.m = 3 → descScope r.b = 3) ∧ r.m ≤ 2)
  | .ldg _, r => decide (descSz r.b ≤ 6 ∧ r.b % 2 = 0 ∧ (r.m = 0 → descScope r.b = 0) ∧ (r.m ≠ 0 → descSz r.b ≠ 6) ∧ descScope r.b ≤ 5 ∧ (r.m = 3 → 4 ≤ descScope r.b))
  | .stg _, r => decide (descSz r.b ≤ 6 ∧ r.b % 2 = 0 ∧ (r.m = 0 → descScope r.b = 0) ∧ (r.m ≠ 0 → descSz r.b ≠ 6) ∧ descScope r.b ≤ 5 ∧ (r.m = 3 → 4 ≤ descScope r.b) ∧ r.m ≤ 2)
  | .stgm _, r => decide (r.m ≤ 2)
  | .ldk _, r => decide (descSz r.b ≤ 6 ∧ r.b % 2 = 0 ∧ (r.m = 0 → descScope r.b = 0) ∧ (r.m ≠ 0 → descSz r.b ≠ 6) ∧ descScope r.b ≤ 4 ∧ (r.m = 3 → descScope r.b = 4))
  | .stk _, r => decide (descSz r.b ≤ 6 ∧ r.b % 2 = 0 ∧ (r.m = 0 → descScope r.b = 0) ∧ (r.m ≠ 0 → descSz r.b ≠ 6) ∧ descScope r.b ≤ 4 ∧ (r.m = 3 → descScope r.b = 4) ∧ r.m ≤ 2)
  | .lda _, r => decide (descSz r.b ≤ 6 ∧ r.b % 2 = 0 ∧ (r.m = 0 → descScope r.b = 0) ∧ (r.m ≠ 0 → descSz r.b ≠ 6) ∧ r.m = 0)
  | .pref _, r => decide (r.m ≤ 1)
  | .brkf _, r => decide (r.m = 0)
  | .ats _, r => decide (atomOpc r.b ≤ 0x18 ∧ atomScope r.b ≤ 1)
  | .atg _, r => decide (atomOpc r.b ≤ 0x18)
  | .red _, r => decide (atomOpc r.b ∈ [0x00, 0x01, 0x02, 0x03, 0x04, 0x07, 0x08, 0x09, 0x0C, 0x0D, 0x0F, 0x11] ∧ r.b % 4 = 0 ∧ r.m = 0)
  | .rflush _, r => decide (r.m = 0)
  | .fence _, r => decide (r.b < 16 ∧ r.b % 2 = 0 ∧ descScope r.b ≤ 5 ∧ (r.m = 3 → 4 ≤ descScope r.b))
  | .icinvLine _, r => decide (r.m = 0)
  | .icinvAll _, r => decide (r.m = 1)
  | .bari _, r => decide (r.m = 0)
  | .barx _, r => decide (r.m ≤ 1)
  | .bara _, r => decide (r.m = 0)
  | .barw _, r => decide (r.m = 0)
  | .barwTry _, r => decide (r.m = 1)
  | .bart _, _ => true
  | .eqp _, r => decide (r.imm < 4096)
  | .migr _, r => decide (r.m = 0)
  | .csrr _, r => decide ((r.d < 64 ∨ r.d = 127) ∧ r.imm < 4096 ∧ csrAssigned r.imm = true)
  | .csrw _, r => decide (r.imm < 4096 ∧ csrAssigned r.imm = true)
  | .tlbiPage _, r => decide (r.m = 0)
  | .tlbiAsid _, r => decide (r.m = 1)
  | .halt _, r => decide (r.m = 0)
  | .runh _, r => decide (1 ≤ r.imm / 262144 ∧ r.imm / 262144 ≤ 24)
  | .runt _, r => decide (awaitCode r.d = true ∧ awaitCode r.a = true ∧ awaitCode r.b = true)
  | .pad _, _ => true
  | .uniformPipeOp _ _, r => decide (r.c = 0 ∧ r.e < 2 ∧ (r.e = 1 → uniHasB r.sub = true) ∧ (r.sub = 0x07 → r.m ≤ 1))
  | .cmp _, r => decide (r.e % 8 ≤ 5 ∧ r.e < 64 ∧ (r.e / 8 % 4 = 0 → r.e / 32 = 0))
  | .cmpv _, r => decide (r.e % 8 ≤ 5 ∧ r.e < 64 ∧ (r.e / 8 % 4 = 0 → r.e / 32 = 0))
  | .sel _, r => decide (r.e < 2)
  | .prmt _, r => decide (r.e = 0 ∧ r.m = 0)
  | .fshl _, r => decide (r.e = 0 ∧ r.m = 0)
  | .fshr _, r => decide (r.e = 0 ∧ r.m = 0)
  | .ffma4 _, r => decide (r.e = 0)
  | .cvt _, r => decide (r.e < 512 ∧ r.e % 16 ≤ 11 ∧ r.e / 16 % 16 ≤ 11 ∧ (r.e / 256 = 1 → r.e / 16 % 16 = 1 ∨ r.e / 16 % 16 = 2))
  | .tidw _, r => decide (r.m = 0 ∧ r.e = 0)
  | .tidr _, r => decide (r.m = 0 ∧ r.e = 0)
  | .cpy _, r => decide (r.e % 65536 < 2)
  | .cpyg _, r => decide (r.e % 65536 = 0)
  | .cpyx _, r => decide (r.e % 65536 = 0)
  | .qnt _, r => decide (r.e % 65536 = 0)
  | .pub _, r => decide (r.m = 0 ∧ r.e = 0)
  | .mxcfgAcq _, r => decide (r.m = 0 ∧ r.e = 0)
  | .mxcfgSet _, r => decide (r.m = 1 ∧ r.e = 0)
  | .mxcfgRel _, r => decide (r.m = 2 ∧ r.e = 0)
  | .mxcfgCbw _, r => decide (r.m = 3 ∧ r.e = 0)
  | .mxlw _, r => decide (r.m = 0 ∧ r.e / 2048 % 8 = 0 ∧ barOk r.e = true)
  | .mxsw _, r => decide (r.m = 0 ∧ r.e / 2048 % 32 = 0 ∧ barOk r.e = true)
  | .mxst _, r => decide (r.m ≤ 1 ∧ r.d ≠ 127 ∧ r.e / 2048 % 8 = 0 ∧ barOk r.e = true)
  | .mxdr _, r => decide (r.d ≠ 127 ∧ r.e / 16384 % 4 = 0 ∧ r.e / 2048 % 2 = 0 ∧ barOk r.e = true)
  | .mxz _, r => decide (r.m = 0 ∧ r.d ≠ 127 ∧ r.e / 2048 % 32 = 0 ∧ barOk r.e = true)
  | .mxpr _, r => decide (r.d ≠ 127 ∧ r.e / 2048 % 16 = 0 ∧ barOk r.e = true)
  | .trav _, r => decide (r.m ≤ 1 ∧ r.e = 0)
  | .mwalk _, r => decide (r.e < 2)
  | .mloc _, r => decide (r.m = 0 ∧ r.e = 0)
  | .march _, r => decide (r.e = 0)
  | .rres _, r => decide (r.e = 0)
  | .rrel _, r => decide (r.m = 0 ∧ r.e = 0)
  | .rget _, r => decide (r.b ≤ 7 ∧ r.m ≤ 1 ∧ (r.m = 1 → r.b ≤ 1) ∧ r.e = 0)
  | .fprune _, r => decide (r.m = 0 ∧ r.e = 0)
  | .primTri _, r => decide (r.m = 0 ∧ r.e = 0)
  | .primEnd _, r => decide (r.m = 1 ∧ r.e = 0)
  | .visw _, r => decide (r.m = 0 ∧ r.e = 0)
  | .visr _, r => decide (r.m ≤ 1 ∧ r.e = 0)
  | .attr _, r => decide (r.m = 0 ∧ r.e < 256)
  | .pick _ _, _ => true
  | .overdue _, _ => true
  | .joinWaitTimeout _, _ => true
  | .resultArrival _ _, _ => true
  | .groupMove _, _ => true
  | .convergenceMismatch _, _ => true
  | .doorbell _ _ _, _ => true
  | .podComplete _, _ => true
  | .pendingEntryRelease _ _, _ => true
  | .readyQueuePop _, _ => true
  | .teamPlacement _, _ => true
  | .contResume _, _ => true
  | .reclamationComplete _, _ => true
  | .reductionDrain _, _ => true
  | .accessCounterRecord _ _, _ => true
  | .tlbinvPage _ _, _ => true
  | .tlbinvAsid _, _ => true
  | .tlbinvAll, _ => true
  | .tlbinvDone, _ => true
  | .marcfgWrite _, _ => true
  | .carveChange, _ => true
  | .l1cfgWrite _ _, _ => true
  | .accctlWrite _, _ => true
  | .registerWrite _ _ _, _ => true
  | .engineCommandStart _, _ => true
  | .engineBytesLand _ _ _, _ => true
  | .engineCommandEnd _ _, _ => true
  | .pubExchange _ _, _ => true
  | .matrixCommandExecute _ _, _ => true
  | .promote _ _, _ => true
  | .rayCommandStart _ _, _ => true
  | .slotEvict _ _, _ => true
  | .steplimit _ _, _ => true
  | .fwork _ _, _ => true
  | .fpruneExecute _, _ => true
  | .binTriangle _, _ => true
  | .binReplay _ _, _ => true
  | .tileClose _ _ _, _ => true
  | .pmtctlSave _ _, _ => true
  | .pmtctlHalt _ _, _ => true
  | .pmtctlResume _ _, _ => true
  | .coreHalt, _ => true
  | .teamSave _, _ => true
  | .teamRestore _, _ => true
  | .killCommand _ _, _ => true
  | .hardwareError _, _ => true
  | .selfTest _ _, _ => true
  | .counterSample, _ => true
  | .pwrctlRun, _ => true
  | .pwrctlIdle, _ => true
  | .pwrctlRetain, _ => true
  | .powerStateChange, _ => true
  | .secadv _, _ => true
  | .ckptctlGo _, _ => true
  | .checkpointEnd _, _ => true
  | .bringUp _, _ => true
  | .companionStore _ _, _ => true

/-- The raw fields of an instruction, all zero for an event. -/
def rawOf (i : Instr) : Raw :=
  match instrRaw i with
  | some r => r
  | none => { op := 0, sub := 0, k := false, d := 0, a := 0, b := 0, m := 0, c := 0, e := 0, imm := 0, lit := none }

/-- The operand fields of an instruction. -/
def operands (i : Instr) : List Opd := operandsOf i (rawOf i)

/-- The latency class by opcode (R145); a uniform-pipe form takes that of its SUB. -/
def latencyOp (op sub : Nat) : Latency :=
  let base (o : Nat) : Latency :=
    if o ≤ 0x03 ∨ (0x08 ≤ o ∧ o ≤ 0x1F) ∨ (0x21 ≤ o ∧ o ≤ 0x27) ∨ (0x40 ≤ o ∧ o ≤ 0x43) ∨ o = 0xF1 then .fix1
    else if (0x04 ≤ o ∧ o ≤ 0x07) ∨ o = 0x20 ∨ (0x60 ≤ o ∧ o ≤ 0x6C) ∨ (0x6E ≤ o ∧ o ≤ 0x71) ∨ (0x7A ≤ o ∧ o ≤ 0x7D) ∨
      (0x80 ≤ o ∧ o ≤ 0x84) ∨ o = 0xF2 then .fix4
    else if (0x44 ≤ o ∧ o ≤ 0x4E) ∨ o = 0x54 ∨ o = 0xC5 ∨ o = 0xC6 ∨ (0xD1 ≤ o ∧ o ≤ 0xD3) ∨ o = 0x98 then .ctrl
    else if 0xE0 ≤ o ∧ o ≤ 0xE2 then .frame
    else .long
  if op = 0xF0 then base sub else base op

/-- The latency class of an instruction (R145). -/
def latency (i : Instr) : Latency := let r := rawOf i; latencyOp r.op r.sub

/-- The pipe of an instruction in L-form (R31). -/
def pipe (i : Instr) : Pipe :=
  let o := (rawOf i).op
  if o ≤ 0x43 ∨ o = 0xF0 ∨ o = 0xF1 then .a
  else if (0x60 ≤ o ∧ o ≤ 0x8F) ∨ o = 0xF2 then .b
  else if o = 0xE2 then .none
  else .m

/-- The control instructions of R34. -/
def isControl (i : Instr) : Bool :=
  decide ((rawOf i).op ∈ [0x44, 0x45, 0x46, 0x47, 0x48, 0x49, 0x4D, 0x4E, 0x54, 0xC6, 0xD3]) && (instrRaw i).isSome

/-- The group-convergent instructions of R142. -/
def isConvergent (i : Instr) : Bool :=
  let o := (rawOf i).op
  decide ((0x90 ≤ o ∧ o ≤ 0x98) ∨ o = 0xC6 ∨ o = 0x54) && (instrRaw i).isSome

/-- The collectives (R206). -/
def isCollective (i : Instr) : Bool :=
  let o := (rawOf i).op
  decide (0x90 ≤ o ∧ o ≤ 0x98) && (instrRaw i).isSome

/-- True when a register code starts an n-aligned group within v0–v63, x0–x15 or g0–g31 (R28, R266, R322). -/
def groupOk (n c : Nat) : Bool := decide (c < 112 ∧ c % n = 0)

/-- True when code c is a legal single source in the form (R25). -/
def srcOk (f : Form) (c : Nat) : Bool :=
  match f with
  | .d => true
  | .l => decide (¬ (68 ≤ c ∧ c < 80))

/-- True when code c is a legal single destination: v, a temporary or latch where the class and pipe allow one, or 127
(R25, R33, R39). -/
def dstOk (f : Form) (lat : Latency) (p : Pipe) (c : Nat) : Bool :=
  if c < 64 then true
  else if c < 80 then
    match f with
    | .d => decide (lat ≠ .long)
    | .l => decide (c < 68 ∧ (p = .a ∨ p = .b) ∧ (lat = .fix1 ∨ lat = .fix4))
  else decide (c = 127)

/-- True when an operand field holds a code its kind allows (R25, R28, R33, R39, R156, R185, R206, R263, R266, R322). -/
def opdOk (f : Form) (lat : Latency) (p : Pipe) (o : Opd) : Bool :=
  let c := o.code
  let noLatch : Bool := match f with | .d => true | .l => decide (¬ (64 ≤ c ∧ c < 80))
  match o.kind with
  | .src => srcOk f c
  | .srcPair => (decide (112 ≤ c) || groupOk 2 c) && noLatch
  | .srcPred => decide (112 ≤ c ∧ c < 120)
  | .srcRegs n => groupOk n c && noLatch
  | .srcDash => srcOk f c
  | .srcThree => groupOk 4 c && noLatch
  | .data n => if c < 112 then groupOk n c && noLatch else decide (n = 2 ∧ c < 120)
  | .dst => dstOk f lat p c
  | .dstEven => dstOk f lat p c && decide (c = 127 ∨ c % 2 = 0)
  | .dstPair => dstOk f lat p c && (decide (c = 127) || (groupOk 2 c && noLatch))
  | .dstQuad => dstOk f lat p c && (decide (c = 127) || (groupOk 4 c && noLatch))
  | .dstRegs n => decide (c < 64 ∧ c % n = 0)
  | .dstPred => decide (112 ≤ c ∧ c < 120)
  | .acc => dstOk f lat p c && decide (c ≠ 127)
  | .accPair => dstOk f lat p c && groupOk 2 c && noLatch
  | .dstUni n => decide (80 ≤ c ∧ c < 112 ∧ c % n = 0)
  | .atom n => if c = 127 then decide (n = 1) else decide (c < 64 ∧ c % n = 0)
  | .uniSrc n => decide (c % n = 0)
  | .uniDst n => decide (c % n = 0)
  | .uniAcc n => decide (c % n = 0)
  | .zero => decide (c = 0)

/-- True when a field of this kind holding 127 calls for a literal word (R27, R263). -/
def kindTakesLit : OKind → Bool
  | .src => true
  | .srcDash => true
  | .srcPair => true
  | .atom n => decide (n = 1)
  | _ => false

/-- How many fields call for the literal word (R27); a uniform-pipe form calls for one by E[0] (R47). -/
def litFields (i : Instr) : Nat :=
  let r := rawOf i
  if r.op = 0xF0 then r.e % 2
  else ((operands i).filter (fun o => decide (o.code = 127) && kindTakesLit o.kind)).length

/-- True when a literal word follows the instruction's last word (R27, R47). -/
def takesLit (i : Instr) : Bool := decide (litFields i ≠ 0)

/-- The words an instruction occupies: one or two, and its literal (R24). An event has none. -/
def wordCount (i : Instr) : Nat :=
  match instrRaw i with
  | none => 0
  | some r => (if 0xF0 ≤ r.op then 2 else 1) + (if takesLit i then 1 else 0)

/-- False exactly where the instruction's own words trap ILLENC in the form (R49): an operand code, a must-be-zero
field or a second literal; PAD in D-form, RUNH and RUNT in L-form. -/
def legal (f : Form) (i : Instr) : Bool :=
  match instrRaw i with
  | none => true
  | some r =>
    (operands i).all (opdOk f (latencyOp r.op r.sub) (pipe i)) && fieldsOk i r && decide (litFields i ≤ 1) &&
    (match f with
     | .d => decide (r.op ≠ 0xE2)
     | .l => decide (r.op ≠ 0xE0 ∧ r.op ≠ 0xE1))

/-- The registers named by code c for a group of n: v and temporaries or latches by code, uniform registers as 128 + number. -/
def codeRegs (n c : Nat) : List Nat :=
  if c < 80 then (List.range n).map (fun j => c + j)
  else if c < 112 then (List.range n).map (fun j => c + 48 + j)
  else []

/-- The registers (predicates as 112 to 119) an operand field reads. -/
def opdReads (o : Opd) : List Nat :=
  match o.kind with
  | .src => codeRegs 1 o.code
  | .srcPair => codeRegs 2 o.code
  | .srcPred => [o.code]
  | .srcRegs n => codeRegs n o.code
  | .srcDash => if o.code = 0 then [] else codeRegs 1 o.code
  | .srcThree => codeRegs 3 o.code
  | .data n => codeRegs n o.code
  | .acc => codeRegs 1 o.code
  | .accPair => codeRegs 2 o.code
  | .atom n => codeRegs n o.code
  | .uniSrc n => (List.range n).map (fun j => 128 + o.code + j)
  | .uniAcc n => (List.range n).map (fun j => 128 + o.code + j)
  | .dst => []
  | .dstEven => []
  | .dstPair => []
  | .dstQuad => []
  | .dstRegs _ => []
  | .dstPred => []
  | .dstUni _ => []
  | .uniDst _ => []
  | .zero => []

/-- The registers an operand field writes. -/
def opdWrites (o : Opd) : List Nat :=
  match o.kind with
  | .dst => codeRegs 1 o.code
  | .dstEven => codeRegs 1 o.code
  | .dstPair => codeRegs 2 o.code
  | .dstQuad => codeRegs 4 o.code
  | .dstRegs n => codeRegs n o.code
  | .dstPred => [o.code]
  | .acc => codeRegs 1 o.code
  | .accPair => codeRegs 2 o.code
  | .dstUni n => codeRegs n o.code
  | .atom n => codeRegs (if n = 4 then 2 else if n = 2 then 2 else 1) o.code
  | .uniDst n => (List.range n).map (fun j => 128 + o.code + j)
  | .uniAcc n => (List.range n).map (fun j => 128 + o.code + j)
  | .src => []
  | .srcPair => []
  | .srcPred => []
  | .srcRegs _ => []
  | .srcDash => []
  | .srcThree => []
  | .data _ => []
  | .uniSrc _ => []
  | .zero => []

/-- The registers of an atomic that its old value is written to: one for 32-bit operations, CAS.B32 included, else the
pair (R275, R276). -/
def atomWrites (opc d : Nat) : List Nat :=
  if opc = 0x15 then codeRegs 1 d else codeRegs (if atomRegs opc = 1 then 1 else 2) d

/-- The carry predicate p(4+M) of ADDC and SUBB, vector and uniform (R160). -/
def carryPred (r : Raw) : List Nat :=
  let o := if r.op = 0xF0 then r.sub else r.op
  if o = 0x01 ∨ o = 0x03 then [116 + r.m] else []

/-- The registers an instruction reads. -/
def regReads (i : Instr) : List Nat := ((operands i).flatMap opdReads) ++ carryPred (rawOf i)

/-- The registers an instruction writes; MIGR writes p7 (R220). -/
def regWrites (i : Instr) : List Nat :=
  let r := rawOf i
  if r.op = 0xAE ∨ r.op = 0xAF then atomWrites (atomOpc r.b) r.d
  else if r.op = 0xC6 then [119]
  else ((operands i).flatMap opdWrites) ++ carryPred r

/-- True for an instruction of class LONG that leaves a pending result (R145). -/
def leavesPending (i : Instr) : Bool := decide (latency i = .long ∧ regWrites i ≠ [])

end Sys2Proof.Machine
end

