-- ==== Sys2Proof/WellFormed.lean ====
section
/-! DEFINITION. The static well-formedness of an instruction in a form: what an encoding of it can hold without trapping by
itself. An instruction of the part (an event) has no encoding and is well formed. -/

namespace Sys2Proof

open Sys2Proof.Machine

/-- The literal word is there exactly when a source field calls for it (R27, R47). -/
def litFits (i : Instr) : Bool :=
  match instrRaw i with
  | none => true
  | some r => decide (r.lit.isSome = takesLit i)

/-- An instruction whose words do not trap ILLOP or ILLENC by themselves in the form (R24 to R28, R49), with its literal. -/
def wellFormed (f : Form) (i : Instr) : Bool :=
  legal f i && litFits i &&
  (match i with
   | .uniformPipeOp sub _ => decide (sub.toNat ≤ 0x1D)
   | _ => true)

end Sys2Proof
end

