-- ==== Sys2Proof/Decode.lean ====
section
/-! DEFINITION. The decoder, from the opcode map (R45, R46) and the word formats (R22 to R27), total on any bytes, and the
encoder written from the same tables. A field that must be zero is decoded as it stands: WellFormed judges it. -/

namespace Sys2Proof

open Sys2Proof.Machine

/-- Why bytes hold no instruction. -/
inductive Reject where
  /-- OP, or SUB in an extended group, is not assigned: the part takes the trap ILLOP (R49) -/
  | illop (op sub : Nat)
  /-- the words end before the instruction does -/
  | short
  deriving DecidableEq, Repr

/-- OP of a first word (R22). -/
def opOf (w : Word) : Nat := (w.extractLsb' 23 8).toNat
/-- K of a first word (R22). -/
def kOf (w : Word) : Bool := w.getLsbD 31
/-- SUB of a second word (R23). -/
def subOf (w : Word) : BitVec 8 := w.extractLsb' 24 8

/-- The fields of a format-T word (R22). -/
def decT (w : Word) (lit : Option Word) : TForm :=
  { k := kOf w, d := w.extractLsb' 16 7, a := w.extractLsb' 9 7, b := w.extractLsb' 2 7, m := w.extractLsb' 0 2, lit := lit }
/-- The fields of a format-I word (R22). -/
def decI (w : Word) (lit : Option Word) : IForm :=
  { k := kOf w, d := w.extractLsb' 16 7, a := w.extractLsb' 9 7, imm := w.extractLsb' 0 9, lit := lit }
/-- The fields of a format-J word (R22). -/
def decJ (w : Word) : JForm :=
  { k := kOf w, p := w.extractLsb' 20 3, n := w.getLsbD 19, off := w.extractLsb' 0 19 }
/-- The fields of a format-W word (R22). -/
def decW (w : Word) (lit : Option Word) : WForm :=
  { k := kOf w, d := w.extractLsb' 16 7, imm := w.extractLsb' 0 16, lit := lit }
/-- The fields of a format-X instruction (R22, R23). -/
def decX (w x : Word) (lit : Option Word) : XForm :=
  { k := kOf w, d := w.extractLsb' 16 7, a := w.extractLsb' 9 7, b := w.extractLsb' 2 7, m := w.extractLsb' 0 2,
    c := x.extractLsb' 17 7, e := x.extractLsb' 0 17, lit := lit }
/-- The fields of RUNH (R37). -/
def decRunh (w : Word) : RunhForm :=
  { k := kOf w, len := w.extractLsb' 18 5, hint := w.extractLsb' 16 2, xmask := w.extractLsb' 0 16 }
/-- The fields of RUNT (R38). -/
def decRunt (w : Word) : RuntForm :=
  { k := kOf w, w1 := w.extractLsb' 16 7, w2 := w.extractLsb' 9 7, w3 := w.extractLsb' 2 7, hint := w.extractLsb' 0 2 }
/-- The fields of PAD (R35). -/
def decPad (w : Word) : PadForm := { k := kOf w, hint := w.extractLsb' 0 23 }

/-- Format-T instructions by OP (R45); where one OP serves several rows, M chooses. -/
def instrT (op : Nat) (w : TForm) : Option Instr :=
  match op with
  | 0x00 => some (.add w)
  | 0x01 => some (.addc w)
  | 0x02 => some (.sub w)
  | 0x03 => some (.subb w)
  | 0x04 => some (.mul w)
  | 0x05 => some (.mulh w)
  | 0x06 => some (.mad w)
  | 0x07 => some (.madw w)
  | 0x08 => some (.min w)
  | 0x09 => some (.max w)
  | 0x0A => some (.abs w)
  | 0x0B => some (.neg w)
  | 0x0C => some (.and w)
  | 0x0D => some (.or w)
  | 0x0E => some (.xor w)
  | 0x0F => some (.andn w)
  | 0x10 => some (.not w)
  | 0x11 => some (.shl w)
  | 0x12 => some (.shr w)
  | 0x13 => some (.sar w)
  | 0x14 => some (.rotl w)
  | 0x15 => some (.bfx w)
  | 0x16 => some (.bfi w)
  | 0x17 => some (.bmsk w)
  | 0x18 => some (.popc w)
  | 0x19 => some (.clz w)
  | 0x1A => some (.ctz w)
  | 0x1B => some (.brev w)
  | 0x1C => some (.lea w)
  | 0x1D => some (.mov w)
  | 0x20 => some (.v2g w)
  | 0x40 => some (.pand w)
  | 0x41 => some (.por w)
  | 0x42 => some (.pxor w)
  | 0x43 => some (.pnot w)
  | 0x47 => some (.calli w)
  | 0x48 => some (.ret w)
  | 0x49 => some (.exit w)
  | 0x4A => some (.nop w)
  | 0x4B => some (.yield w)
  | 0x4E => some (.tret w)
  | 0x50 => some (.pnew w)
  | 0x51 => some (.pset w)
  | 0x52 => some (.pedge w)
  | 0x53 => some (.parm w)
  | 0x54 => some (.pwait w)
  | 0x60 => some (.fadd w)
  | 0x61 => some (.fsub w)
  | 0x62 => some (.fmul w)
  | 0x63 => some (.ffma w)
  | 0x64 => some (.fmin w)
  | 0x65 => some (.fmax w)
  | 0x66 => some (.fabs w)
  | 0x67 => some (.fneg w)
  | 0x68 => some (.fcps w)
  | 0x69 => some (.fcmp w)
  | 0x6A => some (.fclass w)
  | 0x6B => some (.frnd w)
  | 0x6C => some (.fract w)
  | 0x6D => some (.fdiv w)
  | 0x6E => some (.pack2 w)
  | 0x6F => some (.hadd2 w)
  | 0x70 => some (.hmul2 w)
  | 0x71 => some (.hfma2 w)
  | 0x72 => some (.rcp w)
  | 0x73 => some (.rsq w)
  | 0x74 => some (.sqrt w)
  | 0x75 => some (.exp2 w)
  | 0x76 => some (.log2 w)
  | 0x77 => some (.sin w)
  | 0x78 => some (.cos w)
  | 0x79 => some (.tanh w)
  | 0x7A => some (.xadd w)
  | 0x7B => some (.xsub w)
  | 0x7C => some (.xmul w)
  | 0x7D => some (.xsqr w)
  | 0x7E => some (.xsqrt w)
  | 0x7F => some (.xrcp w)
  | 0x80 => some (.xmin w)
  | 0x81 => some (.xmax w)
  | 0x82 => some (.xabs w)
  | 0x83 => some (.xhull w)
  | 0x84 => some (.xcont w)
  | 0x90 => some (.gshf w)
  | 0x91 => some (.gbc w)
  | 0x92 => some (.gvote w)
  | 0x93 => some (.gball w)
  | 0x94 => some (.gred w)
  | 0x95 => some (.gscan w)
  | 0x96 => some (.gmatch w)
  | 0x97 => some (.gelect w)
  | 0x98 => some (.gsync w)
  | 0xA0 => some (.ldp w)
  | 0xA1 => some (.stp w)
  | 0xA2 => some (.lds w)
  | 0xA3 => some (.sts w)
  | 0xA4 => some (.ldc w)
  | 0xA5 => some (.stc w)
  | 0xA6 => some (.ldg w)
  | 0xA7 => some (.stg w)
  | 0xA8 => some (.stgm w)
  | 0xA9 => some (.ldk w)
  | 0xAA => some (.stk w)
  | 0xAB => some (.lda w)
  | 0xAC => some (.pref w)
  | 0xAD => some (.brkf w)
  | 0xAE => some (.ats w)
  | 0xAF => some (.atg w)
  | 0xB0 => some (.red w)
  | 0xB1 => some (.rflush w)
  | 0xB2 => some (.fence w)
  | 0xB3 => some (if w.m = 1 then .icinvAll w else .icinvLine w)
  | 0xC0 => some (.bari w)
  | 0xC1 => some (.barx w)
  | 0xC2 => some (.bara w)
  | 0xC3 => some (if w.m = 1 then .barwTry w else .barw w)
  | 0xC4 => some (.bart w)
  | 0xC6 => some (.migr w)
  | 0xD2 => some (if w.m = 1 then .tlbiAsid w else .tlbiPage w)
  | 0xD3 => some (.halt w)
  | _ => none

/-- Format-I instructions by OP (R45). -/
def instrI (op : Nat) (w : IForm) : Option Instr :=
  match op with
  | 0x21 => some (.addI w)
  | 0x22 => some (.andI w)
  | 0x23 => some (.orI w)
  | 0x24 => some (.xorI w)
  | 0x25 => some (.shlI w)
  | 0x26 => some (.shrI w)
  | 0x27 => some (.sarI w)
  | _ => none

/-- Format-J instructions by OP (R45). -/
def instrJ (op : Nat) (w : JForm) : Option Instr :=
  match op with
  | 0x44 => some (.bra w)
  | 0x45 => some (.brp w)
  | 0x46 => some (.call w)
  | 0x4C => some (.joinh w)
  | _ => none

/-- Format-W instructions by OP (R45). -/
def instrW (op : Nat) (w : WForm) : Option Instr :=
  match op with
  | 0x1E => some (.movi w)
  | 0x1F => some (.movhi w)
  | 0x4D => some (.trap w)
  | 0xC5 => some (.eqp w)
  | 0xD0 => some (.csrr w)
  | 0xD1 => some (.csrw w)
  | _ => none

/-- Format-X instructions by OP and SUB (R46, R47). -/
def instrX (op : Nat) (sub : BitVec 8) (w : XForm) : Option Instr :=
  match op, sub.toNat with
  | 0xF0, n => if n ≤ 0x1D then some (.uniformPipeOp sub w) else none
  | 0xF1, 0x00 => some (.cmp w)
  | 0xF1, 0x01 => some (.cmpv w)
  | 0xF1, 0x02 => some (.sel w)
  | 0xF1, 0x03 => some (.prmt w)
  | 0xF1, 0x04 => some (.fshl w)
  | 0xF1, 0x05 => some (.fshr w)
  | 0xF2, 0x00 => some (.ffma4 w)
  | 0xF2, 0x01 => some (.cvt w)
  | 0xF3, 0x00 => some (.tidw w)
  | 0xF3, 0x01 => some (.tidr w)
  | 0xF3, 0x02 => some (.cpy w)
  | 0xF3, 0x03 => some (.cpyg w)
  | 0xF3, 0x04 => some (.cpyx w)
  | 0xF3, 0x05 => some (.qnt w)
  | 0xF3, 0x06 => some (.pub w)
  | 0xF4, 0x00 => some (if w.m = 1 then .mxcfgSet w else if w.m = 2 then .mxcfgRel w else if w.m = 3 then .mxcfgCbw w else .mxcfgAcq w)
  | 0xF4, 0x01 => some (.mxlw w)
  | 0xF4, 0x02 => some (.mxsw w)
  | 0xF4, 0x03 => some (.mxst w)
  | 0xF4, 0x04 => some (.mxdr w)
  | 0xF4, 0x05 => some (.mxz w)
  | 0xF4, 0x06 => some (.mxpr w)
  | 0xF5, 0x00 => some (.trav w)
  | 0xF5, 0x01 => some (.mwalk w)
  | 0xF5, 0x02 => some (.mloc w)
  | 0xF5, 0x03 => some (.march w)
  | 0xF5, 0x04 => some (.rres w)
  | 0xF5, 0x05 => some (.rrel w)
  | 0xF5, 0x06 => some (.rget w)
  | 0xF5, 0x07 => some (.fprune w)
  | 0xF6, 0x00 => some (if w.m = 1 then .primEnd w else .primTri w)
  | 0xF6, 0x01 => some (.visw w)
  | 0xF6, 0x02 => some (.visr w)
  | 0xF6, 0x03 => some (.attr w)
  | _, _ => none

/-- The instruction of a first word that is not of format X (R45). -/
def instrOne (w : Word) (lit : Option Word) : Option Instr :=
  let op := opOf w
  match instrT op (decT w lit) with
  | some i => some i
  | none => match instrI op (decI w lit) with
    | some i => some i
    | none => match instrJ op (decJ w) with
      | some i => some i
      | none => match instrW op (decW w lit) with
        | some i => some i
        | none =>
          match op with
          | 0xE0 => some (.runh (decRunh w))
          | 0xE1 => some (.runt (decRunt w))
          | 0xE2 => some (.pad (decPad w))
          | _ => none

/-- Adds the literal word where the instruction calls for one (R27); d gives the instruction with a given literal. -/
def addLit (d : Option Word → Option Instr) (op sub : Nat) (rest : List Word) : Except Reject (Instr × List Word) :=
  match d none with
  | none => .error (.illop op sub)
  | some i =>
    if takesLit i then
      match rest with
      | [] => .error .short
      | l :: rest =>
        match d (some l) with
        | some j => .ok (j, rest)
        | none => .error (.illop op sub)
    else .ok (i, rest)

/-- The first instruction of a list of words and the words after it (R24), or why there is none. -/
def decodeWords : List Word → Except Reject (Instr × List Word)
  | [] => .error .short
  | w :: rest =>
    let op := opOf w
    if op < 0xF0 then addLit (fun l => instrOne w l) op 0 rest
    else if 0xF6 < op then .error (.illop op 0)
    else
      match rest with
      | [] => .error .short
      | x :: rest => addLit (fun l => instrX op (subOf x) (decX w x l)) op (subOf x).toNat rest

/-- Little-endian words of bytes (R22); bytes that fill no word are left out. -/
def wordsOf : List Byte → List Word
  | a :: b :: c :: d :: r => (d ++ c ++ b ++ a : BitVec 32) :: wordsOf r
  | _ => []

/-- The bytes of words (R22). -/
def bytesOf : List Word → List Byte
  | [] => []
  | w :: r => w.extractLsb' 0 8 :: w.extractLsb' 8 8 :: w.extractLsb' 16 8 :: w.extractLsb' 24 8 :: bytesOf r

/-- The first instruction in bytes, and the bytes after it. -/
def decode (bs : List Byte) : Except Reject (Instr × List Byte) :=
  match decodeWords (wordsOf bs) with
  | .error e => .error e
  | .ok (i, rest) => .ok (i, bytesOf rest)

/-- The literal word of an instruction, if it has one, as a list. -/
def litList (l : Option Word) : List Word := match l with | none => [] | some w => [w]

def encT (op : BitVec 8) (w : TForm) : List Word :=
  (BitVec.ofBool w.k ++ op ++ w.d ++ w.a ++ w.b ++ w.m : BitVec 32) :: litList w.lit
def encI (op : BitVec 8) (w : IForm) : List Word :=
  (BitVec.ofBool w.k ++ op ++ w.d ++ w.a ++ w.imm : BitVec 32) :: litList w.lit
def encJ (op : BitVec 8) (w : JForm) : List Word :=
  [(BitVec.ofBool w.k ++ op ++ w.p ++ BitVec.ofBool w.n ++ w.off : BitVec 32)]
def encW (op : BitVec 8) (w : WForm) : List Word :=
  (BitVec.ofBool w.k ++ op ++ w.d ++ w.imm : BitVec 32) :: litList w.lit
def encX (op sub : BitVec 8) (w : XForm) : List Word :=
  (BitVec.ofBool w.k ++ op ++ w.d ++ w.a ++ w.b ++ w.m : BitVec 32) :: (sub ++ w.c ++ w.e : BitVec 32) :: litList w.lit
def encRunh (w : RunhForm) : List Word := [(BitVec.ofBool w.k ++ 0xE0#8 ++ w.len ++ w.hint ++ w.xmask : BitVec 32)]
def encRunt (w : RuntForm) : List Word := [(BitVec.ofBool w.k ++ 0xE1#8 ++ w.w1 ++ w.w2 ++ w.w3 ++ w.hint : BitVec 32)]
def encPad (w : PadForm) : List Word := [(BitVec.ofBool w.k ++ 0xE2#8 ++ w.hint : BitVec 32)]

/-- The words of an instruction (R22 to R24); an event has none. -/
def encode : Instr → List Word
  | .add w => encT 0x00#8 w
  | .addc w => encT 0x01#8 w
  | .sub w => encT 0x02#8 w
  | .subb w => encT 0x03#8 w
  | .mul w => encT 0x04#8 w
  | .mulh w => encT 0x05#8 w
  | .mad w => encT 0x06#8 w
  | .madw w => encT 0x07#8 w
  | .min w => encT 0x08#8 w
  | .max w => encT 0x09#8 w
  | .abs w => encT 0x0A#8 w
  | .neg w => encT 0x0B#8 w
  | .and w => encT 0x0C#8 w
  | .or w => encT 0x0D#8 w
  | .xor w => encT 0x0E#8 w
  | .andn w => encT 0x0F#8 w
  | .not w => encT 0x10#8 w
  | .shl w => encT 0x11#8 w
  | .shr w => encT 0x12#8 w
  | .sar w => encT 0x13#8 w
  | .rotl w => encT 0x14#8 w
  | .bfx w => encT 0x15#8 w
  | .bfi w => encT 0x16#8 w
  | .bmsk w => encT 0x17#8 w
  | .popc w => encT 0x18#8 w
  | .clz w => encT 0x19#8 w
  | .ctz w => encT 0x1A#8 w
  | .brev w => encT 0x1B#8 w
  | .lea w => encT 0x1C#8 w
  | .mov w => encT 0x1D#8 w
  | .movi w => encW 0x1E#8 w
  | .movhi w => encW 0x1F#8 w
  | .v2g w => encT 0x20#8 w
  | .addI w => encI 0x21#8 w
  | .andI w => encI 0x22#8 w
  | .orI w => encI 0x23#8 w
  | .xorI w => encI 0x24#8 w
  | .shlI w => encI 0x25#8 w
  | .shrI w => encI 0x26#8 w
  | .sarI w => encI 0x27#8 w
  | .pand w => encT 0x40#8 w
  | .por w => encT 0x41#8 w
  | .pxor w => encT 0x42#8 w
  | .pnot w => encT 0x43#8 w
  | .bra w => encJ 0x44#8 w
  | .brp w => encJ 0x45#8 w
  | .call w => encJ 0x46#8 w
  | .calli w => encT 0x47#8 w
  | .ret w => encT 0x48#8 w
  | .exit w => encT 0x49#8 w
  | .nop w => encT 0x4A#8 w
  | .yield w => encT 0x4B#8 w
  | .joinh w => encJ 0x4C#8 w
  | .trap w => encW 0x4D#8 w
  | .tret w => encT 0x4E#8 w
  | .pnew w => encT 0x50#8 w
  | .pset w => encT 0x51#8 w
  | .pedge w => encT 0x52#8 w
  | .parm w => encT 0x53#8 w
  | .pwait w => encT 0x54#8 w
  | .fadd w => encT 0x60#8 w
  | .fsub w => encT 0x61#8 w
  | .fmul w => encT 0x62#8 w
  | .ffma w => encT 0x63#8 w
  | .fmin w => encT 0x64#8 w
  | .fmax w => encT 0x65#8 w
  | .fabs w => encT 0x66#8 w
  | .fneg w => encT 0x67#8 w
  | .fcps w => encT 0x68#8 w
  | .fcmp w => encT 0x69#8 w
  | .fclass w => encT 0x6A#8 w
  | .frnd w => encT 0x6B#8 w
  | .fract w => encT 0x6C#8 w
  | .fdiv w => encT 0x6D#8 w
  | .pack2 w => encT 0x6E#8 w
  | .hadd2 w => encT 0x6F#8 w
  | .hmul2 w => encT 0x70#8 w
  | .hfma2 w => encT 0x71#8 w
  | .rcp w => encT 0x72#8 w
  | .rsq w => encT 0x73#8 w
  | .sqrt w => encT 0x74#8 w
  | .exp2 w => encT 0x75#8 w
  | .log2 w => encT 0x76#8 w
  | .sin w => encT 0x77#8 w
  | .cos w => encT 0x78#8 w
  | .tanh w => encT 0x79#8 w
  | .xadd w => encT 0x7A#8 w
  | .xsub w => encT 0x7B#8 w
  | .xmul w => encT 0x7C#8 w
  | .xsqr w => encT 0x7D#8 w
  | .xsqrt w => encT 0x7E#8 w
  | .xrcp w => encT 0x7F#8 w
  | .xmin w => encT 0x80#8 w
  | .xmax w => encT 0x81#8 w
  | .xabs w => encT 0x82#8 w
  | .xhull w => encT 0x83#8 w
  | .xcont w => encT 0x84#8 w
  | .gshf w => encT 0x90#8 w
  | .gbc w => encT 0x91#8 w
  | .gvote w => encT 0x92#8 w
  | .gball w => encT 0x93#8 w
  | .gred w => encT 0x94#8 w
  | .gscan w => encT 0x95#8 w
  | .gmatch w => encT 0x96#8 w
  | .gelect w => encT 0x97#8 w
  | .gsync w => encT 0x98#8 w
  | .ldp w => encT 0xA0#8 w
  | .stp w => encT 0xA1#8 w
  | .lds w => encT 0xA2#8 w
  | .sts w => encT 0xA3#8 w
  | .ldc w => encT 0xA4#8 w
  | .stc w => encT 0xA5#8 w
  | .ldg w => encT 0xA6#8 w
  | .stg w => encT 0xA7#8 w
  | .stgm w => encT 0xA8#8 w
  | .ldk w => encT 0xA9#8 w
  | .stk w => encT 0xAA#8 w
  | .lda w => encT 0xAB#8 w
  | .pref w => encT 0xAC#8 w
  | .brkf w => encT 0xAD#8 w
  | .ats w => encT 0xAE#8 w
  | .atg w => encT 0xAF#8 w
  | .red w => encT 0xB0#8 w
  | .rflush w => encT 0xB1#8 w
  | .fence w => encT 0xB2#8 w
  | .icinvLine w => encT 0xB3#8 w
  | .icinvAll w => encT 0xB3#8 w
  | .bari w => encT 0xC0#8 w
  | .barx w => encT 0xC1#8 w
  | .bara w => encT 0xC2#8 w
  | .barw w => encT 0xC3#8 w
  | .barwTry w => encT 0xC3#8 w
  | .bart w => encT 0xC4#8 w
  | .eqp w => encW 0xC5#8 w
  | .migr w => encT 0xC6#8 w
  | .csrr w => encW 0xD0#8 w
  | .csrw w => encW 0xD1#8 w
  | .tlbiPage w => encT 0xD2#8 w
  | .tlbiAsid w => encT 0xD2#8 w
  | .halt w => encT 0xD3#8 w
  | .runh w => encRunh w
  | .runt w => encRunt w
  | .pad w => encPad w
  | .uniformPipeOp sub w => encX 0xF0#8 sub w
  | .cmp w => encX 0xF1#8 0x00#8 w
  | .cmpv w => encX 0xF1#8 0x01#8 w
  | .sel w => encX 0xF1#8 0x02#8 w
  | .prmt w => encX 0xF1#8 0x03#8 w
  | .fshl w => encX 0xF1#8 0x04#8 w
  | .fshr w => encX 0xF1#8 0x05#8 w
  | .ffma4 w => encX 0xF2#8 0x00#8 w
  | .cvt w => encX 0xF2#8 0x01#8 w
  | .tidw w => encX 0xF3#8 0x00#8 w
  | .tidr w => encX 0xF3#8 0x01#8 w
  | .cpy w => encX 0xF3#8 0x02#8 w
  | .cpyg w => encX 0xF3#8 0x03#8 w
  | .cpyx w => encX 0xF3#8 0x04#8 w
  | .qnt w => encX 0xF3#8 0x05#8 w
  | .pub w => encX 0xF3#8 0x06#8 w
  | .mxcfgAcq w => encX 0xF4#8 0x00#8 w
  | .mxcfgSet w => encX 0xF4#8 0x00#8 w
  | .mxcfgRel w => encX 0xF4#8 0x00#8 w
  | .mxcfgCbw w => encX 0xF4#8 0x00#8 w
  | .mxlw w => encX 0xF4#8 0x01#8 w
  | .mxsw w => encX 0xF4#8 0x02#8 w
  | .mxst w => encX 0xF4#8 0x03#8 w
  | .mxdr w => encX 0xF4#8 0x04#8 w
  | .mxz w => encX 0xF4#8 0x05#8 w
  | .mxpr w => encX 0xF4#8 0x06#8 w
  | .trav w => encX 0xF5#8 0x00#8 w
  | .mwalk w => encX 0xF5#8 0x01#8 w
  | .mloc w => encX 0xF5#8 0x02#8 w
  | .march w => encX 0xF5#8 0x03#8 w
  | .rres w => encX 0xF5#8 0x04#8 w
  | .rrel w => encX 0xF5#8 0x05#8 w
  | .rget w => encX 0xF5#8 0x06#8 w
  | .fprune w => encX 0xF5#8 0x07#8 w
  | .primTri w => encX 0xF6#8 0x00#8 w
  | .primEnd w => encX 0xF6#8 0x00#8 w
  | .visw w => encX 0xF6#8 0x01#8 w
  | .visr w => encX 0xF6#8 0x02#8 w
  | .attr w => encX 0xF6#8 0x03#8 w
  | .pick _ _ => []
  | .overdue _ => []
  | .joinWaitTimeout _ => []
  | .resultArrival _ _ => []
  | .groupMove _ => []
  | .convergenceMismatch _ => []
  | .doorbell _ _ _ => []
  | .podComplete _ => []
  | .pendingEntryRelease _ _ => []
  | .readyQueuePop _ => []
  | .teamPlacement _ => []
  | .contResume _ => []
  | .reclamationComplete _ => []
  | .reductionDrain _ => []
  | .accessCounterRecord _ _ => []
  | .tlbinvPage _ _ => []
  | .tlbinvAsid _ => []
  | .tlbinvAll => []
  | .tlbinvDone => []
  | .marcfgWrite _ => []
  | .carveChange => []
  | .l1cfgWrite _ _ => []
  | .accctlWrite _ => []
  | .registerWrite _ _ _ => []
  | .engineCommandStart _ => []
  | .engineBytesLand _ _ _ => []
  | .engineCommandEnd _ _ => []
  | .pubExchange _ _ => []
  | .matrixCommandExecute _ _ => []
  | .promote _ _ => []
  | .rayCommandStart _ _ => []
  | .slotEvict _ _ => []
  | .steplimit _ _ => []
  | .fwork _ _ => []
  | .fpruneExecute _ => []
  | .binTriangle _ => []
  | .binReplay _ _ => []
  | .tileClose _ _ _ => []
  | .pmtctlSave _ _ => []
  | .pmtctlHalt _ _ => []
  | .pmtctlResume _ _ => []
  | .coreHalt => []
  | .teamSave _ => []
  | .teamRestore _ => []
  | .killCommand _ _ => []
  | .hardwareError _ => []
  | .selfTest _ _ => []
  | .counterSample => []
  | .pwrctlRun => []
  | .pwrctlIdle => []
  | .pwrctlRetain => []
  | .powerStateChange => []
  | .secadv _ => []
  | .ckptctlGo _ => []
  | .checkpointEnd _ => []
  | .bringUp _ => []
  | .companionStore _ _ => []

/-- The instruction whose bits are w, numbered from the least significant bit of its first word, the bits from nbits on zero. -/
def decodeTableWord (nbits w : Nat) : Option Instr :=
  match decode (leBytes 12 (w % 2 ^ nbits)) with
  | .ok (i, _) => some i
  | .error _ => none

end Sys2Proof
end

