-- ==== Sys2Proof/Config.lean ====
section
/-! DEFINITION. What one part fixes and the spec leaves open: free values. None of them has a body that a proof can see, so
a statement about one holds whatever its value. The argument is State.fresh, a counter that each use advances, unless
it is said otherwise. -/

namespace Sys2Proof.Config

/-- Cycles beyond the first that a step takes (log entry 4). -/
opaque elapsed : Nat → Nat

/-- The choice among the turns that may come next when the agenda is empty (log entry 3). -/
opaque choice : Nat → Nat

/-- A word the spec states no value for. -/
opaque count : Nat → Word

/-- Cycles that a picker's bundle waits for results of fixed latency (R146, log entry 4). -/
opaque stall : Nat → Nat

/-- A finite number in the place of one that is not, in exact geometry: numerator, and denominator less 1 (log entry 18). -/
opaque coord : Nat → Int × Nat

/-- Which of two values an overlapping copy's element receives (R285, log entry 12). -/
opaque overlap : Nat → Bool

/-- The security version of the firmware image, met at bring-up (R448, log entry 10). -/
opaque firmware : Nat

/-- The cores that fail their test at bring-up (R448, log entry 10). -/
opaque failing : List Nat

/-- The peer ports trained at bring-up (R448, log entry 10). -/
opaque peers : List Nat

/-- The set, within its slice, that a line of device memory belongs to (R247, log entry 42). -/
opaque marrowSet : Nat → Nat

/-- The slice of a carved line, by its carve address (R247, log entry 42). -/
opaque carveSlice : Nat → Nat

/-- Where a strong store is performed among those of its point that nothing orders it with; the argument is its event (R376, R380, log
entry 2). -/
opaque place : Nat → Nat

/-- The cycles for which a unit, by its agent, may read what stood before a write that nothing orders before its read, by the write's event
(R380, R383, log entry 2). -/
opaque lag : Nat → Nat → Nat

/-- The device memory that is not fitted: ranges as base and size (R251, log entry 10). -/
opaque unfitted : List (Nat × Nat)

/-- A word of BRKF for a brick map whose origin is no number (R273, log entry 13); arguments: the word's number and the map's address. -/
opaque special : Nat → Nat → Word

end Sys2Proof.Config
end

