-- ==== Sys2Proof/Machine/Map.lean ====
section
/-! DEFINITION. Sparse tables: lists of (key, value) pairs with strictly rising keys. A table with a default value
holds no entry equal to the default, so that equal tables are equal data. -/

namespace Sys2Proof.Machine

/-- A table of values by number. -/
abbrev KMap (α : Type) := List (Nat × α)

/-- The entry of key k, if any. -/
def kfind {α : Type} : KMap α → Nat → Option α
  | [], _ => none
  | (j, v) :: r, k => if j = k then some v else kfind r k

/-- The table with key k holding v. -/
def kput {α : Type} : KMap α → Nat → α → KMap α
  | [], k, v => [(k, v)]
  | (j, u) :: r, k, v => if k < j then (k, v) :: (j, u) :: r else if k = j then (k, v) :: r else (j, u) :: kput r k v

/-- The table without key k. -/
def kdel {α : Type} : KMap α → Nat → KMap α
  | [], _ => []
  | (j, u) :: r, k => if j = k then kdel r k else (j, u) :: kdel r k

/-- The value of key k in a table whose unlisted keys hold d. -/
def kget {α : Type} (d : α) (m : KMap α) (k : Nat) : α := (kfind m k).getD d

/-- The table with key k holding v, where unlisted keys hold d: storing d unlists the key. -/
def kset {α : Type} [DecidableEq α] (d : α) (m : KMap α) (k : Nat) (v : α) : KMap α :=
  if v = d then kdel m k else kput m k v

/-- The keys of a table rise strictly from above b. -/
def ksorted {α : Type} : Option Nat → KMap α → Bool
  | _, [] => true
  | b, (j, _) :: r => (match b with | none => true | some x => decide (x < j)) && ksorted (some j) r

/-- The canonical form of a table with default d: keys strictly rising, no entry equal to d. -/
def kwf {α : Type} [DecidableEq α] (d : α) (m : KMap α) : Bool :=
  ksorted none m && m.all (fun e => decide (e.2 ≠ d))

/-- The values of a table, by rising key. -/
def kvals {α : Type} (m : KMap α) : List α := m.map (·.2)

/-- Stores the values vs at keys k, k + 1, … -/
def ksetList {α : Type} [DecidableEq α] (d : α) : KMap α → Nat → List α → KMap α
  | m, _, [] => m
  | m, k, v :: vs => ksetList d (kset d m k v) (k + 1) vs

end Sys2Proof.Machine
end

