-- ==== Sys2Proof/Machine/Num.lean ====
section
/-! DEFINITION. Exact numbers and their rounding: the floating-point layouts (R52), the rounding modes (R56), round_to
(R57), conversion to integers (R58) and scale bytes (R62), and exact fractions for the engines' geometry. -/

namespace Sys2Proof.Machine

/-- The rounding modes (R56). -/
inductive Rm where
  | rn
  | rz
  | rd
  | ru
  deriving DecidableEq, Repr

/-- The rounding mode an M field selects (R22, R56). -/
def rmOf (m : Nat) : Rm := if m = 0 then .rn else if m = 1 then .rz else if m = 2 then .rd else .ru

/-- The floating-point formats (R52). -/
inductive Fmt where
  | f32
  | f16
  | bf16
  | f8a
  | f8b
  | a24
  deriving DecidableEq, Repr

/-- An exact result: NaN, an infinity, or a signed fraction n / d with d above 0; zero keeps its sign (R56). -/
inductive Xr where
  | nan
  | inf (neg : Bool)
  | fin (neg : Bool) (n d : Nat)
  deriving DecidableEq, Repr

/-- Fraction bits of a format; its precision p is one more (R52). -/
def fracBits : Fmt → Nat
  | .f32 => 23 | .f16 => 10 | .bf16 => 7 | .f8a => 3 | .f8b => 2 | .a24 => 15

/-- Exponent bits of a format (R52). -/
def expBits : Fmt → Nat
  | .f32 => 8 | .f16 => 5 | .bf16 => 8 | .f8a => 4 | .f8b => 5 | .a24 => 8

/-- Exponent bias of a format; emin is one less its bias (R52). -/
def fmtBias : Fmt → Nat
  | .f32 => 127 | .f16 => 15 | .bf16 => 127 | .f8a => 7 | .f8b => 15 | .a24 => 127

/-- True for the formats with infinities (R52). -/
def hasInf : Fmt → Bool
  | .f8a => false | .a24 => false | .f32 => true | .f16 => true | .bf16 => true | .f8b => true

/-- The canonical NaN (R53). -/
def canonNan : Fmt → Nat
  | .f32 => 0x7FC00000 | .f16 => 0x7E00 | .bf16 => 0x7FC0 | .f8a => 0x7F | .f8b => 0x7E | .a24 => 0x7FFFFF

/-- The bits of +∞, for the formats that have it (R52). -/
def infBits (f : Fmt) : Nat := (2 ^ expBits f - 1) * 2 ^ fracBits f

/-- The bits of the largest finite value (R52). -/
def largestBits : Fmt → Nat
  | .f32 => 0x7F7FFFFF | .f16 => 0x7BFF | .bf16 => 0x7F7F | .f8a => 0x7E | .f8b => 0x7B | .a24 => 0x7FFFFE

/-- The sign bit as a number, when set. -/
def signBit (f : Fmt) (neg : Bool) : Nat := if neg then 2 ^ (fracBits f + expBits f) else 0

/-- The fraction n · 2^k. -/
def scaleTwo (neg : Bool) (n : Nat) (k : Int) : Xr :=
  if 0 ≤ k then .fin neg (n * 2 ^ k.toNat) 1 else .fin neg n (2 ^ (-k).toNat)

/-- The exact value of an encoding (R52). -/
def decodeFmt (f : Fmt) (bits : Nat) : Xr :=
  let fb := fracBits f
  let neg := decide (bits / 2 ^ (fb + expBits f) % 2 = 1)
  let e := bits / 2 ^ fb % 2 ^ expBits f
  let m := bits % 2 ^ fb
  let finite := if e = 0 then scaleTwo neg m (1 - (fmtBias f : Int) - fb) else
    scaleTwo neg (2 ^ fb + m) ((e : Int) - fmtBias f - fb)
  if e = 2 ^ expBits f - 1 then
    if hasInf f then (if m = 0 then .inf neg else .nan)
    else if m = 2 ^ fb - 1 then .nan else finite
  else finite

/-- True for a subnormal encoding (R52). -/
def isSubnormal (f : Fmt) (bits : Nat) : Bool :=
  decide (bits / 2 ^ fracBits f % 2 ^ expBits f = 0 ∧ bits % 2 ^ fracBits f ≠ 0)

/-- The value of an operand after FZI (R61). -/
def readFmt (f : Fmt) (fzi : Bool) (bits : Nat) : Xr :=
  if fzi && isSubnormal f bits then .fin (decide (bits / 2 ^ (fracBits f + expBits f) % 2 = 1)) 0 1 else decodeFmt f bits

/-- floor(log2(n / d)) of a positive fraction (R57). -/
def floorLog2 (n d : Nat) : Int :=
  let k : Int := (Nat.log2 n : Int) - Nat.log2 d
  let below := if 0 ≤ k then decide (n < d * 2 ^ k.toNat) else decide (n * 2 ^ (-k).toNat < d)
  if below then k - 1 else k

/-- round_integer of the magnitude n / d with the sign given (R56). -/
def roundMag (m : Rm) (neg : Bool) (n d : Nat) : Nat :=
  let q := n / d
  let r := n % d
  let up := match m with
    | .rn => decide (d < 2 * r ∨ (2 * r = d ∧ q % 2 = 1))
    | .rz => false
    | .rd => neg && decide (r ≠ 0)
    | .ru => !neg && decide (r ≠ 0)
  if up then q + 1 else q

/-- The overflow helper of R57; A24 saturates (R71). -/
def overflowBits (f : Fmt) (neg : Bool) (m : Rm) : Nat :=
  if f = .f8a ∨ f = .a24 then largestBits f else
  match m with
  | .rn => infBits f
  | .rz => largestBits f
  | .rd => if neg then infBits f else largestBits f
  | .ru => if neg then largestBits f else infBits f

/-- The magnitude bits of a nonzero fraction before the overflow test (R57). -/
def magBits (f : Fmt) (m : Rm) (neg : Bool) (n d : Nat) : Nat :=
  let fb := fracBits f
  let emin : Int := 1 - (fmtBias f : Int)
  let e := max (floorLog2 n d) emin
  let q : Int := e - fb
  let r := if 0 ≤ q then roundMag m neg n (d * 2 ^ q.toNat) else roundMag m neg (n * 2 ^ (-q).toNat) d
  (e - emin).toNat * 2 ^ fb + r

/-- round_to (R57), with FZO of the format given. -/
def roundTo (f : Fmt) (fzo : Bool) (m : Rm) : Xr → Nat
  | .nan => canonNan f
  | .inf neg => signBit f neg + (if hasInf f then infBits f else largestBits f)
  | .fin neg n d =>
    if n = 0 then signBit f neg else
    let mag := magBits f m neg n d
    if largestBits f < mag then signBit f neg + overflowBits f neg m
    else if fzo && decide (mag < 2 ^ fracBits f) then signBit f neg
    else signBit f neg + mag

/-- True when round_to of the value by RN exceeds the largest finite magnitude (R71). -/
def roundOverflows (f : Fmt) : Xr → Bool
  | .fin neg n d => decide (n ≠ 0 ∧ largestBits f < magBits f .rn neg n d)
  | .inf _ => true
  | .nan => false

def Xr.isNan : Xr → Bool
  | .nan => true | .inf _ => false | .fin _ _ _ => false

def Xr.isZero : Xr → Bool
  | .fin _ n _ => decide (n = 0) | .nan => false | .inf _ => false

def Xr.isInf : Xr → Bool
  | .inf _ => true | .nan => false | .fin _ _ _ => false

/-- The value with its sign inverted. -/
def Xr.neg : Xr → Xr
  | .nan => .nan | .inf s => .inf (!s) | .fin s n d => .fin (!s) n d

/-- The magnitude. -/
def Xr.abs : Xr → Xr
  | .nan => .nan | .inf _ => .inf false | .fin _ n d => .fin false n d

/-- The signed numerator of a finite value. -/
def signedNum (s : Bool) (n : Nat) : Int := if s then -(n : Int) else n

/-- The exact sum, with the zero signs of R189 under mode m. -/
def Xr.add (m : Rm) : Xr → Xr → Xr
  | .nan, _ => .nan
  | .inf _, .nan => .nan
  | .fin _ _ _, .nan => .nan
  | .inf s, .inf t => if s = t then .inf s else .nan
  | .inf s, .fin _ _ _ => .inf s
  | .fin _ _ _, .inf t => .inf t
  | .fin s n d, .fin t k e =>
    if n = 0 ∧ k = 0 then (if s = t then .fin s 0 1 else .fin (decide (m = .rd)) 0 1)
    else
      let x := signedNum s n * e + signedNum t k * d
      if x = 0 then .fin (decide (m = .rd)) 0 1 else .fin (decide (x < 0)) x.natAbs (d * e)

/-- The exact difference (R189). -/
def Xr.sub (m : Rm) (a b : Xr) : Xr := Xr.add m a (Xr.neg b)

/-- The exact product (R189). -/
def Xr.mul : Xr → Xr → Xr
  | .nan, _ => .nan
  | .inf _, .nan => .nan
  | .fin _ _ _, .nan => .nan
  | .inf s, .inf t => .inf (s != t)
  | .inf s, .fin t n _ => if n = 0 then .nan else .inf (s != t)
  | .fin s n _, .inf t => if n = 0 then .nan else .inf (s != t)
  | .fin s n d, .fin t k e => if n = 0 ∨ k = 0 then .fin (s != t) 0 1 else .fin (s != t) (n * k) (d * e)

/-- The exact quotient (R189). -/
def Xr.div : Xr → Xr → Xr
  | .nan, _ => .nan
  | .inf _, .nan => .nan
  | .fin _ _ _, .nan => .nan
  | .inf _, .inf _ => .nan
  | .inf s, .fin t _ _ => .inf (s != t)
  | .fin s _ _, .inf t => .fin (s != t) 0 1
  | .fin s n d, .fin t k e =>
    if k = 0 then (if n = 0 then .nan else .inf (s != t))
    else if n = 0 then .fin (s != t) 0 1 else .fin (s != t) (n * e) (d * k)

/-- a < b, where neither is NaN; −0 equals +0. -/
def Xr.lt : Xr → Xr → Bool
  | .nan, _ => false
  | .inf _, .nan => false
  | .fin _ _ _, .nan => false
  | .inf s, .inf t => s && !t
  | .inf s, .fin _ _ _ => s
  | .fin _ _ _, .inf t => !t
  | .fin s n d, .fin t k e => decide (signedNum s n * e < signedNum t k * d)

/-- a ≤ b, where neither is NaN. -/
def Xr.le (a b : Xr) : Bool := !a.isNan && !b.isNan && !Xr.lt b a

/-- a = b as numbers, where neither is NaN. -/
def Xr.eq (a b : Xr) : Bool := Xr.le a b && Xr.le b a

/-- The integer n. -/
def Xr.ofInt (n : Int) : Xr := .fin (decide (n < 0)) n.natAbs 1

/-- +0. -/
def Xr.zero : Xr := .fin false 0 1

/-- round_integer of a finite value (R56). -/
def roundInt (m : Rm) (s : Bool) (n d : Nat) : Int :=
  let q := roundMag m s n d
  if s then -(q : Int) else q

/-- Conversion of a floating value to an integer in [lo, hi] (R58). -/
def toIntSat (m : Rm) (lo hi : Int) : Xr → Int
  | .nan => 0
  | .inf s => if s then lo else hi
  | .fin s n d => max lo (min hi (roundInt m s n d))

/-- The value of an SX8 scale byte (R62). -/
def sx8Value (e : Nat) : Xr := if e = 255 then .nan else scaleTwo false 1 ((e : Int) - 127)

/-- to_sx8 (R195). -/
def toSx8 (m : Rm) : Xr → Nat
  | .nan => 0xFF
  | .inf _ => 0xFE
  | .fin _ n d =>
    if n = 0 then 0 else
    let k := floorLog2 n d
    let exact := if 0 ≤ k then decide (n = d * 2 ^ k.toNat) else decide (n * 2 ^ (-k).toNat = d)
    let k := if m = .ru ∧ exact = false then k + 1 else k
    (max 0 (min 254 (k + 127))).toNat

/-- floor of the square root, by descending bits. -/
def isqrtBits : Nat → Nat → Nat → Nat
  | 0, _, r => r
  | b + 1, n, r => let c := r + 2 ^ b; if c * c ≤ n then isqrtBits b n c else isqrtBits b n r

/-- floor of the square root. -/
def isqrt (n : Nat) : Nat := isqrtBits (Nat.log2 n / 2 + 1) n 0

/-- A value that round_to rounds in every mode as it rounds the square root of the positive fraction n / d: the
root's leading bits and, where it is not exact, half a unit of the last of them. -/
def sqrtXr (n d : Nat) : Xr :=
  let k := (40 + max 0 (- floorLog2 n d)).toNat
  let r := n * 4 ^ k / d
  let q := isqrt r
  if q * q = r ∧ n * 4 ^ k % d = 0 then .fin false q (2 ^ k) else .fin false (2 * q + 1) (2 ^ (k + 1))

/-- An exact fraction num / den with den above 0. -/
structure Q where
  num : Int
  den : Nat
  deriving DecidableEq, Repr

/-- The integer n. -/
def Q.ofInt (n : Int) : Q := ⟨n, 1⟩

/-- The fraction in lowest terms. -/
def Q.norm (a : Q) : Q := let g := Nat.gcd a.num.natAbs a.den; if g ≤ 1 then a else ⟨a.num / g, a.den / g⟩

def Q.add (a b : Q) : Q := if a.den = b.den then ⟨a.num + b.num, a.den⟩ else ⟨a.num * b.den + b.num * a.den, a.den * b.den⟩
def Q.neg (a : Q) : Q := ⟨-a.num, a.den⟩
def Q.sub (a b : Q) : Q := a.add b.neg
def Q.mul (a b : Q) : Q := ⟨a.num * b.num, a.den * b.den⟩
/-- The quotient by a nonzero fraction. -/
def Q.div (a b : Q) : Q := ⟨a.num * b.den * b.num.sign, a.den * b.num.natAbs⟩
def Q.lt (a b : Q) : Bool := decide (a.num * b.den < b.num * a.den)
def Q.le (a b : Q) : Bool := decide (a.num * b.den ≤ b.num * a.den)
def Q.eq (a b : Q) : Bool := decide (a.num * b.den = b.num * a.den)
def Q.min (a b : Q) : Q := if a.le b then a else b
def Q.max (a b : Q) : Q := if a.le b then b else a
def Q.sign (a : Q) : Int := a.num.sign
def Q.zero : Q := ⟨0, 1⟩
def Q.one : Q := ⟨1, 1⟩
/-- The greatest integer not above the fraction. -/
def Q.floor (a : Q) : Int := a.num / (a.den : Int)

/-- The fraction as an exact result; an exact zero is +0. -/
def Q.toXr (a : Q) : Xr := .fin (decide (a.num < 0)) a.num.natAbs a.den

/-- The fraction of a finite value, 0 for others. -/
def Xr.toQ : Xr → Q
  | .fin s n d => ⟨signedNum s n, d⟩ | .nan => Q.zero | .inf _ => Q.zero

/-- The exact value of an F32 pattern. -/
def f32 (w : Word) : Xr := decodeFmt .f32 w.toNat

/-- round_to F32 of an exact value, never flushing. -/
def toF32 (m : Rm) (x : Xr) : Word := BitVec.ofNat 32 (roundTo .f32 false m x)

/-- True for an F32 NaN. -/
def f32Nan (w : Word) : Bool := (f32 w).isNan

/-- The fraction of a finite F32 pattern. -/
def f32Q (w : Word) : Q := (f32 w).toQ

/-- RN of a fraction, as F32 (an exact zero is +0). -/
def rnQ (a : Q) : Word := toF32 .rn a.toXr

/-- ulp of R198 at a nonzero F32 value. -/
def ulpQ (w : Word) : Q :=
  match f32 w with
  | .fin _ n d =>
    let e : Int := if n = 0 then -126 else max (floorLog2 n d) (-126)
    (scaleTwo false 1 (e - 23)).toQ
  | .nan => Q.zero
  | .inf _ => Q.zero

/-- The canonical F32 NaN (R53). -/
def nanW : Word := 0x7FC00000#32

/-- The pattern that poison delivery writes (R241). -/
def poisonPattern : Word := 0x7FC00001#32

end Sys2Proof.Machine
end

