-- ==== Sys2Proof/Machine/State.lean ====
section
/-! DEFINITION. The machine's state: everything the spec gives the PZ9, as plain data, and the state after reset. -/

namespace Sys2Proof.Machine

/-- Why a step stops with a fault. -/
inductive Fault where
  /-- Raised by step when a turn names a picker that no core has: the agenda is not a schedule of this part. Safe: the
  model stops where no part exists. -/
  | noSuchPicker (core picker : Nat)
  deriving DecidableEq, Repr

/-- Why a step is refused. -/
inductive Refusal where
  /-- Raised by exec for an instruction that has no meaning yet. Safe: nothing is claimed of it. -/
  | notModelled (mnemonic : String)
  deriving DecidableEq, Repr

/-- A 32-bit register's value and its poison mark (R241). -/
structure RVal where
  bits : Word
  poison : Bool
  deriving DecidableEq, Repr

/-- A predicate's value and its poison mark (R241). -/
structure PVal where
  val : Bool
  poison : Bool
  deriving DecidableEq, Repr

/-- An unpoisoned zero. -/
def RVal.zero : RVal := ⟨0, false⟩
/-- An unpoisoned false. -/
def PVal.zero : PVal := ⟨false, false⟩

/-- A thread's registers: v0–v63 by code, the temporaries or latches that hold a value by code 64–79 (R33, R37), and the
predicates by number 0–7 (R135). -/
structure Regs where
  v : KMap RVal
  x : KMap RVal
  p : KMap PVal
  deriving DecidableEq, Repr

/-- Where a thread stands inside a run or hold sequence (R43): the RUNH, or the sequence's first packet, the packet
within the sequence, XMASK, and whether an instruction of it has executed for the thread (R404 INSEQ). -/
structure Seq where
  head : Word
  packet : Nat
  xmask : Nat
  begun : Bool
  deriving DecidableEq, Repr

/-- A thread's most recent EQP and the class it was executed on (R224, R225). -/
structure EqpRef where
  num : Nat
  dpc : Word
  lpc : Word
  cls : Form
  deriving DecidableEq, Repr

/-- What a trap saves (R400), the most recent EQP among it (R224). -/
structure Saved where
  fpctl : Word
  csp : Word
  p : KMap PVal
  x : KMap RVal
  seq : Option Seq
  eqp : Option EqpRef
  deriving DecidableEq, Repr

/-- What a pending LONG result is of, where the order or the moment of its arrival depends on it. -/
inductive PendKind where
  | plain
  /-- the special-function unit's, with the instruction it belongs to: delivered in issue order (R197, R402) -/
  | sfu (op : Nat)
  /-- a group collective's: written before its group is saved (R205) -/
  | collective
  /-- a load's: the instruction it belongs to, the last event of the memory model then, its words and its address, for the replay list (R411) -/
  | load (op ev : Nat) (word word2 : Word) (addr : Nat)
  deriving DecidableEq, Repr

/-- A pending LONG result (R145): its name, the registers (predicates as 112 to 119) it will write, their values once the
unit has them, whether a trailer awaits it (R38), and what it is of. -/
structure Pending where
  tag : Nat
  dests : List Nat
  value : Option (List RVal)
  awaited : Bool
  kind : PendKind
  deriving DecidableEq, Repr

/-- Why a thread that has not exited is not ready (R138). -/
inductive Wait where
  /-- nothing holds it -/
  | none
  /-- in BARW on an object, for a phase parity; it stands at the BARW, and `next` holds where it goes on (R393, R394) -/
  | barw (obj : Nat) (q : Bool)
  /-- in a join wait, with the picks made meanwhile (R144) -/
  | join (picks : Nat)
  /-- blocked by HALT (R417) -/
  | halted
  /-- sitting out the next pick after YIELD (R179) -/
  | yielded
  /-- being entered into its trap handler, until its pending results have arrived (R138, R400) -/
  | entering
  deriving DecidableEq, Repr

/-- A last-page register (R257): the page's virtual base and size, its frame, and R, W, NC. -/
structure Lpr where
  base : Nat
  size : Nat
  frame : Nat
  r : Bool
  w : Bool
  nc : Bool
  deriving DecidableEq, Repr

/-- A launched thread (R135). -/
structure Thread where
  exited : Bool
  pc : Word
  /-- the next PC a control instruction of the current run or packet has chosen (R173) -/
  next : Option Word
  fpctl : Word
  csp : Word
  regs : Regs
  /-- the registers as they stood before the co-issue set now issuing (R30) -/
  view : Option Regs
  /-- the vector registers left on the home slot by a visitor (R216) -/
  homeV : KMap RVal
  pend : List Pending
  joinPc : Option Word
  /-- the join PCs of its group that the thread has reached, and not named since by a JOINH (R144) -/
  joined : List Word
  wait : Wait
  age : Nat
  /-- when it became overdue (R140) -/
  overdue : Option Nat
  eqp : Option EqpRef
  /-- the RFLUSHes it has executed: its flush number before that wraps (R279) -/
  flush : Nat
  marchcfg : Word
  psnlo : Word
  psnhi : Word
  psnpc : Word
  psninfo : Word
  /-- the fault record's 16 words (R403), TRAPSTAT.INTRAP apart -/
  frec : KMap Word
  intrap : Bool
  saved : Option Saved
  rpcWritten : Bool
  clockHi : Word
  lpr : Option Lpr
  seq : Option Seq
  deriving DecidableEq, Repr

/-- An entry of an equivalence-point table (R12): NUM, DPC, LPC, and the offset and the length of its map. -/
structure EqpEntry where
  num : Nat
  dpc : Word
  lpc : Word
  map : Nat
  nmap : Nat
  deriving DecidableEq, Repr

/-- A granted move that has not been made (R223): the target core with the slot and registers charged there, the equivalence point
and its state map, and whether the move was automatic (R227). -/
structure Move where
  core : Nat
  slot : Nat
  vbase : Nat
  entry : EqpEntry
  pairs : List (Nat × Nat)
  auto : Bool
  deriving DecidableEq, Repr

/-- A group (R120, R225): where it runs, its uniform registers and its move status. -/
structure Group where
  core : Nat
  slot : Nat
  homeSlot : Nat
  /-- first vector register of its range on the home core, and on the core it visits -/
  vbase : Nat
  visitBase : Nat
  uregs : KMap RVal
  /-- the uniform registers before the co-issue set now issuing (R30) -/
  uview : Option (KMap RVal)
  migCount : Nat
  migLast : Nat
  lowPicks : Nat
  /-- the continuation pod (physical) that holds it swapped out (R119) -/
  swapped : Option Nat
  /-- a granted move under way (R223) -/
  moving : Option Move
  /-- an automatic move has been declined, and the group's next pick makes no offer (R227) -/
  declined : Bool
  deriving DecidableEq, Repr

/-- The fields of a resident descriptor (R11, R16). -/
structure Desc where
  addr : Nat
  flags : Nat
  vregd : Nat
  vregl : Nat
  uregs : Nat
  bars : Nat
  teamx : Nat
  teamy : Nat
  teamz : Nat
  rays : Nat
  scratch : Nat
  accum : Nat
  cluw : Nat
  cluh : Nat
  eqpcount : Nat
  secver : Nat
  dimg : Nat
  dsize : Nat
  dentry : Nat
  limg : Nat
  lsize : Nat
  lentry : Nat
  eqptab : Nat
  mapoff : Nat
  mapsize : Nat
  priv : Nat
  argsize : Nat
  deriving DecidableEq, Repr

/-- An entry of a traversal stack (R321, R348): its first 8 bytes, its third and its fourth word. -/
structure StackEntry where
  ref : DWord
  t : Word
  w : Word
  deriving DecidableEq, Repr

/-- A ray command as captured at issue (R324): its thread and result, SUB, M, E, operand values, the FPCTL and
MARCHCFG of its thread, and what the thread's acquires had then ordered it after (R384). -/
structure RayCmd where
  thread : Nat
  tag : Nat
  sub : Nat
  m : Nat
  e : Nat
  a : List Word
  b : List Word
  c : List Word
  fpctl : Word
  marchcfg : Word
  after : KMap Nat
  deriving DecidableEq, Repr

/-- A level of the instance path (R89, R330): its instance record, the ray in its object space (origin, direction), and what
the record gives the hits below it. -/
structure Lvl where
  addr : Nat
  ray : List Word
  noany : Bool
  flip : Bool
  callbase : Word
  inst : Word
  deriving DecidableEq, Repr

/-- A hit: t, u, v, the identifier, INSTID, CALLIX, USER, level, front face, the ray of its level, and for a BFACE the mesh it
enters with its WALK word (R331). -/
structure Hit where
  t : Word
  u : Word
  v : Word
  ident : Word
  inst : Word
  callix : Word
  userLo : Word
  userHi : Word
  level : Nat
  front : Bool
  obj : List Word
  enter : Option (Nat × Word)
  deriving DecidableEq, Repr

/-- The march in progress on a slot (R348): its program's name in Slot.progs, what its hits report, how deep the stack was
when it began, and its evaluations. -/
structure MarchSt where
  prog : Nat
  ident : Word
  callix : Word
  userLo : Word
  userHi : Word
  base : Nat
  evals : Nat
  deriving DecidableEq, Repr

/-- A limit a call has met, for the event that ends it: 2^20 cell steps (R336), or 65,536 evaluations (R348). -/
inductive RayStop where
  | steps (t : Word) (cell : Nat) (d3 : Word)
  | work (t0 t1 : Word)
  deriving DecidableEq, Repr

/-- A ray slot (R319 to R321): the image's words; the instance path; the stack (top first) and how many deeper entries lie in the
spill region; the mesh headers whose boundary trees are being walked, with the stack depth below each; the leaf, record and
triangle to go on with; the node-format table; the field programs read by the call with their constants (R340); the command
queue; the call being performed or parked; the spill region it uses; its best hit and its candidate; the ray that RGET.OBJ shows;
the march in progress; the limit met; where the slot has been evicted to; when it parked; and the words 0x60 to 0x6F that a park of a
march covers (R351). -/
structure Slot where
  img : KMap Word
  lvls : List Lvl
  stack : List StackEntry
  spilled : Nat
  meshes : List (Nat × Nat)
  rest : Option (StackEntry × Nat × Nat)
  nft : List Word
  progs : KMap (List Word × List Word)
  queue : List RayCmd
  call : Option RayCmd
  spl : Option Nat
  best : Option Hit
  cand : Option Hit
  obj : List Word
  march : Option MarchSt
  stop : Option RayStop
  evictedAt : Option Nat
  parkedAt : Nat
  keep : List Word
  deriving DecidableEq, Repr

/-- An entry of a team's pending-launch queue (R113): the pod (physical), when it entered, and whether it was popped. -/
structure PendLaunch where
  pod : Nat
  since : Nat
  stamp : Nat
  popped : Bool
  deriving DecidableEq, Repr

/-- Whether a resident team's groups may be picked. -/
inductive Hold where
  /-- running -/
  | none
  /-- selected by a request that has not yet halted it (R408) -/
  | stopping
  /-- halted in place, until RESUME (R407) or until it is saved -/
  | halted
  /-- its threads have all exited or been killed: reclamation is under way (R424) -/
  | retiring
  deriving DecidableEq, Repr

/-- A resident team (R120 to R125). -/
structure Team where
  grid : Nat
  asid : Nat
  index : Nat × Nat × Nat
  linear : Nat
  dims : Nat × Nat × Nat
  home : Nat
  start : Form
  rank : Nat
  count : Nat
  /-- the teams of its cluster by rank -/
  mates : List Nat
  desc : Desc
  scratchBase : Nat
  accBase : Nat
  rayBase : Nat
  scratch : KMap Byte
  /-- scratch words marked uncorrectable, by word number (R419) -/
  badWords : List Nat
  acc : KMap Word
  inner : KMap Word
  steps : KMap Nat
  ovf : DWord
  mxstat : Word
  tids : KMap Byte
  slots : KMap Slot
  raysplLo : Word
  raysplHi : Word
  engst : Word
  engalo : Word
  engahi : Word
  trapvec : Word
  pendq : List PendLaunch
  hold : Hold
  killed : Bool
  deriving DecidableEq, Repr

/-- A bundle in progress on a picker (R139): its threads in bundle order, the form, the next instruction's PC, the words
it entered with and the PC of the first of them (R281), the position (R43), the first member of the co-issue set now issuing
(R30), the threads that still wait at issue (R146), whether the members of that set are only being tried for traps (R150), and what
the threads before those that wait have arrived with, for the instruction's BARARR records (R434); the words of the packets that its
hold sequence goes on to, as they were when it was entered (R281); and the member of the set that executes before the others, with whether it
has (R150). -/
structure Bundle where
  threads : List Nat
  form : Form
  pc : Word
  base : Word
  code : List Word
  seq : Seq
  set : Option Word
  rest : Option (List Nat)
  probe : Bool
  arrivals : List (Nat × Nat × Bool × Nat)
  ahead : List Word
  early : Option (Word × Bool)
  deriving DecidableEq, Repr

/-- A reduction-buffer entry (R277, R396). -/
structure RedEntry where
  grid : Nat
  gridVa : Nat
  asid : Nat
  pa : Nat
  opc : Nat
  lo : Word
  hi : Word
  fpctl : Word
  core : Nat
  picker : Nat
  linear : Nat
  group : Nat
  thread : Nat
  order : Nat
  /-- its flush number, before that wraps -/
  flush : Nat
  deriving DecidableEq, Repr

/-- An engine command (R284, R297). -/
structure EngCmd where
  id : Nat
  sub : Nat
  m : Nat
  fpctl : Word
  src : KMap Byte
  dst : KMap Byte
  origin : List Nat
  /-- index list: (in scratch?, address) -/
  list : Bool × Nat
  /-- the list's values, read when the command starts (R286) -/
  idx : List Nat
  team : Option Nat
  /-- ENGINE pod (physical) -/
  pod : Option Nat
  asid : Nat
  bar : Option Nat
  /-- the backing a source publish slot shows and a destination's shadow, fixed at arrival (R294) -/
  srcBack : Option Nat
  dstBack : Option Nat
  dstSlot : Option Nat
  codebook : KMap Word
  started : Bool
  /-- elements landed so far, in the command's order -/
  landed : Nat
  counted : Nat
  /-- the quantiser's staging buffer (R287) -/
  stage : KMap Byte
  faulted : Bool
  /-- the element now being done has been counted as faulting (R290) -/
  hit : Bool
  deriving DecidableEq, Repr

/-- A PUB that waits for its exchange (R295): its team, and the thread and name of its result where it has one. -/
structure PubCmd where
  id : Nat
  core : Nat
  slot : Nat
  asid : Nat
  team : Option Nat
  thread : Option (Nat × Nat)
  pod : Option Nat
  deriving DecidableEq, Repr

/-- A matrix command (R306). -/
structure MxCmd where
  id : Nat
  team : Nat
  thread : Nat
  tag : Nat
  sub : Nat
  m : Nat
  e : Nat
  d : Word
  a : Word
  b : Word
  c : Word
  fpctl : Word
  codebook : KMap Word
  deriving DecidableEq, Repr

/-- A queued FPRUNE (R357), with what its thread's acquires had ordered it after at its issue (R384). -/
structure PruneCmd where
  team : Nat
  thread : Nat
  tag : Nat
  box : List Word
  node : Nat
  block : Nat
  fpctl : Word
  after : KMap Nat
  deriving DecidableEq, Repr

/-- A translation that a core's TLB holds (R258): its ASID, and the page's virtual base, size, frame, R, W, X and NC (R254). -/
structure TlbEnt where
  asid : Nat
  base : Nat
  size : Nat
  frame : Nat
  r : Bool
  w : Bool
  x : Bool
  nc : Bool
  deriving DecidableEq, Repr

/-- A non-leaf entry that a core holds (R258): the table of a level for the addresses of an ASID whose bits above that level's index are tag;
level 3 is the context's root (R252). -/
structure WalkEnt where
  asid : Nat
  lvl : Nat
  tag : Nat
  table : Nat
  deriving DecidableEq, Repr

/-- A 128-byte line of code in a core's instruction buffer, by ASID and virtual line (R281, R418). -/
structure CodeLine where
  asid : Nat
  line : Nat
  bytes : List Byte
  deriving DecidableEq, Repr

/-- A brick in a core's brick store, by its global address; with its physical address and its page (R245). -/
structure BrickTag where
  asid : Nat
  addr : Nat
  size : Nat
  pa : Nat
  page : Nat
  pageSize : Nat
  deriving DecidableEq, Repr

/-- A line of device memory in the Marrow, with its traffic class (R246, R248). -/
structure MarrowLine where
  line : Nat
  cls : Nat
  deriving DecidableEq, Repr

/-- A core (R122). -/
structure Core where
  fenced : Bool
  fencing : Bool
  /-- a halt has been requested and not all selected cores have halted (R408) -/
  halting : Bool
  bundles : KMap Bundle
  busyPicks : KMap Nat
  /-- the codebook words that differ from the reset table (R65, R66) -/
  codebook : KMap Word
  mxOwner : Option Nat
  mxCfg : Word
  /-- weights by 1,024 · (4 · plane + sub-array) + 32k + n, 0 the front plane (R298) -/
  planes : KMap Xr
  mxq : List MxCmd
  engq : List EngCmd
  pruneq : List PruneCmd
  redbuf : KMap (List RedEntry)
  l1cfg : Nat
  counters : KMap Nat
  /-- the structure is under self-test: no new team (R421) -/
  testing : Bool
  tlb : List TlbEnt
  upper : List WalkEnt
  ibuf : List CodeLine
  /-- the lines of device memory in the L1, by number (R244) -/
  l1 : List Nat
  bricks : List BrickTag
  deriving DecidableEq, Repr

/-- A GRID pod taken by the placement engine (R127), by taking order. -/
structure Grid where
  pod : Nat
  va : Nat
  asid : Nat
  cls : Nat
  prio : Nat
  frame : Nat
  dims : Nat × Nat × Nat
  desc : Desc
  team : Nat × Nat × Nat
  next : Nat
  /-- why no further team will be placed: SECVER (R20) or NOFIT (R131) -/
  stopped : Option Nat
  /-- the first kill cause (R426) and how many came later -/
  killed : Option (Nat × Nat)
  /-- the KILL record has been written and the teams handed to reclamation -/
  killDone : Bool
  deriving DecidableEq, Repr

/-- What the launch unit captured when a pod was armed (R103). -/
structure Flight where
  va : Nat
  asid : Nat
  code : Nat
  frame : Nat
  dims : Nat × Nat × Nat
  team : Nat × Nat × Nat
  deriving DecidableEq, Repr

/-- The round-robin of one list set (R107, R108). -/
structure Wrr where
  cls : Nat
  credit : Nat
  weights : Word
  pops : KMap Nat
  lastPop : KMap Nat
  stamp : Nat
  deriving DecidableEq, Repr

/-- What an agent has been ordered after (R378): for each agent, by number, the last of its events. -/
abbrev View := KMap Nat

/-- What the launch unit has accepted and the replay log holds up (R437): a doorbell write; the kill of a pod (physical); and the rest of a
completed pod's successors, n of a list in an ASID from entry i on, with what its node has done (R104). -/
inductive UnitWait where
  | doorbell (n width : Nat) (value : DWord)
  | kill (pod : Nat)
  | successors (asid cls list i n : Nat) (done : View)
  deriving DecidableEq, Repr

/-- What waits to be restored (R128 step 1). -/
inductive Restore where
  /-- a continuation pod (physical) and its group -/
  | cont (pod group : Nat)
  /-- a saved team -/
  | team (id : Nat)
  deriving DecidableEq, Repr

/-- A team whose image lies in the pool (R410): where; its record, but for what the image holds; and what the part knows of it besides. -/
structure SavedTeam where
  id : Nat
  off : Nat
  size : Nat
  team : Team
  /-- the cores its groups stood on -/
  cores : List Nat
  /-- released by RESUME, or saved by a fence (R422) -/
  released : Bool
  /-- a HALT held it when a fence saved it -/
  held : Bool
  /-- its threads that are blocked at a HALT (R417) -/
  halts : List Nat
  /-- its threads that are being entered into their handlers, and the join PCs that its threads have reached (R138, R144) -/
  entering : List Nat
  reached : KMap (List Word)
  /-- where a thread that is in its handler stands in a run or sequence there, and what its temporaries or latches hold (R416) -/
  inside : KMap (Seq × KMap RVal)
  /-- results of stopped ray calls, by thread (R324) -/
  pend : KMap (List Pending)
  /-- the flush numbers of its threads that have not exited (R279) -/
  flush : List Nat
  deriving DecidableEq, Repr

/-- A pre-emption operation in progress (R407, R408): 1 SAVE, 2 HALT; its teams, those of them that a HALT held before; whether all
cores have halted; and the core whose fence it serves. -/
structure PmtOp where
  op : Nat
  sel : Nat
  value : Nat
  teams : List Nat
  held : List Nat
  halted : Bool
  fence : Option Nat
  deriving DecidableEq, Repr

/-- A ring in memory (R262, R423, R432): its BASE register and its indexes. -/
structure Ring where
  base : DWord
  head : Word
  tail : Word
  drop : Word
  deriving DecidableEq, Repr

/-- The interactions the replay log has lost (R437): the first, as its record's bytes, and how many. -/
structure LogLost where
  first : List Byte
  count : Nat
  deriving DecidableEq, Repr

/-- A triangle routed to a binning unit and not yet delivered (R362): the target's descriptor and the record as PRIM read them
(R366). -/
structure BinItem where
  asid : Nat
  target : Nat
  desc : List Word
  record : List Word
  ident : Nat
  thread : Nat
  tag : Nat
  deriving DecidableEq, Repr

/-- A PRIM.END or VISR.WAIT that has not delivered (R364, R368). -/
structure RasterWait where
  isEnd : Bool
  thread : Nat
  tag : Nat
  asid : Nat
  target : Nat
  team : Nat
  pixel : Nat
  pc : Nat
  deriving DecidableEq, Repr

/-- A hardware error whose test or fence is to come (R421, R422): CLOCK at its detection, its core, the error, and whether its test has
found it lasting. -/
structure Seen where
  clock : Nat
  core : Option Nat
  error : HwError
  lasting : Bool
  deriving DecidableEq, Repr

/-- A release that a write carries (R377): its agent, its scope, and what is hb-before it. -/
structure Release where
  agent : Nat
  scope : Nat
  view : View
  deriving DecidableEq, Repr

/-- A write to a part of storage, in its place in the part's coherence order (R380): its event, CLOCK then, and its agent; whether it is
strong, and its scope (R373); whether it is an atomic's; whether it went through private space (R270); whether it merges a fragment (R361); where it is performed (R374); whether
its data is lost, so that it reads as poison (R243, R380); the releases it carries; and its bytes, by their offsets in the part. -/
structure Ver where
  ev : Nat
  clock : Nat
  agent : Nat
  strong : Bool
  scope : Nat
  atomic : Bool
  priv : Bool
  merge : Bool
  point : Nat
  lost : Bool
  rel : List Release
  bytes : KMap Byte
  deriving DecidableEq, Repr

/-- A part of storage that has been written (R270, R380): its eight bytes before the writes, each with whether it was lost, and the writes,
newest first in coherence order. -/
structure Strip where
  base : List (Byte × Bool)
  vers : List Ver
  deriving DecidableEq, Repr

/-- What a thread now does (R376): the thread, CLOCK, what the address of its access depends on, and the registers it writes. -/
structure Doing where
  agent : Nat
  clock : Nat
  addr : View
  dests : List Nat
  deriving DecidableEq, Repr

/-- What carries happens-before between agents other than by a value read (R379, R384). -/
inductive SyncKey where
  /-- the FENCE.ARs of one scope instance -/
  | fence (scope inst : Nat)
  /-- the releases counted on a barrier object, and those of its completed phases -/
  | arrived (team obj : Nat)
  | completed (team obj : Nat)
  /-- the matrix commands of a team -/
  | matrix (team : Nat)
  /-- the merges into a team's tile store that a close has released (R364) -/
  | tile (team : Nat)
  /-- the bytes landed in a publish slot's shadow -/
  | slot (slot : Nat)
  /-- the stores that fetch reads of a line of an ASID's code, numbered from 1, or with 0 of all of it (R281, R418) -/
  | code (asid line : Nat)
  /-- what a pod waits for, and what its node has written, by the pod's physical address -/
  | pod (pa : Nat)
  | node (pa : Nat)
  deriving DecidableEq, Repr

/-- The memory model's state (R370 to R386): the last event; the writes of each 8-byte part of storage, where storage itself holds what the
newest left; what each agent is ordered after, now, at its last acquire, and at its last release fence of each scope; what its strong reads
have met that a fence would order it after, by the scope it takes (and, of those, what a promotion would); the writes of each part that an
agent has read; the strong stores performed at each point, oldest first; how far into those orders readers of a part had seen, and how far
an agent has seen with its acquires, with its strong reads of a part, with all of its strong reads, and with those that a register's value
depends on; an agent's last fence; how far page walks see; the edges other than reads; and, the model's own, what the thread now issuing
does, and the agent for which a unit now reads. -/
structure Order where
  next : Nat
  hist : KMap Strip
  view : KMap View
  acqView : KMap View
  fenced : KMap View
  heard : KMap View
  heardRmt : KMap View
  seen : KMap (List Nat)
  line : KMap (List Nat)
  floor : KMap View
  sight : KMap View
  touch : KMap View
  every : KMap View
  dep : KMap View
  selfFence : KMap Nat
  walked : Nat
  sync : List (SyncKey × View)
  doing : Doing
  actor : Nat
  deriving DecidableEq, Repr

/-- One turn of the schedule: a picker issues the next instruction of its bundle, or an event happens. -/
inductive Turn where
  | issue (core picker : Nat)
  | event (i : Instr)
  deriving DecidableEq, Repr

/-- The machine. -/
structure State where
  -- the part
  clock : Nat
  booted : Bool
  fwBad : Bool
  secCount : Nat
  pwrCur : Nat
  pwrReq : Nat
  heldDoorbells : List (Nat × DWord)
  ckptBusy : Bool
  ckptErr : Bool
  ckptBase : Nat
  /-- a GO that waits for PMTCTL (R449) -/
  ckptWait : Bool
  -- the model's own
  agenda : List Turn
  focus : Nat × Nat
  fresh : Nat
  nextTeam : Nat
  -- memory
  mem : List Host.Cell
  poisonLines : List Nat
  carve : KMap Byte
  carvePoison : List Nat
  retired : List Nat
  peerUp : List Nat
  /-- device memory that is not fitted, as bases and sizes (R251) -/
  unfitted : List (Nat × Nat)
  -- memory-block registers
  astab : DWord
  tlbinv : Option (Nat × Nat × Nat)
  marcfgReq : Nat
  marcfgActive : Nat
  mclass : Word
  accctl : Word
  accRing : Ring
  accCounts : KMap Nat
  pubtab : DWord
  redspill : DWord
  redSpilled : List RedEntry
  errRing : Ring
  rlmode : Word
  rrwatch : DWord
  traceRing : Ring
  counterRing : Ring
  nextTick : Nat
  logRing : Ring
  logLost : Option LogLost
  logSeq : KMap Nat
  -- launch-unit registers
  lqweight : Word
  dberr : Word
  lqerr : Word
  dbbind : KMap Word
  pmt : Option PmtOp
  pmtPartial : Bool
  pmtpool : DWord
  saved : List SavedTeam
  killBusy : List Nat
  haltstat : DWord
  haltpc : DWord
  /-- halts that HALT instructions have requested and that wait for PMTCTL (R417) -/
  haltWaits : List Nat
  /-- the grids, by pod, whose halt is in force: HALT with SEL GRID has halted them, and no RESUME has released them (R407, R417) -/
  gridHalts : List Nat
  /-- launch-unit acts that the replay log holds up, in order (R437) -/
  unitWaits : List UnitWait
  signals : List (Nat × DWord)
  -- launch unit: queue 2q + 0 placement, 2q + 1 engine
  queues : KMap (List Nat)
  wrrPlace : Wrr
  wrrEngine : Wrr
  flight : KMap Flight
  -- placement engine
  grids : List Grid
  waits : List Restore
  -- cores, teams, groups (team · 32 + group), threads (team · 1,024 + thread)
  cores : KMap Core
  teams : KMap Team
  groups : KMap Group
  threads : KMap Thread
  pubs : List PubCmd
  -- raster
  binq : KMap (List BinItem)
  rasterWaits : List RasterWait
  targets : List (Nat × Nat)
  -- errors whose test or fence has not come
  errors : List Seen
  /-- the Marrow's lines by set, the last used first (R246 to R248) -/
  marrow : KMap (List MarrowLine)
  order : Order
  deriving DecidableEq, Repr

/-- Core (c, r) is an L-core exactly when its column and its row are odd (R122). -/
def classOfCore (core : Nat) : Form := if core % 18 % 2 = 1 ∧ core / 18 % 2 = 1 then .l else .d

/-- A core after reset (R66, R245, R300, R435). -/
def Core.initial (core : Nat) : Core :=
  { fenced := false, fencing := false, halting := false, bundles := [], busyPicks := [], codebook := [],
    mxOwner := none, mxCfg := 0, planes := [], mxq := [], engq := [], pruneq := [], redbuf := [],
    l1cfg := (match classOfCore core with | .d => 1 | .l => 0), counters := [], testing := false, tlb := [], upper := [], ibuf := [],
    l1 := [], bricks := [] }

/-- A ring after reset (R262). -/
def Ring.initial : Ring := ⟨0, 0, 0, 0⟩

/-- LQWEIGHT after reset (R111). -/
def lqweightReset : Word := 0x01020408#32

/-- A round-robin at the start of a round (R107). -/
def Wrr.initial : Wrr := { cls := 0, credit := 8, weights := lqweightReset, pops := [], lastPop := [], stamp := 0 }

/-- No access has been made (R380). -/
def Order.initial : Order :=
  { next := 0, hist := [], view := [], acqView := [], fenced := [], heard := [], heardRmt := [], seen := [], line := [], floor := [],
    sight := [], touch := [], every := [], dep := [], selfFence := [], walked := 0, sync := [], doing := ⟨0, 0, [], []⟩, actor := 0 }

/-- The machine right after reset, before bring-up (R446, R448). Cores stand at their defaults, so none is listed. The
values the spec does not state are those of log entries 3, 4 and 5: among them SECFUSE.COUNT, which R18 gives the part's fused value and
no number; it is 0 here (DESIGN CHOICE, log entry 5). -/
def State.reset : State :=
  { clock := 0, booted := false, fwBad := false, secCount := 0, pwrCur := 0, pwrReq := 0, heldDoorbells := [],
    ckptBusy := false, ckptErr := false, ckptBase := 0, ckptWait := false,
    agenda := [], focus := (0, 0), fresh := 0, nextTeam := 0,
    mem := [], poisonLines := [], carve := [], carvePoison := [], retired := [], peerUp := [], unfitted := [],
    astab := 0, tlbinv := none, marcfgReq := 0, marcfgActive := 0, mclass := 0, accctl := 0x00000100#32,
    accRing := Ring.initial, accCounts := [], pubtab := 0, redspill := 0, redSpilled := [], errRing := Ring.initial,
    rlmode := 0, rrwatch := 0xFFFFFFFFFFFFFFFF#64, traceRing := Ring.initial, counterRing := Ring.initial, nextTick := 0,
    logRing := Ring.initial, logLost := none, logSeq := [],
    lqweight := lqweightReset, dberr := 0, lqerr := 0, dbbind := [], pmt := none, pmtPartial := false, pmtpool := 0,
    saved := [], killBusy := [], haltstat := 0, haltpc := 0, haltWaits := [], gridHalts := [], unitWaits := [], signals := [],
    queues := [], wrrPlace := Wrr.initial, wrrEngine := Wrr.initial, flight := [],
    grids := [], waits := [], cores := [], teams := [], groups := [], threads := [], pubs := [],
    binq := [], rasterWaits := [], targets := [], errors := [], marrow := [], order := Order.initial }

end Sys2Proof.Machine
end

