-- ==== Sys2Proof/Machine/Access.lean ====
section
/-! DEFINITION. Names of threads, groups, teams and cores, and reading and changing their records. -/

namespace Sys2Proof.Machine

/-- The team of thread key k (team · 1,024 + team-linear index). -/
def keyTeam (k : Nat) : Nat := k / 1024
/-- The team-linear thread index of thread key k (R121). -/
def keyLin (k : Nat) : Nat := k % 1024
/-- The group key (team · 32 + group in team) of thread key k (R121). -/
def keyGroup (k : Nat) : Nat := k / 1024 * 32 + k % 1024 / 32
/-- The thread key of thread t of group key g. -/
def groupThread (g t : Nat) : Nat := g / 32 * 1024 + g % 32 * 32 + t

def Desc.initial : Desc :=
  { addr := 0, flags := 0, vregd := 0, vregl := 0, uregs := 0, bars := 0, teamx := 0, teamy := 0, teamz := 0, rays := 0,
    scratch := 0, accum := 0, cluw := 1, cluh := 1, eqpcount := 0, secver := 0, dimg := 0, dsize := 0, dentry := 0, limg := 0,
    lsize := 0, lentry := 0, eqptab := 0, mapoff := 0, mapsize := 0, priv := 0, argsize := 0 }

/-- No register holds anything but zero, and no temporary or latch a value (R130). -/
def Regs.initial : Regs := ⟨[], [], []⟩

/-- A thread at placement (R130, R347), but for its PC and CSP. -/
def Thread.initial : Thread :=
  { exited := false, pc := 0, next := none, fpctl := 0, csp := 0, regs := Regs.initial, view := none, homeV := [], pend := [],
    joinPc := none, joined := [], wait := .none, age := 0, overdue := none, eqp := none, flush := 0, marchcfg := 0x00007500#32, psnlo := 0,
    psnhi := 0, psnpc := 0, psninfo := 0, frec := [], intrap := false, saved := none, rpcWritten := false, clockHi := 0,
    lpr := none, seq := none }

def Group.initial : Group :=
  { core := 0, slot := 0, homeSlot := 0, vbase := 0, visitBase := 0, uregs := [], uview := none, migCount := 0, migLast := 0, lowPicks := 0,
    swapped := none, moving := none, declined := false }

/-- A team at placement (R130), but for where it stands and what it runs. -/
def Team.initial : Team :=
  { grid := 0, asid := 0, index := (0, 0, 0), linear := 0, dims := (1, 1, 1), home := 0, start := .d, rank := 0, count := 1,
    mates := [], desc := Desc.initial, scratchBase := 0, accBase := 0, rayBase := 0, scratch := [], badWords := [], acc := [],
    inner := [], steps := [], ovf := 0, mxstat := 0, tids := [], slots := [], raysplLo := 0, raysplHi := 0, engst := 0,
    engalo := 0, engahi := 0, trapvec := 0, pendq := [], hold := .none, killed := false }

/-- A ray slot that is IDLE (R319). -/
def Slot.initial : Slot :=
  { img := [], lvls := [], stack := [], spilled := 0, meshes := [], rest := none, nft := [], progs := [], queue := [], call := none,
    spl := none, best := none, cand := none, obj := [], march := none, stop := none, evictedAt := none, parkedAt := 0, keep := [] }

def getThread (s : State) (k : Nat) : Thread := (kfind s.threads k).getD Thread.initial
def getGroup (s : State) (g : Nat) : Group := (kfind s.groups g).getD Group.initial
def getTeam (s : State) (t : Nat) : Team := (kfind s.teams t).getD Team.initial
def getCore (s : State) (c : Nat) : Core := (kfind s.cores c).getD (Core.initial c)

def setThread (s : State) (k : Nat) (t : Thread) : State := { s with threads := kput s.threads k t }
def setGroup (s : State) (g : Nat) (x : Group) : State := { s with groups := kput s.groups g x }
def setTeam (s : State) (t : Nat) (x : Team) : State := { s with teams := kput s.teams t x }
def setCore (s : State) (c : Nat) (x : Core) : State := { s with cores := kput s.cores c x }

/-- Changes thread k, which exists. -/
def modThread (s : State) (k : Nat) (f : Thread → Thread) : State := setThread s k (f (getThread s k))
def modGroup (s : State) (g : Nat) (f : Group → Group) : State := setGroup s g (f (getGroup s g))
def modTeam (s : State) (t : Nat) (f : Team → Team) : State := setTeam s t (f (getTeam s t))
def modCore (s : State) (c : Nat) (f : Core → Core) : State := setCore s c (f (getCore s c))

/-- The team of thread k. -/
def teamOf (s : State) (k : Nat) : Team := getTeam s (keyTeam k)
/-- The group of thread k. -/
def groupOf (s : State) (k : Nat) : Group := getGroup s (keyGroup k)
/-- The class of the core that executes thread k. -/
def classOf (s : State) (k : Nat) : Form := classOfCore (groupOf s k).core

/-- The pickers of a core: 4 or 2 (R122). -/
def pickersOf (c : Form) : Nat := match c with | .d => 4 | .l => 2
/-- The lanes of a picker (R122). -/
def lanesOf (c : Form) : Nat := match c with | .d => 32 | .l => 16
/-- The picker a group slot is bound to (R137). -/
def pickerOfSlot (c : Form) (slot : Nat) : Nat := slot % pickersOf c
/-- The picker that issues group g (R137). -/
def pickerOf (s : State) (g : Nat) : Nat := let x := getGroup s g; pickerOfSlot (classOfCore x.core) x.slot
/-- The picker to which group g's home slot is bound (R395). -/
def homePickerOf (s : State) (g : Nat) : Nat :=
  pickerOfSlot (classOfCore (getTeam s (g / 32)).home) (getGroup s g).homeSlot

/-- The threads whose groups are bound to a picker (R137). -/
def boundThreads (s : State) (core picker : Nat) : List Nat :=
  (s.threads.map (·.1)).filter (fun k => decide ((groupOf s k).core = core ∧ pickerOf s (keyGroup k) = picker))

/-- The quad of a core (R122). -/
def quadOf (core : Nat) : Nat := core % 18 / 2 + 9 * (core / 18 / 2)
/-- The L-core of a quad (R122). -/
def lcoreOfQuad (q : Nat) : Nat := q % 9 * 2 + 1 + 18 * (q / 9 * 2 + 1)
/-- The D-cores of a quad, ascending (R122). -/
def dcoresOfQuad (q : Nat) : List Nat :=
  let c := q % 9 * 2 + 18 * (q / 9 * 2)
  [c, c + 1, c + 18]

/-- The threads of a team: TEAMX · TEAMY · TEAMZ (R120). -/
def teamThreads (t : Team) : Nat := t.dims.1 * t.dims.2.1 * t.dims.2.2
/-- The groups of a team (R121). -/
def teamGroups (t : Team) : Nat := (teamThreads t + 31) / 32
/-- The launched thread keys of team id (R121). -/
def threadsOfTeam (s : State) (id : Nat) : List Nat :=
  (List.range (teamThreads (getTeam s id))).map (fun l => id * 1024 + l)
/-- The launched threads of a group, as thread keys (R121). -/
def launchedOfGroup (s : State) (g : Nat) : List Nat :=
  ((List.range 32).map (fun t => groupThread g t)).filter (fun k => decide (keyLin k < teamThreads (getTeam s (g / 32))))
/-- The live threads of a group: launched and not exited (R142, R202). -/
def liveOfGroup (s : State) (g : Nat) : List Nat :=
  (launchedOfGroup s g).filter (fun k => !(getThread s k).exited)

/-- The size of a team's scratch region (R236). -/
def scratchSize (d : Desc) : Nat := (d.scratch + 16 * d.bars + 1023) / 1024 * 1024
/-- The size of a team's data area (R236). -/
def dataSize (d : Desc) : Nat := scratchSize d - 16 * d.bars
/-- The tiles of a team's accumulator region (R309). -/
def tileCount (d : Desc) : Nat := (d.accum + 4095) / 4096
/-- The vector registers of a thread in a class (R11). -/
def vregOf (d : Desc) (c : Form) : Nat := match c with | .d => d.vregd | .l => d.vregl

/-- The code base of an image (R16, R41). -/
def codeBase (d : Desc) (c : Form) : Nat := match c with | .d => d.dimg | .l => d.limg

/-- The grid, active or not, whose pod lies at physical address pa. -/
def findGrid (s : State) (pa : Nat) : Option Grid := s.grids.find? (fun g => decide (g.pod = pa))
/-- Changes the grid at pa. -/
def modGrid (s : State) (pa : Nat) (f : Grid → Grid) : State :=
  { s with grids := s.grids.map (fun g => if g.pod = pa then f g else g) }
/-- The traffic class of a team: its grid pod's (R248). -/
def teamClass (s : State) (t : Team) : Nat := match findGrid s t.grid with | some g => g.cls | none => 0
/-- The virtual address of a team's grid pod. -/
def teamPodVa (s : State) (t : Team) : Nat := match findGrid s t.grid with | some g => g.va | none => 0
/-- The argument frame of a team's grid (R239). -/
def teamFrame (s : State) (t : Team) : Nat := match findGrid s t.grid with | some g => g.frame | none => 0

/-- True when thread a stands before thread b in bundle order (R152). -/
def before (s : State) (a b : Nat) : Bool :=
  let ta := teamOf s a
  let tb := teamOf s b
  let pa := teamPodVa s ta
  let pb := teamPodVa s tb
  if pa ≠ pb then decide (pa < pb)
  else if ta.linear ≠ tb.linear then decide (ta.linear < tb.linear)
  else decide (a < b)

/-- Inserts a thread in bundle order. -/
def insertBy (le : Nat → Nat → Bool) (k : Nat) : List Nat → List Nat
  | [] => [k]
  | j :: r => if le k j then k :: j :: r else j :: insertBy le k r

/-- A list sorted by an order, stably. -/
def sortBy (le : Nat → Nat → Bool) : List Nat → List Nat
  | [] => []
  | k :: r => insertBy le k (sortBy le r)

/-- Threads in bundle order (R152). -/
def bundleOrder (s : State) (ks : List Nat) : List Nat := sortBy (fun a b => before s a b || decide (a = b)) ks

/-- A list without repeats, keeping last occurrences. -/
def dedup : List Nat → List Nat
  | [] => []
  | k :: r => if k ∈ r then dedup r else k :: dedup r

/-- A free value's number, and the state with the counter advanced (log entry 4). -/
def draw (s : State) : Nat × State := (s.fresh, { s with fresh := s.fresh + 1 })

/-- The counter of core c numbered n rises, saturating (R435). -/
def bump (s : State) (c n k : Nat) : State :=
  modCore s c (fun x => { x with counters := kput x.counters n (min 0xFFFFFFFF (kget 0 x.counters n + k)) })

/-- The bits h down to l of a number (R3). -/
def bits (w h l : Nat) : Nat := w / 2 ^ l % 2 ^ (h + 1 - l)

/-- A number as a word. -/
def wd (n : Nat) : Word := BitVec.ofNat 32 n

/-- A Bool as 0 or 1. -/
def b2n (b : Bool) : Nat := if b then 1 else 0

end Sys2Proof.Machine
end

