-- ==== Sys2Proof/Machine/Memory.lean ====
section
/-! DEFINITION. Storage and the way to it: bytes and byte order (R3), the physical map (R251, R451), translation (R252 to
R257), publish slots (R292, R293), the six spaces (R233 to R239), poisoned lines (R243) and the bytes the launch unit owns (R103). -/

namespace Sys2Proof.Machine

/-- Why an access fails, in the codes of PSNINFO.CAUSE (R242). -/
inductive MFault where
  | notPresent
  | perm
  | badPte
  | range
  | busErr
  | eccu
  deriving DecidableEq, Repr

def MFault.code : MFault → Nat
  | .notPresent => 1 | .perm => 2 | .badPte => 3 | .range => 4 | .busErr => 5 | .eccu => 6

/-- The canonical form of memory (log entry 1): addresses strictly rising, and no byte listed that reads as an unlisted one does. -/
def Memory.wf (m : List Host.Cell) : Bool := kwf 0 m

/-- n bytes from key a of a byte table. -/
def bytesAt (m : KMap Byte) : Nat → Nat → List Byte
  | _, 0 => []
  | a, n + 1 => kget 0 m a :: bytesAt m (a + 1) n

/-- The number in n bytes from key a of a byte table. -/
def leAt (m : KMap Byte) (a n : Nat) : Nat := leNat (bytesAt m a n)

/-- The number in n bytes of physical memory. -/
def rdMem (s : State) (pa n : Nat) : Nat := leAt s.mem pa n

/-- A place in storage (R371). -/
inductive Loc where
  | phys (pa : Nat)
  | scratch (team off : Nat)
  | carve (off : Nat)
  deriving DecidableEq, Repr

-- the parts of storage (R270, R371)

/-- The 8-byte part of storage that holds the byte at a place, and the byte's offset in it. -/
def partOf : Loc → Nat
  | .phys pa => 3 * (pa / 8)
  | .carve o => 3 * (o / 8) + 1
  | .scratch tm o => 3 * (tm * 2 ^ 17 + o / 8) + 2
def offOf : Loc → Nat
  | .phys pa => pa % 8
  | .carve o => o % 8
  | .scratch _ o => o % 8

/-- The place of byte j of the part that holds a place. -/
def Loc.inPart : Loc → Nat → Loc
  | .phys pa, j => .phys (pa / 8 * 8 + j)
  | .carve o, j => .carve (o / 8 * 8 + j)
  | .scratch tm o, j => .scratch tm (o / 8 * 8 + j)

/-- The place n bytes on. -/
def Loc.plus : Loc → Nat → Loc
  | .phys pa, n => .phys (pa + n)
  | .carve o, n => .carve (o + n)
  | .scratch tm o, n => .scratch tm (o + n)

/-- The pieces of an access that lie in one part each: how many bytes (R270). -/
def pieces (off : Nat) : Nat → Nat → List Nat
  | 0, _ => []
  | _, 0 => []
  | fuel + 1, n => min n (8 - off) :: pieces 0 fuel (n - (8 - off))

/-- The n bytes from pa on are seen by every agent as they stand: they have no older value left to read (log entry 2). -/
def settleMem (s : State) (pa n : Nat) : State :=
  { s with order := { s.order with
      hist := s.order.hist.filter (fun e => decide (e.1 % 3 ≠ 0 ∨ e.1 < partOf (.phys pa) ∨ partOf (.phys (pa + n - 1)) < e.1)) } }

/-- The parity of n's low 20 bits (R246). -/
def xorReduce (n : Nat) : Nat := ((List.range 20).filter (fun i => n.testBit i)).length % 2

/-- The slice that homes a device line (R246). -/
def sliceOf (line : Nat) : Nat := 2 * (line % 27) + xorReduce line

/-- The channel that a device line lies on (R250). -/
def channelOf (line : Nat) : Nat := 8 * (line % 3) + (bits line 2 0 ^^^ bits line 5 3 ^^^ bits line 8 6 ^^^ bits line 11 9)

/-- Device memory (R251). -/
def isDevice (pa : Nat) : Bool := decide (pa < 0x03000000000)
/-- The Loben Link range (R251). -/
def isCompanion (pa : Nat) : Bool := decide (0x40000000000 ≤ pa ∧ pa < 0x80000000000)

/-- True where an access by physical address is BUSERR: device memory that is not fitted, no target, the management window, an untrained
peer (R251, R444, R451). -/
def busErr (s : State) (pa : Nat) : Bool :=
  if isDevice pa then s.unfitted.any (fun r => decide (r.1 ≤ pa ∧ pa < r.1 + r.2))
  else if isCompanion pa then false
  else if 0x80000000000 ≤ pa ∧ pa < 0xC0000000000 then decide (¬ (pa - 0x80000000000) / 0x8000000000 ∈ s.peerUp)
  else true

/-- True when a byte of [pa, pa + n) lies in a poisoned line (R243). -/
def linesBad (bad : List Nat) (pa n : Nat) : Bool :=
  decide (0 < n) && bad.any (fun l => decide (pa / 128 ≤ l ∧ l ≤ (pa + n - 1) / 128))

/-- A read by physical address (R255, R451). -/
def physRead (s : State) (pa n : Nat) : Except MFault Nat :=
  if busErr s pa || busErr s (pa + n - 1) then .error .busErr
  else if linesBad s.poisonLines pa n then .error .eccu
  else .ok (rdMem s pa n)

/-- True for a byte that the launch unit owns: one of an in-flight pod's bytes 0x10–0x17 or 0x2A–0x3F (R103). -/
def owned (s : State) (pa : Nat) : Bool :=
  (kfind s.flight (pa / 64 * 64)).isSome &&
    (let o := pa % 64; decide ((0x10 ≤ o ∧ o ≤ 0x17) ∨ (0x2A ≤ o ∧ o ≤ 0x3F)))

/-- True when a byte of [pa, pa + n) is owned. -/
def touchesOwned (s : State) (pa n : Nat) : Bool := (List.range n).any (fun i => owned s (pa + i))

-- the writes of a part (R380)

/-- The byte at a place as it stands, and whether it is marked lost (R240, R243). -/
def byteAt (s : State) : Loc → Byte × Bool
  | .phys pa => (kget 0 s.mem pa, linesBad s.poisonLines pa 1)
  | .carve o => (kget 0 s.carve o, linesBad s.carvePoison o 1)
  | .scratch tm o => let t := getTeam s tm; (kget 0 t.scratch o, decide (o / 4 ∈ t.badWords))

/-- The writes of the part that holds a place; one that nothing has written holds what stands there. -/
def stripOf (s : State) (l : Loc) : Strip :=
  (kfind s.order.hist (partOf l)).getD { base := (List.range 8).map (fun j => byteAt s (l.inPart j)), vers := [] }

/-- A write has a byte at an offset of its part. -/
def Ver.has (v : Ver) (o : Nat) : Bool := (kfind v.bytes o).isSome

/-- The writes that supply the bytes wanted of a range, newest first. A write may be passed over where no write that stands after it supplies a
byte of its own in the range: an access of one part sees a write whole or not at all (R270). -/
def supply (range : List Nat) (pass : Nat → Ver → Bool) : List Nat → Nat → List Ver → List Ver
  | _, _, [] => []
  | want, i, v :: r =>
    let mine := range.filter v.has
    if mine.all (fun o => !decide (o ∈ want)) then supply range pass want (i + 1) r
    else if mine.all (fun o => decide (o ∈ want)) && pass i v then supply range pass want (i + 1) r
    else v :: supply range pass (want.filter (fun o => !v.has o)) (i + 1) r

/-- The byte at an offset as the newest of some writes leaves it, and whether it is lost. -/
def byteOf (base : List (Byte × Bool)) (vs : List Ver) (o : Nat) : Byte × Bool :=
  match vs.find? (fun v => v.has o) with
  | some v => (kget 0 v.bytes o, v.lost)
  | none => base.getD o (0, false)

/-- Bytes of which each part is read with the writes that are not passed over. -/
def readPassing (s : State) (pass : Ver → Bool) : Loc → List Nat → List (Byte × Bool)
  | _, [] => []
  | l, n :: r =>
    let st := stripOf s l
    let range := (List.range n).map (fun j => offOf l + j)
    let vs := supply range (fun _ v => pass v) range 0 st.vers
    range.map (byteOf st.base vs) ++ readPassing s pass (l.plus n) r

-- agents (R372, R383)

/-- The agent of an engine, matrix or pre-pass command, by its number. -/
def commandAgent (id : Nat) : Nat := 2 ^ 60 + id
/-- The agent of a ray slot of a team. -/
def slotAgent (team slot : Nat) : Nat := 2 ^ 61 + 512 * team + slot
/-- The binning units and the resolvers (R362, R363). -/
def rasterAgent : Nat := 2 ^ 62
/-- The launch unit with the placement engine, the rings and the images; the companion processor; the page walkers; and the drains of a
grid's ordered reductions. -/
def launchAgent : Nat := 2 ^ 62 + 1024
def companionAgent : Nat := 2 ^ 62 + 1026
def walkAgent : Nat := 2 ^ 62 + 1028
def drainAgent (pod : Nat) : Nat := 2 ^ 63 + pod

/-- True for an agent that is a thread. -/
def isThread (a : Nat) : Bool := decide (a < 2 ^ 60)

/-- A unit's read passes over a write that nothing orders before it, for so many cycles; what is made at the home slice it sees (R380,
R383). -/
def lagging (s : State) (a : Nat) (v : Ver) : Bool :=
  !v.atomic && decide (v.agent ≠ a ∧ kget 0 (kget [] s.order.view a) v.agent < v.ev) && decide (s.clock < v.clock + Config.lag a v.ev)

/-- The same of a page walk, which sees what stood when translations were last invalidated (R261). -/
def walkPasses (s : State) (v : Ver) : Bool := decide (s.order.walked < v.ev) && lagging s walkAgent v

/-- A read of n bytes by physical address that passes over some writes (R255, R383, R451). -/
def readPhys (s : State) (pass : Ver → Bool) (pa n : Nat) : Except MFault (List Byte) :=
  if busErr s pa || busErr s (pa + n - 1) then .error .busErr
  else
    let r := readPassing s pass (.phys pa) (pieces (pa % 8) (n + 1) n)
    if r.any (·.2) then .error .eccu else .ok (r.map (·.1))

/-- A read by a page walk, and one by the launch unit. -/
def walkRead (s : State) (pa n : Nat) : Except MFault Nat := (readPhys s (walkPasses s) pa n).map leNat
def launchRead (s : State) (pa n : Nat) : Except MFault Nat := (readPhys s (lagging s launchAgent) pa n).map leNat

/-- LQERR rises by 1, saturating (R111). -/
def countLqerr (s : State) : State := { s with lqerr := if s.lqerr = 0xFFFFFFFF#32 then s.lqerr else s.lqerr + 1 }

/-- What an access needs of a page (R256). -/
inductive Need where
  | r
  | w
  | rw
  | x
  deriving DecidableEq, Repr

/-- A translation: the page's virtual base, size, frame and permissions (R254). -/
structure Page where
  base : Nat
  size : Nat
  frame : Nat
  r : Bool
  w : Bool
  x : Bool
  nc : Bool
  deriving DecidableEq, Repr

/-- R256. -/
def allows (p : Page) : Need → Bool
  | .r => p.r | .w => p.w | .rw => p.r && p.w | .x => p.x

/-- A context-table entry (R252). -/
structure Context where
  root : Nat
  pvbase : Nat
  pvstride : Nat
  cvbase : Nat
  cvsize : Nat
  deriving DecidableEq, Repr

/-- The context of an ASID (R252), as a page walk reads it. -/
def contextOf (s : State) (asid : Nat) : Except MFault Context :=
  match readPhys s (walkPasses s) (s.astab.toNat / 65536 * 65536 + 64 * asid) 64 with
  | .error _ => .error .busErr
  | .ok b =>
    let f (o n : Nat) : Nat := leNat ((b.drop o).take n)
    let root := f 0 8
    if root % 2 = 0 then .error .range
    else if root / 2 ^ 44 ≠ 0 ∨ root % 65536 ≠ 1 ∨ f 0x1C 36 ≠ 0 then .error .range
    else .ok { root := root / 65536 * 65536, pvbase := f 8 8, pvstride := f 0x10 4, cvbase := f 0x14 4, cvsize := f 0x18 4 }

/-- A valid publish-slot descriptor (R293). -/
structure PubSlot where
  addr : Nat
  va : Nat
  size : Nat
  cur : Nat
  w : Bool
  phys0 : Nat
  phys1 : Nat
  gen : Nat
  deriving DecidableEq, Repr

/-- The slots of the slot table (R292). -/
def pubSlots (s : State) : Nat := 64 * 2 ^ (s.pubtab.toNat % 8)

/-- The descriptor of slot n when it is valid for the ASID (R293). -/
def pubSlot (s : State) (asid n : Nat) : Option PubSlot :=
  let a := s.pubtab.toNat / 4096 * 4096 + 64 * n
  if pubSlots s ≤ n then none
  else match walkRead s (a + 0x0E) 1 with
  | .error _ => none
  | .ok fl => if fl % 2 = 0 then none else match readPhys s (walkPasses s) a 64 with
  | .error _ => none
  | .ok b =>
    let f (o n : Nat) : Nat := leNat ((b.drop o).take n)
    let va := f 0 8
    let size := f 8 4
    let p0 := f 0x10 8
    let p1 := f 0x18 8
    if 8 ≤ fl ∨ f 0x0C 2 ≠ asid ∨ va % 65536 ≠ 0 ∨ 2 ^ 52 ≤ va ∨ size % 65536 ≠ 0 ∨ size < 65536 ∨ 2 ^ 31 < size ∨
      f 0x0F 1 ≠ 0 ∨ p0 % 65536 ≠ 0 ∨ p1 % 65536 ≠ 0 ∨ isDevice (p0 + size - 1) = false ∨
      isDevice (p1 + size - 1) = false ∨ f 0x24 28 ≠ 0 then none
    else some { addr := a, va := va, size := size, cur := fl / 2 % 2, w := decide (fl / 4 % 2 = 1), phys0 := p0, phys1 := p1,
                gen := f 0x20 4 }

/-- The visible backing of a slot (R292). -/
def PubSlot.visible (p : PubSlot) : Nat := if p.cur = 0 then p.phys0 else p.phys1
/-- The shadow of a slot (R292). -/
def PubSlot.shadow (p : PubSlot) : Nat := if p.cur = 0 then p.phys1 else p.phys0

/-- The first slot below n whose range holds va (R293). -/
def findPub (s : State) (asid va : Nat) : Nat → Option PubSlot
  | 0 => none
  | n + 1 => match findPub s asid va n with
    | some p => some p
    | none => match pubSlot s asid n with
      | some p => if p.va ≤ va ∧ va < p.va + p.size then some p else none
      | none => none

/-- The page size of a leaf at a level (R253). -/
def levelSize (lvl : Nat) : Nat := if lvl = 0 then 0x10000 else if lvl = 1 then 0x200000 else 0x40000000
/-- The index of va at a level (R253). -/
def levelIndex (va lvl : Nat) : Nat :=
  if lvl = 3 then va / 2 ^ 39 % 8192 else if lvl = 2 then va / 2 ^ 30 % 512 else if lvl = 1 then va / 2 ^ 21 % 512 else va / 2 ^ 16 % 32

/-- The walk of R255 from level n − 1 down, in the table at p. -/
def walk (s : State) (va : Nat) (need : Need) : Nat → Nat → Except MFault Page
  | 0, _ => .error .badPte
  | lvl + 1, p =>
    match walkRead s (p + 8 * levelIndex va lvl) 8 with
    | .error _ => .error .busErr
    | .ok e =>
      if e % 2 = 0 then .error .notPresent
      else if e / 2 % 2 = 1 then
        let pg : Page :=
          { base := va / levelSize lvl * levelSize lvl, size := levelSize lvl, frame := e % 2 ^ 44 / 65536 * 65536,
            r := decide (e / 4 % 2 = 1), w := decide (e / 8 % 2 = 1), x := decide (e / 16 % 2 = 1), nc := decide (e / 32 % 2 = 1) }
        if lvl = 3 ∨ e / 2 ^ 44 ≠ 0 ∨ e / 64 % 1024 ≠ 0 ∨ pg.frame % levelSize lvl ≠ 0 ∨ (pg.w = true ∧ pg.r = false) then .error .badPte
        else if allows pg need = false ∨ 0xC0000000000 ≤ pg.frame then .error .perm
        else .ok pg
      else
        let t := e % 2 ^ 44 / 256 * 256
        if lvl = 0 ∨ e / 2 ^ 44 ≠ 0 ∨ e % 256 ≠ 1 ∨ (2 ≤ lvl ∧ t % 4096 ≠ 0) then .error .badPte
        else walk s va need lvl t

/-- The translation that a valid publish slot gives (R293). -/
def pubPage (p : PubSlot) (need : Need) : Except MFault Page :=
  let pg : Page := { base := p.va, size := p.size, frame := p.visible, r := true, w := p.w, x := false, nc := false }
  if allows pg need then .ok pg else .error .perm

/-- translate (R255), publish slots included (R293). -/
def translate (s : State) (asid va : Nat) (need : Need) : Except MFault Page :=
  if 2 ^ 52 ≤ va then .error .range else
  match findPub s asid va (pubSlots s) with
  | some p => pubPage p need
  | none =>
    match contextOf s asid with
    | .error e => .error e
    | .ok c => walk s va need 4 c.root

/-- The bits of va above the index of a level (R253): the tag of a non-leaf entry that names a table of that level. -/
def levelTag (va lvl : Nat) : Nat := if lvl = 0 then va / 2 ^ 21 else if lvl = 1 then va / 2 ^ 30 else if lvl = 2 then va / 2 ^ 39 else 0

/-- The page of an entry of a TLB. -/
def TlbEnt.page (e : TlbEnt) : Page := { base := e.base, size := e.size, frame := e.frame, r := e.r, w := e.w, x := e.x, nc := e.nc }

/-- The entry of a core's TLB that translates va for an ASID with the permission needed (R258). -/
def tlbHit (c : Core) (asid va : Nat) (need : Need) : Option Page :=
  (c.tlb.find? (fun e => decide (e.asid = asid ∧ e.base ≤ va ∧ va < e.base + e.size) && allows e.page need)).map TlbEnt.page

/-- The non-leaf entry of the lowest level that a core holds for va (R258). -/
def upperHit (c : Core) (asid va : Nat) : Option WalkEnt :=
  ((List.range 4).filterMap (fun lvl => c.upper.find? (fun e => decide (e.asid = asid ∧ e.lvl = lvl ∧ e.tag = levelTag va lvl)))).head?

/-- Translation by a core's TLB, by a publish slot, or by a walk from the lowest table that the core knows (R255, R258, R293). An entry
that does not give the permission needed is passed over. -/
def translateOn (s : State) (core asid va : Nat) (need : Need) : Except MFault Page :=
  if 2 ^ 52 ≤ va then .error .range else
  let c := getCore s core
  match tlbHit c asid va need with
  | some pg => .ok pg
  | none =>
    match findPub s asid va (pubSlots s) with
    | some p => pubPage p need
    | none =>
      match upperHit c asid va with
      | some e => walk s va need (e.lvl + 1) e.table
      | none =>
        match contextOf s asid with
        | .error e => .error e
        | .ok x => walk s va need 4 x.root

/-- The tables that a walk of va from level n − 1 down reads, each with its level (R255). -/
def walkPath (s : State) (va : Nat) : Nat → Nat → List (Nat × Nat)
  | 0, _ => []
  | lvl + 1, p =>
    (lvl, p) ::
      (match walkRead s (p + 8 * levelIndex va lvl) 8 with
      | .error _ => []
      | .ok e => if e % 4 = 1 ∧ lvl ≠ 0 ∧ e / 2 ^ 44 = 0 ∧ e % 256 = 1 then walkPath s va lvl (e % 2 ^ 44 / 256 * 256) else [])

/-- The physical address of va in a page (R255). -/
def Page.pa (p : Page) (va : Nat) : Nat := p.frame + (va - p.base)

/-- The page of a last-page register, where it translates va with the permission needed (R257). -/
def lprHit (l : Option Lpr) (va : Nat) (need : Need) : Option Page :=
  match l with
  | some x =>
    let pg : Page := { base := x.base, size := x.size, frame := x.frame, r := x.r, w := x.w, x := false, nc := x.nc }
    if x.base ≤ va ∧ va < x.base + x.size ∧ allows pg need = true then some pg else none
  | none => none

/-- Translation of a thread's global access through its last-page register (R257). -/
def translateLpr (s : State) (core asid va : Nat) (need : Need) (l : Option Lpr) : Except MFault Page :=
  match lprHit l va need with
  | some pg => .ok pg
  | none => translateOn s core asid va need

/-- The six spaces (R233), in the codes of PSNINFO.SPACE (R242). -/
inductive Space where
  | priv
  | scratch
  | cluster
  | global
  | carve
  | arg
  deriving DecidableEq, Repr

def Space.code : Space → Nat
  | .priv => 0 | .scratch => 1 | .cluster => 2 | .global => 3 | .carve => 4 | .arg => 5

/-- What the checks of R240 find for an address. -/
inductive Found where
  /-- it is valid and translated, with the global page used -/
  | ok (loc : Loc) (page : Option Page)
  /-- it fails the space's bounds -/
  | space
  /-- its translation fails, at a virtual address where there is one -/
  | fault (f : MFault) (va : Option Nat)
  deriving DecidableEq, Repr

/-- The private backing address of byte a of thread k (R235). -/
def privVa (s : State) (c : Context) (k a : Nat) : Nat :=
  c.pvbase + (2048 * (teamOf s k).home + 32 * (groupOf s k).homeSlot + keyLin k % 32) * c.pvstride + a

/-- The window of carve space (R238): its base and size in bytes; empty when it leaves the active carve-out. -/
def carveWindow (s : State) (asid : Nat) : Nat × Nat :=
  match contextOf s asid with
  | .error _ => (0, 0)
  | .ok c => if (c.cvbase + c.cvsize) * 2 ^ 20 ≤ s.marcfgActive * 192 * 2 ^ 20 then (c.cvbase * 2 ^ 20, c.cvsize * 2 ^ 20) else (0, 0)

/-- A translated access, as found. -/
def foundPage (va : Nat) (t : Except MFault Page) : Found :=
  match t with
  | .error f => .fault f (some va)
  | .ok p => .ok (.phys (p.pa va)) (some p)

/-- The pool's base (R407). -/
def poolBase (s : State) : Nat := bits s.pmtpool.toNat 43 16 * 65536

/-- The place of an offset in the scratch of a team of a cluster: that of a team which SAVE holds is in its image (R237, R414; DEDUCED, log
entry 27). -/
def mateScratch (s : State) (m o : Nat) : Option Loc :=
  if (kfind s.teams m).isSome then some (.scratch m o)
  else (s.saved.find? (fun t => decide (t.id = m))).map (fun t =>
    let at_ := poolBase s + t.off
    .phys (at_ + rdMem s (at_ + 0x24) 4 + o))

/-- The space check and translation of R240 for an access of w bytes at a by thread k (R233 to R239). -/
def resolve (s : State) (k : Nat) (sp : Space) (a w : Nat) (need : Need) : Found :=
  let t := teamOf s k
  match sp with
  | .priv =>
    match contextOf s t.asid with
    | .error f => .fault f none
    | .ok c =>
      if min t.desc.priv c.pvstride < a + w then .space
      else
        let va := privVa s c k a
        foundPage va (translateOn s t.home t.asid va need)
  | .scratch => if dataSize t.desc < a + w then .space else .ok (.scratch (keyTeam k) a) none
  | .cluster =>
    let r := bits a 23 20
    let o := a % 2 ^ 20
    match t.mates[r]? with
    | none => .space
    | some m => if 2 ^ 24 ≤ a ∨ t.count ≤ r ∨ dataSize t.desc < o + w then .space
      else (match mateScratch s m o with | some l => .ok l none | none => .space)
  | .global => foundPage a (translateLpr s t.home t.asid a need (getThread s k).lpr)
  | .carve =>
    let cw := carveWindow s t.asid
    if cw.2 < a + w then .space else .ok (.carve (cw.1 + a)) none
  | .arg =>
    if t.desc.argsize < a + w then .space
    else
      let va := teamFrame s t + a
      foundPage va (translateOn s t.home t.asid va need)

/-- The bytes at a place, or why they cannot be read (R240). -/
def readLoc (s : State) (l : Loc) (n : Nat) : Except MFault Nat :=
  match l with
  | .phys pa => physRead s pa n
  | .scratch tm o =>
    let t := getTeam s tm
    if decide (0 < n) && t.badWords.any (fun x => decide (o / 4 ≤ x ∧ x ≤ (o + n - 1) / 4)) then .error .eccu
    else .ok (leAt t.scratch o n)
  | .carve o => if linesBad s.carvePoison o n then .error .eccu else .ok (leAt s.carve o n)

/-- The bytes at a place as they stand, marks aside. -/
def rawLoc (s : State) : Loc → Nat → List Byte
  | .phys pa, n => bytesAt s.mem pa n
  | .scratch tm o, n => bytesAt (getTeam s tm).scratch o n
  | .carve o, n => bytesAt s.carve o n

/-- The state with bytes at offsets of the part that holds a place: a scratch word written whole loses its mark. -/
def setBytes (s : State) (l : Loc) (bs : KMap Byte) : State :=
  match l with
  | .phys pa => { s with mem := bs.foldl (fun m b => kset 0 m (pa / 8 * 8 + b.1) b.2) s.mem }
  | .scratch tm o => modTeam s tm (fun t =>
      { t with scratch := bs.foldl (fun m b => kset 0 m (o / 8 * 8 + b.1) b.2) t.scratch,
               badWords := t.badWords.filter (fun x => !(List.range 4).all (fun j => bs.any (fun b => decide (o / 8 * 8 + b.1 = 4 * x + j)))) })
  | .carve o => { s with carve := bs.foldl (fun m b => kset 0 m (o / 8 * 8 + b.1) b.2) s.carve }

/-- True when the place is a bus error (R251). -/
def locBusErr (s : State) : Loc → Bool
  | .phys pa => busErr s pa | .scratch _ _ => false | .carve _ => false

/-- A translated read in an ASID by the launch unit or a core's walker (R255, R383). -/
def vread (s : State) (asid va n : Nat) : Except MFault Nat :=
  match translate s asid va .r with
  | .error f => .error f
  | .ok p => launchRead s (p.pa va) n

/-- A translated read that may cross pages, byte by byte. -/
def vreadBytes (s : State) (asid : Nat) : Nat → Nat → Except MFault (List Byte)
  | _, 0 => .ok []
  | va, n + 1 =>
    match vread s asid va 1 with
    | .error f => .error f
    | .ok b => match vreadBytes s asid (va + 1) n with
      | .error f => .error f
      | .ok r => .ok (BitVec.ofNat 8 b :: r)

/-- A translated read of what stands, by a unit that goes on to write there in the same step. -/
def vreadNow (s : State) (asid va n : Nat) : Except MFault Nat :=
  match translate s asid va .r with
  | .error f => .error f
  | .ok p => physRead s (p.pa va) n

end Sys2Proof.Machine
end

