-- ==== Sys2Proof/Machine/Order.lean ====
section
/-! DEFINITION. The memory model (R370 to R386): agents and scope instances, the coherence order of each part of storage, what a read may
return and where a write may stand, releases and acquires, fences, and the edges between agents. -/

namespace Sys2Proof.Machine

-- scopes and accesses (R372, R373)

/-- The narrowest scope at which agents a and b lie in each other's instances (R372): 0 .THR, 1 .GRP, 2 .TEAM, 3 .CLU, 4 .DEV, 5 .SYS. -/
def scopeLevel (s : State) (a b : Nat) : Nat :=
  if a = b then 0
  else if a = companionAgent ∨ b = companionAgent then 5
  else if !isThread a || !isThread b then 4
  else if keyGroup a = keyGroup b then 1
  else if keyTeam a = keyTeam b then 2
  else if keyTeam b ∈ (teamOf s a).mates then 3
  else 4

/-- The instance of a scope at thread k, as the narrowest scope that names the same agents, and a number for it (R372, R379). -/
def scopeInstance (s : State) (k scope : Nat) : Nat × Nat :=
  let t := teamOf s k
  let scope := if scope = 3 ∧ t.mates.length ≤ 1 then 2 else scope
  let scope := if scope = 2 ∧ teamThreads t ≤ 32 then 1 else scope
  let scope := if scope = 1 ∧ (launchedOfGroup s (keyGroup k)).length = 1 then 0 else scope
  (scope, if scope = 0 then k else if scope = 1 then keyGroup k else if scope = 2 then keyTeam k
    else if scope = 3 then t.mates.foldl min (keyTeam k) else 0)

/-- How an access takes part in the memory model (R373): a strong access has its scope; acq, rel and rmt say that it is an acquire, a release,
and one with promotion (R381); priv that it goes through private space (R270); merge that it merges a fragment (R361). -/
structure Acc where
  write : Bool
  strong : Bool
  scope : Nat
  acq : Bool
  rel : Bool
  rmt : Bool
  atomic : Bool
  priv : Bool
  merge : Bool
  deriving DecidableEq, Repr

/-- A weak read and a weak write (R373). -/
def Acc.read : Acc := ⟨false, false, 0, false, false, false, false, false, false⟩
def Acc.store : Acc := ⟨true, false, 0, false, false, false, false, false, false⟩

/-- The access of a load by its space, M and SCOPE (R264, R373). -/
def loadAcc (sp : Space) (m scope : Nat) : Acc :=
  { Acc.read with strong := decide (m ≠ 0), scope := scope, acq := decide (2 ≤ m), rmt := decide (m = 3), priv := decide (sp = .priv) }
/-- The access of a store. -/
def storeAcc (sp : Space) (m scope : Nat) : Acc :=
  { Acc.store with strong := decide (m ≠ 0), scope := scope, rel := decide (m = 2), priv := decide (sp = .priv) }
/-- The access of an atomic by its M and SCOPE: 0 .STR, 1 .ACQ, 2 .REL, 3 .AR; scopes .TEAM to .SYS (R275). -/
def atomAcc (m scope : Nat) : Acc :=
  { Acc.store with strong := true, scope := scope + 2, acq := decide (m % 2 = 1), rel := decide (2 ≤ m), atomic := true }

/-- An access at .CLU or wider, or an atomic: performed at the point of coherence, not in the L1 (R374). -/
def Acc.wide (a : Acc) : Bool := a.atomic || (a.strong && decide (3 ≤ a.scope))

-- views (R378)

/-- What two views have together. -/
def joinView (v w : View) : View := w.foldl (fun v e => kput v e.1 (max (kget 0 v e.1) e.2)) v

def viewOf (o : Order) (a : Nat) : View := kget [] o.view a
def setView (o : Order) (a : Nat) (v : View) : Order := { o with view := kset [] o.view a v }
/-- Agent a is ordered after what v holds. -/
def learn (o : Order) (a : Nat) (v : View) : Order := if v = [] then o else setView o a (joinView (viewOf o a) v)

/-- What an edge carries. -/
def syncOf (o : Order) (k : SyncKey) : View := ((o.sync.find? (fun e => decide (e.1 = k))).map (·.2)).getD []
def setSync (o : Order) (k : SyncKey) (v : View) : Order :=
  let rest := o.sync.filter (fun e => decide (e.1 ≠ k))
  { o with sync := if v = [] then rest else (k, v) :: rest }
/-- An edge carries v besides. -/
def addSync (o : Order) (k : SyncKey) (v : View) : Order := if v = [] then o else setSync o k (joinView (syncOf o k) v)

/-- Agent a gives what it is ordered after to an edge, and takes what an edge carries. -/
def giveTo (s : State) (a : Nat) (k : SyncKey) : State := { s with order := addSync s.order k (viewOf s.order a) }
def takeFrom (s : State) (a : Nat) (k : SyncKey) : State := { s with order := learn s.order a (syncOf s.order k) }
/-- An edge carries nothing any more. -/
def forget (s : State) (k : SyncKey) : State := { s with order := setSync s.order k [] }
/-- Agent b takes what agent a is ordered after. -/
def follow (s : State) (b a : Nat) : State := { s with order := learn s.order b (viewOf s.order a) }

/-- A unit reads for agent a. -/
def asAgent (s : State) (a : Nat) : State := { s with order := { s.order with actor := a } }

/-- A call of a ray slot, or a pre-pass command, starts, with what its thread's acquires had ordered it after at its issue: v; and it is ordered
after its own writes (R327, R384). -/
def startCall (s : State) (a : Nat) (v : View) : State :=
  asAgent { s with order := setView s.order a (joinView v [(a, kget 0 (viewOf s.order a) a)]) } a

/-- Agent a's next event: the state after it, in which the agent is ordered after it. -/
def newEvent (s : State) (a : Nat) : State :=
  let n := s.order.next + 1
  { s with order := setView { s.order with next := n } a (kput (viewOf s.order a) a n) }

-- where accesses are performed (R374)

/-- Where an access is performed, as a number for the point (R374): the point of coherence, the carved Marrow, the L1 of the home core, the
system, or the scratch of a team. -/
def pointOf (s : State) (a : Nat) (acc : Acc) : Loc → Nat
  | .phys pa => if !isDevice pa then 512 else if acc.wide || !isThread a then 0 else 2 + (teamOf s a).home
  | .carve _ => 1
  | .scratch tm _ => 1024 + tm

-- what an agent is bound to see

/-- The merges into the tile stores performed at a point, in a view (R364, R384). -/
def mergesAt (point : Nat) : Nat := 2 ^ 64 + point

/-- A version is hb-before what agent a does next (R378); its own accesses through private and global space are ordered by a fence only
(R270), and a merge is by what closed its tile (R364). -/
def knows (o : Order) (a : Nat) (priv : Bool) (v : Ver) : Bool :=
  (if v.agent = a then decide (v.priv = priv ∨ v.ev ≤ kget 0 o.selfFence a) else decide (v.ev ≤ kget 0 (viewOf o a) v.agent)) ||
    (v.merge && decide (v.ev ≤ kget 0 (viewOf o a) (mergesAt v.point)))

/-- The later of two events in a point's order of strong stores. -/
def laterIn (line : List Nat) (m n : Nat) : Nat := if line.idxOf m < line.idxOf n then n else m

/-- What two sights have together: for each point, how far into its order of strong stores. -/
def joinSight (o : Order) (v w : View) : View :=
  w.foldl (fun v e => kput v e.1 (match kfind v e.1 with | none => e.2 | some m => laterIn (kget [] o.line e.1) m e.2)) v

/-- A table of sights in which one takes in v. -/
def addSight (o : Order) (m : KMap View) (key : Nat) (v : View) : KMap View := if v = [] then m else kput m key (joinSight o (kget [] m key) v)

/-- How far into the orders of strong stores agent a has seen before an access to a part, by what R376 places before it: its acquires, its
strong reads of that part, those that the access's address depends on, and for an atomic all of them. -/
def sightOf (o : Order) (clock a : Nat) (acc : Acc) (part : Nat) : View :=
  let v := joinSight o (kget [] o.sight a) (kget [] o.touch (a * 2 ^ 64 + part))
  let v := if o.doing.agent = a ∧ o.doing.clock = clock then joinSight o v o.doing.addr else v
  if acc.atomic then joinSight o v (kget [] o.every a) else v

/-- A strong store that agent a must see: a lies in its instance, and has seen a store that stands no earlier among those performed at the
point (R380). -/
def ordered (s : State) (a : Nat) (acc : Acc) (part : Nat) (v : Ver) : Bool :=
  v.strong && decide (scopeLevel s a v.agent ≤ v.scope) &&
    (match kfind (sightOf s.order s.clock a acc part) v.point with
    | none => false
    | some m => let line := kget [] s.order.line v.point; decide (line.idxOf v.ev ≤ line.idxOf m))

/-- Agent a need not see a version: nothing orders it, and the agent has not read it (R380). -/
def hideable (s : State) (a : Nat) (acc : Acc) (part : Nat) (v : Ver) : Bool :=
  !knows s.order a acc.priv v && !decide (v.ev ∈ kget [] s.order.seen (a * 2 ^ 64 + part)) && !ordered s a acc part v

/-- Two stores of one instruction by threads: bundle order decides each byte, and the loser leaves no trace (R153). -/
def sameStore (s : State) (a : Nat) (acc : Acc) (v : Ver) : Bool :=
  decide (v.clock = s.clock ∧ v.agent ≠ a) && isThread a && isThread v.agent && !v.atomic && !acc.atomic

/-- A write may stand before a version in coherence order (R380): its agent need not see that version, its line is not lost, and where both are
strong and performed at one point, whoever is in the write's instance is in the version's. -/
def mayPrecede (s : State) (a : Nat) (acc : Acc) (l : Loc) (v : Ver) : Bool :=
  hideable s a acc (partOf l) v && !sameStore s a acc v && !(byteAt s l).2 &&
    (!(v.strong && acc.strong && decide (v.point = pointOf s a acc l)) || decide (acc.scope ≤ v.scope ∧ scopeLevel s a v.agent ≤ v.scope))

/-- No atomic among some versions, newest first, would have what it read replaced by a write of these bytes below them all: an atomic reads
what stands right before it (R380). -/
def shielded (offs : List Nat) : List Ver → Bool
  | [] => true
  | v :: r => (!v.atomic || offs.all (fun o => !v.has o || r.any (fun x => x.has o))) && shielded offs r

/-- The versions of a part that have one of some bytes. -/
def overlapping (offs : List Nat) (vs : List Ver) : List Ver := vs.filter (fun v => offs.any v.has)

/-- The places a write of some bytes of a part may take, as how many of the versions that overlap it stand after it; an atomic reads no
lost byte below another write. -/
def depths (s : State) (a : Nat) (acc : Acc) (l : Loc) (offs : List Nat) : List Nat :=
  let vs := overlapping offs (stripOf s l).vers
  0 :: ((List.range vs.length).map (· + 1)).filter (fun c =>
    (vs.take c).all (mayPrecede s a acc l) && shielded offs (vs.take c) &&
      (!acc.atomic || offs.all (fun o => !(byteOf (stripOf s l).base (vs.drop c) o).2)))

/-- A choice among some places: a free value where there is more than one. -/
def choosePlace (s : State) (cs : List Nat) : Nat × State :=
  if cs.length ≤ 1 then (0, s) else (cs.getD (Config.choice s.fresh % cs.length) 0, { s with fresh := s.fresh + 1 })

-- synchronisation (R377, R381)

/-- Agent a, reading by a strong access, meets a release: an acquire synchronises with it where they are mutually in scope, or by
promotion; a fence may do so later. -/
def meetRelease (s : State) (a : Nat) (acc : Acc) (o : Order) (r : Release) : Order :=
  let l := scopeLevel s a r.agent
  let inScope := decide (l ≤ min r.scope acc.scope)
  let promoted := decide (1 ≤ r.scope ∧ r.scope < l ∧ l ≤ acc.scope)
  let o := if inScope then { o with heard := kput o.heard (8 * a + l) (joinView (kget [] o.heard (8 * a + l)) r.view) } else o
  let o := if promoted then { o with heardRmt := kput o.heardRmt (8 * a + l) (joinView (kget [] o.heardRmt (8 * a + l)) r.view) } else o
  if acc.acq && (inScope || (acc.rmt && promoted)) then learn o a r.view else o

/-- Agent a has seen a strong store by a strong read of a part: what that places before its later accesses (R376, R380). -/
def seeStrong (s : State) (a : Nat) (acc : Acc) (part : Nat) (v : Ver) : Order :=
  let o := s.order
  let w : View := [(v.point, v.ev)]
  let o := { o with touch := addSight o o.touch (a * 2 ^ 64 + part) w, every := addSight o o.every a w }
  let o := if acc.acq then { o with sight := addSight o o.sight a w } else o
  if o.doing.agent = a ∧ o.doing.clock = s.clock then { o with dep := o.doing.dests.foldl (fun m d => addSight o m d w) o.dep } else o

/-- What agent a has after reading a version (R377, R380): it never reads an older one again. -/
def meet (s : State) (a : Nat) (acc : Acc) (part : Nat) (v : Ver) : State :=
  let key := a * 2 ^ 64 + part
  let had := kget [] s.order.seen key
  let o := if (knows s.order a true v && knows s.order a false v) || decide (v.ev ∈ had) then s.order
    else { s.order with seen := kput s.order.seen key (v.ev :: had) }
  if !acc.strong then { s with order := o }
  else
    let o := v.rel.foldl (meetRelease s a acc) o
    if v.strong && decide (scopeLevel s a v.agent ≤ min v.scope acc.scope) then { s with order := seeStrong { s with order := o } a acc part v }
    else { s with order := o }

/-- An acquire of agent a: what it is ordered after now is what its ray calls are ordered after (R327, R384). -/
def acquired (s : State) (a : Nat) : State := { s with order := { s.order with acqView := kset [] s.order.acqView a (viewOf s.order a) } }

/-- Agent a has read the versions vs of a part: no strong store that is yet to come to the part stands before what the agent had seen (R380). -/
def meetAll (s : State) (a : Nat) (acc : Acc) (part : Nat) (vs : List Ver) : State :=
  let o := s.order
  let s := { s with order := { o with floor := addSight o o.floor part (sightOf o s.clock a acc part) } }
  vs.foldl (fun s v => meet s a acc part v) s

/-- Agent a reads n bytes of one part, each with whether it is lost (R380): the writes that nothing forbids it to pass over are passed over,
or not, by a free choice. -/
def readPart (s : State) (a : Nat) (acc : Acc) (l : Loc) (n : Nat) : List (Byte × Bool) × State :=
  let st := stripOf s l
  let range := (List.range n).map (fun j => offOf l + j)
  let free := (overlapping range st.vers).any (hideable s a acc (partOf l))
  let vs := supply range (fun i v => hideable s a acc (partOf l) v && (Config.choice s.fresh).testBit i) range 0 st.vers
  (range.map (byteOf st.base vs), meetAll (if free then { s with fresh := s.fresh + 1 } else s) a acc (partOf l) vs)

/-- Reads the pieces of an access one after another (R270). -/
def readPieces (a : Nat) (acc : Acc) : Loc → List Nat → State → List (Byte × Bool) × State
  | _, [], s => ([], s)
  | l, n :: r, s =>
    let x := readPart s a acc l n
    let y := readPieces a acc (l.plus n) r x.2
    (x.1 ++ y.1, y.2)

/-- Agent a reads n bytes at a place, whole, marks aside. -/
def readBytes (s : State) (a : Nat) (l : Loc) (n : Nat) : List Byte × State :=
  let r := readPieces a Acc.read l (pieces (offOf l) (n + 1) n) s
  (r.1.map (·.1), r.2)

/-- True when one of n bytes at a place is a bus error (R251). -/
def spanBusErr (s : State) (l : Loc) (n : Nat) : Bool := locBusErr s l || locBusErr s (l.plus (n - 1))

/-- Agent a reads n bytes at a place, or why they cannot be read (R240, R380). -/
def readAs (s : State) (a : Nat) (acc : Acc) (l : Loc) (n : Nat) : Except MFault (Nat × State) :=
  if spanBusErr s l n then .error .busErr
  else
    let r := readPieces a acc l (pieces (offOf l) (n + 1) n) s
    if r.1.any (·.2) then .error .eccu
    else .ok (leNat (r.1.map (·.1)), if acc.acq then acquired r.2 a else r.2)

/-- The releases that a strong write of agent a carries: its own, and those of its release fences, at the narrower scope (R377). -/
def releasesOf (o : Order) (a : Nat) (acc : Acc) : List Release :=
  if !acc.strong then []
  else
    (if acc.rel then [{ agent := a, scope := acc.scope, view := viewOf o a }] else []) ++
      (List.range 6).filterMap (fun sc => (kfind o.fenced (8 * a + sc)).map (fun v => { agent := a, scope := min sc acc.scope, view := v }))

-- writes

/-- A version takes its place below the c newest that overlap it. -/
def insertVer (x : Ver) (offs : List Nat) : Nat → List Ver → List Ver
  | _, [] => [x]
  | 0, vs => x :: vs
  | c + 1, v :: r => v :: insertVer x offs (if offs.any v.has then c else c + 1) r

/-- A strong store takes its place among those of its point: right before the first of those that stand after it in coherence order; else
anywhere after those that stand before it, and after what readers of its part have seen (R380). -/
def insertLine (o : Order) (x : Ver) (part : Nat) (above below : List Ver) : Order :=
  if !x.strong then o
  else
    let line := kget [] o.line x.point
    let at_ (vs : List Ver) : List Nat := (vs.filter (fun v => v.strong && decide (v.point = x.point))).map (fun v => line.idxOf v.ev)
    let low := (at_ below ++ (match kfind (kget [] o.floor part) x.point with | some m => [line.idxOf m] | none => [])).foldl (fun m i => max m (i + 1)) 0
    let i := match (at_ above).min? with
      | some i => i
      | none => if line.length ≤ low then line.length else low + Config.place x.ev % (line.length - low + 1)
    { o with line := kput o.line x.point (line.take i ++ x.ev :: line.drop i) }

/-- A write of some bytes leaves a lost one lost where its line, or its word of scratch, is not written whole (R243). -/
def staysLost (s : State) (l : Loc) (bs : KMap Byte) : Bool :=
  match l with
  | .phys _ => (byteAt s l).2
  | .carve _ => (byteAt s l).2
  | .scratch _ _ => bs.any (fun b => (byteAt s (l.inPart b.1)).2 && !(List.range 4).all (fun j => bs.any (fun c => decide (c.1 = b.1 / 4 * 4 + j))))

/-- Agent a writes bytes of the part that holds a place, below the c newest versions that overlap them, with the releases inherited besides
(R153, R377, R380). -/
def writePart (s : State) (a : Nat) (acc : Acc) (l : Loc) (bs : KMap Byte) (c : Nat) (inherit_ : List Release) : State :=
  let s := newEvent s a
  let o := s.order
  let st := stripOf s l
  let offs := bs.map (·.1)
  let x : Ver :=
    { ev := o.next, clock := s.clock, agent := a, strong := acc.strong, scope := acc.scope, atomic := acc.atomic, priv := acc.priv, merge := acc.merge,
      point := pointOf s a acc l, lost := staysLost s l bs, rel := releasesOf o a acc ++ inherit_, bytes := bs }
  let near := overlapping offs st.vers
  let o := insertLine o x (partOf l) (near.take c) (near.drop c)
  let old := st.vers.map (fun v => if sameStore s a acc v then { v with bytes := v.bytes.filter (fun b => !x.has b.1) } else v)
  let vs := insertVer x offs c old
  setBytes { s with order := { o with hist := kput o.hist (partOf l) { st with vers := vs } } } l (offs.map (fun i => (i, (byteOf st.base vs i).1)))

/-- The bytes of a piece by their offsets in the part; a store by software leaves out those that the launch unit owns (R103). -/
def pieceBytes (l : Loc) (bs : List Byte) : KMap Byte := (List.range bs.length).map (fun j => (offOf l + j, bs.getD j 0))
def softBytes (s : State) (l : Loc) (bs : List Byte) : KMap Byte :=
  match l with
  | .phys pa => (pieceBytes l bs).filter (fun b => !owned s (pa / 8 * 8 + b.1))
  | .scratch _ _ => pieceBytes l bs
  | .carve _ => pieceBytes l bs

/-- Writes the pieces of an access one after another (R270). -/
def writePieces (a : Nat) (acc : Acc) : Loc → List Nat → List Byte → State → State
  | _, [], _, s => s
  | l, n :: r, bs, s =>
    -- a release follows all that its agent has done, private stores among it (R270, R376)
    let s1 := if acc.rel then { s with order := { s.order with selfFence := kput s.order.selfFence a s.order.next } } else s
    let xs := softBytes s l (bs.take n)
    let c := choosePlace s1 (depths s1 a acc l (xs.map (·.1)))
    writePieces a acc (l.plus n) r (bs.drop n) (if xs = [] then s1 else writePart c.2 a acc l xs c.1 [])

/-- Agent a writes bytes at a place (R374, R380). -/
def writeAs (s : State) (a : Nat) (acc : Acc) (l : Loc) (bs : List Byte) : State :=
  writePieces a acc l (pieces (offOf l) (bs.length + 1) bs.length) bs s

/-- Agent a reads w bytes, of one part, and writes new of them, indivisibly (R276, R380): nothing stands between the two in coherence order. An
operation that writes nothing reads as it would have. -/
def updateAs (s : State) (a : Nat) (acc : Acc) (l : Loc) (w : Nat) (new : Nat → Option Nat) : Nat × State :=
  let s := if acc.rel then { s with order := { s.order with selfFence := kput s.order.selfFence a s.order.next } } else s
  let offs := (List.range w).map (fun j => offOf l + j)
  let c := choosePlace s (depths s a acc l offs)
  let st := stripOf s l
  let vs := supply offs (fun _ _ => false) offs 0 ((overlapping offs st.vers).drop c.1)
  let old := leNat (offs.map (fun o => (byteOf st.base vs o).1))
  let s1 := meetAll c.2 a acc (partOf l) vs
  let s1 := if acc.acq then acquired s1 a else s1
  (old, match new old with
    | none => s1
    | some v => writePart s1 a acc l (softBytes s1 l (leBytes w v)) c.1 (vs.flatMap (·.rel)))

/-- Agent a writes bytes of one part in the newest place, indivisibly with its read of what stands there, whose releases the write passes on
(R361, R377, R385). -/
def mergeAs (s : State) (a : Nat) (acc : Acc) (l : Loc) (bs : List Byte) : State :=
  let xs := softBytes s l bs
  let offs := xs.map (·.1)
  let vs := supply offs (fun _ _ => false) offs 0 (stripOf s l).vers
  writePart (meetAll s a acc (partOf l) vs) a acc l xs 0 (vs.flatMap (·.rel))

/-- The accesses of a merge into a tile store, an atomic at team scope (R361), and of a drain, an atomic write that is neither strong nor
weak (R373, R385). -/
def mergeAcc : Acc := { Acc.store with strong := true, scope := 2, atomic := true, merge := true }
def drainAcc : Acc := { Acc.store with atomic := true }

/-- A unit's write at a place, each piece indivisible with what it was computed from and in the newest place: the launch unit's, an image's, a
ring's (R103, R104). -/
def unitPieces (a : Nat) (acc : Acc) : Loc → List Nat → List Byte → State → State
  | _, [], _, s => s
  | l, n :: r, bs, s => unitPieces a acc (l.plus n) r (bs.drop n) (writePart s a acc l (pieceBytes l (bs.take n)) 0 [])

/-- A unit writes physical memory. -/
def unitWrite (s : State) (a pa : Nat) (bs : List Byte) : State :=
  unitPieces a drainAcc (.phys pa) (pieces (pa % 8) (bs.length + 1) bs.length) bs s

-- lost lines (R243, R380)

/-- The versions of a part that what stands there comes from, and its first bytes, with their marks set to b. -/
def remark (b : Bool) (st : Strip) : Strip :=
  let live := supply (List.range 8) (fun _ _ => false) (List.range 8) 0 st.vers
  { base := (List.range 8).map (fun o => ((st.base.getD o (0, false)).1, if live.any (fun v => v.has o) then (st.base.getD o (0, false)).2 else b)),
    vers := st.vers.map (fun v => if v ∈ live then { v with lost := b } else v) }

/-- The parts of storage whose number m picks have what stands there marked lost, or no longer. -/
def remarkParts (s : State) (m : Nat → Bool) (b : Bool) : State :=
  { s with order := { s.order with hist := s.order.hist.map (fun e => if m e.1 then (e.1, remark b e.2) else e) } }

/-- The parts of a 128-byte line: of physical memory, or of the carved Marrow. -/
def inLine (carved : Bool) (line part : Nat) : Bool := decide (part % 3 = (if carved then 1 else 0) ∧ part / 3 / 16 = line)

/-- A line whose data is lost is marked (R243). -/
def poisonLine (s : State) (carved : Bool) (l : Nat) : State :=
  let add (ls : List Nat) : List Nat := if l ∈ ls then ls else l :: ls
  remarkParts (if carved then { s with carvePoison := add s.carvePoison } else { s with poisonLines := add s.poisonLines }) (inLine carved l) true

/-- The lines of a list lose their marks (R243). -/
def cleanLines (s : State) (carved : Bool) (ls : List Nat) : State :=
  if ls = [] then s
  else
    let del (m : List Nat) : List Nat := m.filter (fun l => !decide (l ∈ ls))
    remarkParts (if carved then { s with carvePoison := del s.carvePoison } else { s with poisonLines := del s.poisonLines })
      (fun p => ls.any (fun l => inLine carved l p)) false

/-- What stands in one half of a part is marked lost, and the writes that it comes from there. -/
def remarkHalf (half : Nat) (st : Strip) : Strip :=
  let offs := (List.range 4).map (fun j => 4 * half + j)
  let live := supply offs (fun _ _ => false) offs 0 st.vers
  { base := (List.range 8).map (fun o => let x := st.base.getD o (0, false); (x.1, x.2 || (decide (o ∈ offs) && !live.any (fun v => v.has o)))),
    vers := st.vers.flatMap (fun v =>
      if v ∈ live then
        { v with bytes := v.bytes.filter (fun b => decide (b.1 ∈ offs)), lost := true } ::
          (if v.bytes.all (fun b => decide (b.1 ∈ offs)) then [] else [{ v with bytes := v.bytes.filter (fun b => !decide (b.1 ∈ offs)) }])
      else [v]) }

/-- A word of a team's scratch whose data is lost is marked (R419). -/
def poisonWord (s : State) (tm word : Nat) : State :=
  let s := modTeam s tm (fun t => if word ∈ t.badWords then t else { t with badWords := word :: t.badWords })
  let part := partOf (.scratch tm (4 * word))
  { s with order := { s.order with hist := s.order.hist.map (fun e => if e.1 = part then (e.1, remarkHalf (word % 2) e.2) else e) } }

-- scratch, as the matrix unit and the launch unit read it

/-- A team's scratch as agent a reads it, each aligned 4-byte half of a part by itself (R308). -/
def scratchFor (s : State) (a tm : Nat) : KMap Byte × State :=
  (s.order.hist.filter (fun e => decide (e.1 % 3 = 2 ∧ e.1 / 3 / 2 ^ 17 = tm))).foldl (fun x e =>
    let o := e.1 / 3 % 2 ^ 17 * 8
    let r := readPart x.2 a Acc.read (.scratch tm o) 4
    let q := readPart r.2 a Acc.read (.scratch tm (o + 4)) 4
    (ksetList 0 x.1 o ((r.1 ++ q.1).map (·.1)), q.2)) ((getTeam s tm).scratch, s)

/-- Thread k reads n bytes of a team's scratch, whole. -/
def scratchRead (s : State) (k tm o n : Nat) : List Byte × State := readBytes s k (.scratch tm o) n

-- fences (R280, R377, R379, R381)

/-- The views of a table of agent a's, by scope, that scope S takes in. -/
def upToScope (m : KMap View) (a scope : Nat) : View :=
  (List.range (scope + 1)).foldl (fun v l => joinView v (kget [] m (8 * a + l))) []

/-- FENCE of thread k: kind 0 .ACQ, 1 .REL, 2 .AR, 3 .ACQ.RMT. -/
def fence (s : State) (k kind scope : Nat) : State :=
  let o := { s.order with selfFence := kput s.order.selfFence k s.order.next }
  let o := if kind = 1 then o else learn o k (upToScope o.heard k scope)
  let o := if kind = 3 then learn o k (upToScope o.heardRmt k scope) else o
  let i := scopeInstance s k scope
  let o := if kind = 2 then
      let o := learn o k (syncOf o (.fence i.1 i.2))
      setSync o (.fence i.1 i.2) (viewOf o k)
    else o
  let o := if kind = 1 ∨ kind = 2 then { o with fenced := kset [] o.fenced (8 * k + scope) (viewOf o k) } else o
  let s := { s with order := o }
  if kind = 1 then s else acquired s k

/-- A release of thread k at a scope that is part of an instruction: what FENCE.REL does (R280, R375). -/
def releaseAt (s : State) (k scope : Nat) : State := fence s k 1 scope

/-- Threads synchronise with one another: each releases, and then acquires what all have released (R215). -/
def syncAll (s : State) (ks : List Nat) : State :=
  let v := ks.foldl (fun v k => joinView v (viewOf s.order k)) []
  ks.foldl (fun s k => acquired { s with order := learn { s.order with selfFence := kput s.order.selfFence k s.order.next } k v } k) s

/-- The agents' own entries of a table by agent are dropped: those of a team that is gone. -/
def dropAgents {α : Type} (team unit : Nat) (m : KMap α) : KMap α := m.filter (fun e => decide (e.1 / unit / 1024 ≠ team))

/-- An edge within a team. -/
def SyncKey.inTeam (team : Nat) : SyncKey → Bool
  | .arrived t _ => decide (t = team)
  | .completed t _ => decide (t = team)
  | .matrix t => decide (t = team)
  | .tile t => decide (t = team)
  | .fence _ _ => false | .slot _ => false | .code _ _ => false | .pod _ => false | .node _ => false

/-- The threads and ray slots of a team that is gone: what they were ordered after goes to the node of their grid, and nothing else of them is
kept, nor of the team's scratch (R105). -/
def retireViews (s : State) (team pod : Nat) : State :=
  let mine (a : Nat) : Bool := (isThread a && decide (keyTeam a = team)) || decide (slotAgent team 0 ≤ a ∧ a < slotAgent (team + 1) 0)
  let o := (s.order.view.filter (fun e => mine e.1)).foldl (fun o e => addSync o (.node pod) e.2) s.order
  { s with order :=
      { o with hist := o.hist.filter (fun e => !decide (e.1 % 3 = 2 ∧ e.1 / 3 / 2 ^ 17 = team)), sync := o.sync.filter (fun e => !e.1.inTeam team),
               view := dropAgents team 1 o.view, acqView := dropAgents team 1 o.acqView, fenced := dropAgents team 8 o.fenced,
               heard := dropAgents team 8 o.heard, heardRmt := dropAgents team 8 o.heardRmt, seen := dropAgents team (2 ^ 64) o.seen,
               line := kdel o.line (1024 + team), floor := o.floor.filter (fun e => !decide (e.1 % 3 = 2 ∧ e.1 / 3 / 2 ^ 17 = team)),
               sight := dropAgents team 1 o.sight, touch := dropAgents team (2 ^ 64) o.touch, every := dropAgents team 1 o.every,
               dep := dropAgents team 256 o.dep, selfFence := dropAgents team 1 o.selfFence } }

end Sys2Proof.Machine
end

