-- ==== Sys2Proof/Machine/Record.lean ====
section
/-! DEFINITION. The position values of a thread (R224, R225), the rings (R262, R423, R432), trace records (R433, R434) and the
replay log (R436, R437). -/

namespace Sys2Proof.Machine

/-- PCT: the most recent EQP's PC in the other encoding (R224). -/
def pctOf (e : Option EqpRef) (f : Form) : Word :=
  match e with
  | none => 0xFFFFFFFF#32
  | some x => match f with | .d => x.lpc | .l => x.dpc

/-- EQN (R225). -/
def eqnOf (e : Option EqpRef) : Word :=
  match e with
  | none => 0
  | some x => wd (2 ^ 31 + (match x.cls with | .d => 0 | .l => 4096) + x.num)

/-- EQOFS: words from the most recent EQP in the current encoding to the PC, signed (R224). -/
def eqofsOf (e : Option EqpRef) (f : Form) (pc : Word) : Word :=
  match e with
  | none => 0
  | some x => (pc - (match f with | .d => x.dpc | .l => x.lpc)).sshiftRight 2

/-- The records a ring holds at most (R262). -/
def ringCap (r : Ring) : Nat := 256 * 2 ^ (r.base.toNat % 16)
/-- The records a ring holds now (R262). -/
def ringUsed (r : Ring) : Nat := (r.head - r.tail).toNat
/-- The address of record i of a ring of records of sz bytes (R262). -/
def ringAt (r : Ring) (sz i : Nat) : Nat := bits r.base.toNat 43 12 * 4096 + sz * (i % ringCap r)
/-- True when one of n further records cannot be written: no room, or no memory there (R262, R451). -/
def ringFull (s : State) (r : Ring) (sz n : Nat) : Bool :=
  decide (ringCap r < ringUsed r + n) ||
    (List.range n).any (fun j => busErr s (ringAt r sz (r.head.toNat + j)))

/-- The ring after n dropped records (R262). -/
def ringDrop (r : Ring) (n : Nat) : Ring := { r with drop := wd (min 0xFFFFFFFF (r.drop.toNat + n)) }

/-- Writes records in a ring, all or none: the state and the ring after (R262, R423, R432). -/
def ringWrite (s : State) (r : Ring) (sz : Nat) (recs : List (List Byte)) : State × Ring :=
  if ringFull s r sz recs.length then (s, ringDrop r recs.length)
  else
    (recs.foldl (fun (a : State × Ring) b => (unitWrite a.1 launchAgent (ringAt a.2 sz a.2.head.toNat) b, { a.2 with head := a.2.head + 1 })) (s, r))

/-- What a trace record says of where it arose (R433). -/
structure TraceAt where
  picker : Nat
  form : Form
  visit : Bool
  home : Nat
  core : Nat
  asid : Nat
  linear : Nat
  group : Nat
  mask : Nat
  pch : Word
  pct : Word
  eqn : Word
  eqofs : Word
  deriving DecidableEq, Repr

/-- True when group g runs on another core than its team's home (R228). -/
def visiting (s : State) (g : Nat) : Bool := decide ((getGroup s g).core ≠ (getTeam s (g / 32)).home)

/-- The place of thread k at pc, with a mask of its group (R433). -/
def traceAtThread (s : State) (k mask : Nat) (pc : Word) : TraceAt :=
  let t := teamOf s k
  let g := groupOf s k
  let f := classOfCore g.core
  let e := (getThread s k).eqp
  { picker := pickerOfSlot f g.slot, form := f, visit := visiting s (keyGroup k), home := t.home, core := g.core, asid := t.asid,
    linear := t.linear, group := keyGroup k % 32, mask := mask, pch := pc, pct := pctOf e f, eqn := eqnOf e, eqofs := eqofsOf e f pc }

/-- The place of a record that no thread caused, for a team (R433). -/
def traceAtTeam (s : State) (id : Nat) : TraceAt :=
  let t := getTeam s id
  { picker := 0, form := classOfCore t.home, visit := false, home := t.home, core := t.home, asid := t.asid, linear := t.linear,
    group := 0xFFFF, mask := 0, pch := 0xFFFFFFFF#32, pct := 0xFFFFFFFF#32, eqn := 0, eqofs := 0 }

/-- A list of bytes of exactly n. -/
def padTo : Nat → List Byte → List Byte
  | 0, _ => []
  | n + 1, [] => 0#8 :: padTo n []
  | n + 1, b :: r => b :: padTo n r

/-- The 64 bytes of a trace record (R433). -/
def traceBytes (clock kind : Nat) (a : TraceAt) (arg : List Byte) : List Byte :=
  leBytes 8 clock ++ leBytes 1 kind ++
  leBytes 1 (a.picker % 4 + (match a.form with | .d => 0 | .l => 4) + 8 * b2n a.visit) ++ leBytes 1 a.home ++ leBytes 1 a.core ++
  leBytes 2 a.asid ++ leBytes 2 a.group ++ leBytes 4 a.linear ++ leBytes 4 a.mask ++
  leBytes 4 a.pch.toNat ++ leBytes 4 a.pct.toNat ++ leBytes 4 a.eqn.toNat ++ leBytes 4 a.eqofs.toNat ++ padTo 24 arg

/-- Writes trace records together (R432). -/
def traceWrite (s : State) (recs : List (List Byte)) : State :=
  let r := ringWrite s s.traceRing 64 recs
  { r.1 with traceRing := r.2 }

/-- Writes one trace record while bit b of RLMODE is set (R431, R434). -/
def trace (s : State) (bit kind : Nat) (a : TraceAt) (arg : List Byte) : State :=
  if s.rlmode.getLsbD bit then traceWrite s [traceBytes s.clock kind a arg] else s

/-- The place of a record that no team caused (R433). -/
def noPlace (asid : Nat) : TraceAt :=
  { picker := 0, form := .d, visit := false, home := 0, core := 0, asid := asid, linear := 0, group := 0xFFFF, mask := 0,
    pch := 0xFFFFFFFF#32, pct := 0xFFFFFFFF#32, eqn := 0, eqofs := 0 }

/-- The KILL record of a grid: its cause, later causes, and its pod's address (R434). -/
def writeKill (s : State) (at_ : TraceAt) (cause later va : Nat) : State :=
  trace s 4 8 at_ (leBytes 1 cause ++ leBytes 1 (min 255 later) ++ List.replicate 6 0#8 ++ leBytes 8 va)

/-- Who caused an interaction (R436). -/
structure LogAt where
  source : Nat
  core : Nat
  asid : Nat
  thread : Nat
  deriving DecidableEq, Repr

/-- LOGEN (R431). -/
def logOn (s : State) : Bool := s.rlmode.getLsbD 31

/-- A killed team that has yet to halt (R427). -/
def Team.dying (t : Team) : Bool := t.killed && decide (t.hold ≠ .retiring ∧ t.hold ≠ .halted)

/-- True while a team of a killed grid has yet to halt (R427). -/
def killing (s : State) : Bool := s.teams.any (fun e => e.2.dying)

/-- True while a pre-emption request or a kill has not yet halted its cores (R427, R437). -/
def halting (s : State) : Bool := (match s.pmt with | some p => !p.halted | none => false) || killing s

/-- True while a core that holds a group of a selected or killed team has not yet halted (R408, R427). -/
def haltingOn (s : State) (core : Nat) : Bool :=
  (getCore s core).halting ||
    (killing s && s.groups.any (fun e => decide (e.2.core = core) && e.2.swapped.isNone && (getTeam s (e.1 / 32)).dying))

/-- True when the producer of n interactions must wait (R437, RLSTALL). -/
def logBlocked (s : State) (n : Nat) : Bool :=
  logOn s && !s.rlmode.getLsbD 30 && !halting s && ringFull s s.logRing 32 (n + b2n s.logLost.isSome)

/-- The 32 bytes of a log record (R436). -/
def logBytes (clock kind : Nat) (a : LogAt) (loc seq lost : Nat) : List Byte :=
  leBytes 8 clock ++ leBytes 1 kind ++ leBytes 1 a.source ++ leBytes 1 a.core ++ leBytes 1 0 ++ leBytes 2 a.asid ++
  leBytes 2 a.thread ++ leBytes 8 loc ++ leBytes 4 seq ++ leBytes 4 lost

/-- Writes the NOTREPLAY record once there is room: the first lost interaction, and how many were lost (R437). -/
def logRecover (s : State) : State :=
  match s.logLost with
  | none => s
  | some l =>
    if ringFull s s.logRing 32 1 then s
    else
      let rec8 := l.first.take 8 ++ [0x7F#8] ++ (l.first.drop 9).take 19 ++ leBytes 4 l.count
      let r := ringWrite s s.logRing 32 [rec8]
      { r.1 with logRing := r.2, logLost := none }

/-- Records an interaction at a location while LOGEN is 1 (R436, R437). -/
def logAct (s : State) (kind : Nat) (a : LogAt) (loc : Nat) : State :=
  if logOn s then
    let n := kget 0 s.logSeq loc
    let s := logRecover { s with logSeq := kset 0 s.logSeq loc ((n + 1) % 2 ^ 32) }
    let b := logBytes s.clock kind a loc n 0
    if ringFull s s.logRing 32 1 || s.logLost.isSome then
      { s with logRing := ringDrop s.logRing 1,
               logLost := some (match s.logLost with | none => ⟨b, 1⟩ | some l => ⟨l.first, l.count + 1⟩) }
    else
      let r := ringWrite s s.logRing 32 [b]
      { r.1 with logRing := r.2 }
  else s

/-- The location of an offset in a team's scratch: the core, and the offset in its scratch (R436). -/
def scratchLoc (t : Team) (off : Nat) : Nat := t.home * 2 ^ 56 + (t.scratchBase + off) % 2 ^ 32

/-- The location of a place in storage (R436). -/
def locKey (s : State) : Loc → Nat
  | .phys pa => pa
  | .scratch tm o => scratchLoc (getTeam s tm) o
  | .carve o => o

/-- The record of an access counter: the region's address, the ASID and the count; the count starts again (R262). -/
def accRecord (s : State) (key : Nat) : State :=
  let r := ringWrite s s.accRing 16 [leBytes 8 (key % 2 ^ 31 * 2 ^ 21) ++ leBytes 2 (key / 2 ^ 31) ++ leBytes 2 0 ++ leBytes 4 (kget 0 s.accCounts key)]
  { r.1 with accRing := r.2, accCounts := kput r.1.accCounts key 0 }

/-- True when a count has reached THRESH (R262). -/
def accDue (s : State) (key : Nat) : Bool :=
  let th := s.accctl.toNat % 65536
  s.accctl.getLsbD 31 && decide (th ≠ 0 ∧ th ≤ kget 0 s.accCounts key)

/-- Counts a translated access into the Loben Link range (R262); a count that has reached THRESH is recorded before it
rises again, and a count displaced from a full cache is lost. -/
def countAccess (s : State) (asid va pa : Nat) : State :=
  if s.accctl.getLsbD 31 && isCompanion pa then
    let key := asid * 2 ^ 31 + va / 2 ^ 21
    let s := if accDue s key then accRecord s key else s
    if (kfind s.accCounts key).isNone ∧ 4096 ≤ s.accCounts.length then
      let d := draw s
      { d.2 with accCounts := kput (kdel s.accCounts (((s.accCounts[Config.choice d.1 % 4096]?).map (·.1)).getD 0)) key 1 }
    else { s with accCounts := kput s.accCounts key (kget 0 s.accCounts key + 1) }
  else s

end Sys2Proof.Machine
end

