-- ==== Sys2Proof/Machine/Cache.lean ====
section
/-! DEFINITION. The caches: what a core's TLB and cache of non-leaf entries hold (R252, R258 to R261), the instruction buffer (R281, R418), the
L1 and the brick store (R244, R245), the Marrow (R246 to R248), and what an access leaves in them (R257, R262, R374, R375). -/

namespace Sys2Proof.Machine

/-- A list without one element, by a free choice where it is full: room for one more of at most cap (log entry 42). -/
def makeRoom {α : Type} (s : State) (cap : Nat) (l : List α) : List α × State :=
  if l.length < cap then (l, s)
  else (l.eraseIdx (Config.choice s.fresh % l.length), { s with fresh := s.fresh + 1 })

-- the Marrow (R246 to R248)

/-- The set of the Marrow that a line belongs to: its slice and its set there. -/
def marrowSet (line : Nat) : Nat := sliceOf line * 2 ^ 40 + Config.marrowSet line

/-- A list without the last element that m picks. -/
def eraseLast {α : Type} (m : α → Bool) (l : List α) : List α := (l.reverse.eraseP m).reverse

/-- A line of class k enters a set of the Marrow of c cacheable ways, the last used first (R248): MIN and MAX by class are those of MCLASS. -/
def marrowFill (mclass : Word) (c line k : Nat) (ls : List MarrowLine) : List MarrowLine :=
  let hold (j : Nat) : Nat := (ls.filter (fun x => decide (x.cls = j))).length
  let min_ (j : Nat) : Nat := bits mclass.toNat (8 * j + 3) (8 * j)
  let max_ := bits mclass.toNat (8 * k + 7) (8 * k + 4)
  let new : MarrowLine := ⟨line, k⟩
  match ls.find? (fun x => decide (x.line = line)) with
  | some x => x :: ls.filter (fun y => decide (y.line ≠ line))
  | none =>
    if ls.length < c then new :: ls
    else if max_ ≠ 0 ∧ max_ < c ∧ max_ ≤ hold k then new :: eraseLast (fun x => decide (x.cls = k)) ls
    else
      let cand (x : MarrowLine) : Bool := decide (x.cls = k ∨ min_ x.cls < hold x.cls)
      if ls.any cand then new :: eraseLast cand ls else ls

/-- An access of class k reaches a line's home slice (R246): lines of device memory are held there, but for pages with NC. -/
def touchMarrow (s : State) (k pa : Nat) (nc : Bool) : State :=
  if nc || !isDevice pa then s
  else { s with marrow := kput s.marrow (marrowSet (pa / 128)) (marrowFill s.mclass (16 - 2 * s.marcfgActive) (pa / 128) k (kget [] s.marrow (marrowSet (pa / 128)))) }

-- translation (R258)

/-- A translation enters a core's TLB, which holds 1,024 (R258); one of the same page gives way to it. -/
def fillTlb (s : State) (core asid : Nat) (p : Page) : State :=
  let rest := (getCore s core).tlb.filter (fun e => !decide (e.asid = asid ∧ e.base = p.base ∧ e.size = p.size))
  let r := makeRoom s 1024 rest
  modCore r.2 core (fun c =>
    { c with tlb := { asid := asid, base := p.base, size := p.size, frame := p.frame, r := p.r, w := p.w, x := p.x, nc := p.nc } :: r.1 })

/-- The tables that a walk of va reads, each with its level: from the root, or from a non-leaf entry held (R255, R258). -/
def walkTables (s : State) (asid va : Nat) (up : Option WalkEnt) : List (Nat × Nat) :=
  match up with
  | some e => walkPath s va (e.lvl + 1) e.table
  | none => (match contextOf s asid with | .ok x => walkPath s va 4 x.root | .error _ => [])

/-- The reads of a walk of va for class k go through their home slices, and count where they lie in the Loben Link range (R255, R262). -/
def walkReads (s : State) (asid k va : Nat) (up : Option WalkEnt) : State :=
  let at_ := (match up with | some _ => [] | none => [s.astab.toNat / 65536 * 65536 + 64 * asid]) ++
    (walkTables s asid va up).map (fun e => e.2 + 8 * levelIndex va e.1)
  at_.foldl (fun s a => touchMarrow (countAccess s asid va a) k a false) s

/-- What a walk by a core leaves: its reads, and the tables it finds, held as non-leaf entries (R258). -/
def noteWalk (s : State) (core asid k va : Nat) : State :=
  let up := upperHit (getCore s core) asid va
  let new : List WalkEnt := (walkTables s asid va up).map (fun e => { asid := asid, lvl := e.1, tag := levelTag va e.1, table := e.2 })
  modCore (walkReads s asid k va up) core (fun c => { c with upper := new.filter (fun e => !decide (e ∈ c.upper)) ++ c.upper })

/-- What a translation by a core that the last-page register did not give leaves: the walk where there was one, and the entry (R258). -/
def noteTranslation (s : State) (core asid k va : Nat) (need : Need) : State :=
  if 2 ^ 52 ≤ va ∨ (tlbHit (getCore s core) asid va need).isSome = true then s
  else
    let s1 := if (findPub s asid va (pubSlots s)).isSome then s else noteWalk s core asid k va
    match translateOn s core asid va need with | .ok p => fillTlb s1 core asid p | .error _ => s1

/-- What a unit's access at va leaves, for class k: the reads of its walk, its count, and the line in the Marrow (R246, R255, R262). -/
def noteUnit (s : State) (asid k va : Nat) (need : Need) : State :=
  if 2 ^ 52 ≤ va then s
  else
    let s1 := if (findPub s asid va (pubSlots s)).isSome then s else walkReads s asid k va none
    match translate s asid va need with
    | .ok p => if busErr s (p.pa va) then s1 else touchMarrow (countAccess s1 asid va (p.pa va)) k (p.pa va) p.nc
    | .error _ => s1

/-- What a unit's reads of the n bytes at va leave, a line at a time. -/
def noteSpan (s : State) (asid k va n : Nat) : State :=
  (List.range ((va + n - 1) / 128 + 1 - va / 128)).foldl (fun s i => noteUnit s asid k (max va (128 * (va / 128 + i))) .r) s

/-- A translated write in an ASID by a unit, as agent a for class k; the error is the fault it met. A poisoned line takes the bytes and stays
poisoned (R243). -/
def vwrite (s : State) (a asid k va : Nat) (acc : Acc) (bs : List Byte) : Except MFault State :=
  match translate s asid va .w with
  | .error f => .error f
  | .ok p => if busErr s (p.pa va) then .error .busErr else .ok (writeAs (noteUnit s asid k va .w) a acc (.phys (p.pa va)) bs)

/-- A unit's read and write of a word, indivisible: the word it goes on from is the newest (R380). -/
def vmerge (s : State) (a asid k va : Nat) (bs : List Byte) : Except MFault State :=
  match translate s asid va .rw with
  | .error f => .error f
  | .ok p => if busErr s (p.pa va) then .error .busErr else .ok (mergeAs (noteUnit s asid k va .rw) a drainAcc (.phys (p.pa va)) bs)

/-- Entry e of an ASID's translations covers va, where one is named (R259, R260). -/
def covered (asid va : Option Nat) (a : Nat) (hit : Nat → Bool) : Bool :=
  (match asid with | some x => decide (a = x) | none => true) && (match va with | some x => hit x | none => true)

/-- The translations and bricks of an ASID that cover va, or all of them, are dropped on every core, and the last-page registers that
hold them are emptied (R245, R257 to R260); the walks that follow read the tables as they stand (R261). -/
def dropTranslations (s : State) (asid va : Option Nat) : State :=
  { s with
    threads := s.threads.map (fun e => match e.2.lpr with
      | none => e
      | some l => if covered asid va (teamOf s e.1).asid (fun x => decide (l.base ≤ x ∧ x < l.base + l.size)) then (e.1, { e.2 with lpr := none }) else e),
    cores := s.cores.map (fun c => (c.1, { c.2 with
      tlb := c.2.tlb.filter (fun e => !covered asid va e.asid (fun x => decide (e.base ≤ x ∧ x < e.base + e.size))),
      upper := c.2.upper.filter (fun e => !covered asid va e.asid (fun x => decide (e.tag = levelTag x e.lvl))),
      bricks := c.2.bricks.filter (fun e => !covered asid va e.asid (fun x => decide (e.page ≤ x ∧ x < e.page + e.pageSize))) })),
    order := { s.order with walked := s.order.next } }

-- the instruction buffer (R281, R418)

/-- The line of code that holds a virtual address, where a core holds it. -/
def codeLine (c : Core) (asid va : Nat) : Option CodeLine := c.ibuf.find? (fun e => decide (e.asid = asid ∧ e.line = va / 128))

/-- Fetch of a line of an ASID's code passes over the stores that no ICINV of the line has been ordered after (R281, R418). -/
def codePasses (s : State) (asid line : Nat) (v : Ver) : Bool :=
  isThread v.agent && decide (max (kget 0 (syncOf s.order (.code asid 0)) v.agent) (kget 0 (syncOf s.order (.code asid (line + 1))) v.agent) < v.ev)

/-- The n bytes of code at an address of a line that a core reads from memory. -/
def codeRead (s : State) (asid line pa n : Nat) : Except MFault (List Byte) := readPhys s (codePasses s asid line) pa n

/-- The 4 bytes of code at a virtual address that a core fetches: its fetch permission is asked each time, and memory is read where
the core does not hold the line (R256, R258, R418). -/
def fetchBytes (s : State) (core asid va : Nat) : Except MFault Nat :=
  match translateOn s core asid va .x with
  | .error e => .error e
  | .ok p => match codeLine (getCore s core) asid va with
    | some l => .ok (leNat ((l.bytes.drop (va % 128)).take 4))
    | none => (codeRead s asid (va / 128) (p.pa va) 4).map leNat

/-- Lines of code of an ASID, the one that holds va or all, are dropped from every instruction buffer (R281). -/
def dropCode (s : State) (asid : Nat) (va : Option Nat) : State :=
  { s with cores := s.cores.map (fun c => (c.1, { c.2 with
      ibuf := c.2.ibuf.filter (fun e => !covered (some asid) va e.asid (fun x => decide (e.line = x / 128))) })) }

/-- A core takes the line of code at a virtual address into its instruction buffer, where it can be read, for class k (R138). -/
def fillCode (s : State) (core asid k va : Nat) : State :=
  if (codeLine (getCore s core) asid va).isSome then s
  else
    let s1 := noteTranslation s core asid k va .x
    match translateOn s core asid va .x with
    | .error _ => s1
    | .ok p =>
      let pa := p.pa (va / 128 * 128)
      match codeRead s asid (va / 128) pa 128 with
      | .error _ => s1
      | .ok bs => modCore (touchMarrow (countAccess s1 asid va pa) k pa p.nc) core (fun c => { c with ibuf := { asid := asid, line := va / 128, bytes := bs } :: c.ibuf })

/-- The Marrow after e eighths are carved: a set keeps the lines last used (R247, log entry 42). -/
def trimMarrow (s : State) : State := { s with marrow := s.marrow.map (fun e => (e.1, e.2.take (16 - 2 * s.marcfgActive))) }

-- the L1 and the brick store (R244, R245)

/-- The bytes of a core's brick store, and the lines its L1 has besides (R244, R245). -/
def brickBytes (c : Core) : Nat := 65536 * c.l1cfg
def l1Lines (c : Core) : Nat := 2048 - 512 * c.l1cfg

/-- The lines and bricks that a core has room for after a change of L1CFG (R245). -/
def displace (c : Core) : Core :=
  { c with l1 := c.l1.take (l1Lines c),
           bricks := (c.bricks.foldl (fun (x : List BrickTag × Nat) b => if x.2 + b.size ≤ brickBytes c then (x.1 ++ [b], x.2 + b.size) else x) ([], 0)).1 }

/-- A core's L1 and brick store hold nothing (R375). -/
def emptyL1 (s : State) (core : Nat) : State := modCore s core (fun c => { c with l1 := [], bricks := [] })

/-- A brick that BRKF or BRICK samples is held in the core's brick store, where it has one (R245). -/
def touchBrick (s : State) (core asid addr size : Nat) : State :=
  let c := getCore s core
  if brickBytes c = 0 ∨ c.bricks.any (fun b => decide (b.asid = asid ∧ b.addr = addr)) = true then s
  else
    let tooBig (l : List BrickTag) : Bool := decide (brickBytes c < l.foldl (fun n b => n + b.size) size)
    let cut (x : List BrickTag × State) : List BrickTag × State := if tooBig x.1 then makeRoom x.2 0 x.1 else x
    match translate s asid addr .r with
    | .error _ => s
    | .ok p =>
      let r := cut (cut (c.bricks, s))
      modCore r.2 core (fun c => { c with bricks := ⟨asid, addr, size, p.pa addr, p.base, p.size⟩ :: r.1 })

/-- A core's L1 and brick store without a line of device memory (R245, R374). -/
def dropLine (c : Core) (line : Nat) : Core :=
  { c with l1 := c.l1.filter (fun x => decide (x ≠ line)),
           bricks := c.bricks.filter (fun b => !decide (b.pa / 128 ≤ line ∧ line ≤ (b.pa + b.size - 1) / 128)) }

/-- What an access to a line of device memory does to the home core's L1, and whether it goes on to the home slice (R244, R374): a wide access
is not served by the L1, and a wide write drops its line there. -/
def touchL1 (s : State) (core line : Nat) (acc : Acc) : State × Bool :=
  let c := getCore s core
  if acc.write then (if acc.wide then modCore s core (fun c => dropLine c line) else s, true)
  else if acc.wide then (s, true)
  else if line ∈ c.l1 then (s, false)
  else
    let r := makeRoom (bump s core 8 1) (l1Lines c) c.l1
    (modCore r.2 core (fun c => { c with l1 := line :: r.1 }), true)

/-- What an access of a core at a physical address leaves in the L1 and in the Marrow, for class k. -/
def touchLine (s : State) (core k pa : Nat) (nc : Bool) (acc : Acc) : State :=
  if nc || !isDevice pa then s
  else
    let r := touchL1 s core (pa / 128) acc
    if r.2 then touchMarrow r.1 k pa nc else r.1

/-- An acquire at .CLU or wider empties the L1 of the thread's home core (R375). -/
def acquireL1 (s : State) (k : Nat) (acc : Acc) : State :=
  if acc.acq && decide (3 ≤ acc.scope) then emptyL1 s (teamOf s k).home else s

-- an access of a thread

/-- What an access needs of its page (R256). -/
def Acc.need (a : Acc) : Need := if a.atomic then .rw else if a.write then .w else .r

/-- What a thread's access leaves behind: the walk and the TLB entry (R258), its count (R262), the L1 and the Marrow (R244, R246), and for
global space the thread's last-page register (R257). -/
def noteAccess (s : State) (k : Nat) (sp : Space) (acc : Acc) (f : Found) : State :=
  let t := teamOf s k
  let lpr (s : State) (p : Option Lpr) : State := if sp = .global then modThread s k (fun t => { t with lpr := p }) else s
  let used (va : Nat) : Bool := decide (sp = .global) && (lprHit (getThread s k).lpr va acc.need).isSome
  match f with
  | .ok (.phys pa) (some p) =>
    let va := p.base + (pa - p.frame)
    let s1 := countAccess (if used va then s else noteTranslation s t.home t.asid (teamClass s t) va acc.need) t.asid va pa
    let s2 := touchLine s1 t.home (teamClass s t) pa p.nc acc
    lpr s2 (some { base := p.base, size := p.size, frame := p.frame, r := p.r, w := p.w, nc := p.nc })
  | .fault _ (some va) => lpr (noteTranslation s t.home t.asid (teamClass s t) va acc.need) none
  | .fault _ none => lpr s none
  | .ok (.phys _) none => s
  | .ok (.scratch _ _) _ => s
  | .ok (.carve _) _ => s
  | .space => s

end Sys2Proof.Machine
end

