-- ==== Sys2Proof/Machine/Ops.lean ====
section
/-! DEFINITION. The named operations over a thread's state: registers and their poison marks (R25, R33, R37, R241), pending results
(R145 to R147), standing at a PC (R41, R144), killing a grid (R426), taking a trap (R398 to R404) and returning from one (R405). -/

namespace Sys2Proof.Machine

/-- Why a thread does not execute an instruction now: it takes a trap (number, cause, and the address and space of a memory
access's fault, R398 to R404), or it waits at issue (R146). -/
inductive Stop where
  | trap (n cause : Nat) (place : Option (Nat × Nat))
  | stall
  deriving DecidableEq, Repr

/-- What an instruction does for one thread. -/
abbrev Act := Except Stop State

namespace Trap

def illop : Nat := 0x01
def illenc : Nat := 0x02
def latch : Nat := 0x03
def runhaz : Nat := 0x04
def poison : Nat := 0x05
def pfault : Nat := 0x06
def align : Nat := 0x07
def space : Nat := 0x08
def barerr : Nat := 0x09
def migerr : Nat := 0x0A
def engerr : Nat := 0x0B
def rayerr : Nat := 0x0C
def eccu : Nat := 0x0D
def debug : Nat := 0x0E

end Trap

/-- A trap without an address. -/
def trapOf {α : Type} (n cause : Nat) : Except Stop α := .error (.trap n cause none)

/-- The POISON trap: its cause is taken from the thread's origin registers at entry (R398). -/
def poisonTrap {α : Type} : Except Stop α := .error (.trap Trap.poison 0 none)

-- registers

/-- The registers a thread reads: as they stood before the co-issue set now issuing, if there is one (R30). -/
def readRegs (t : Thread) : Regs := t.view.getD t.regs

/-- A vector register, temporary or latch of thread k; none where a temporary or latch holds no value (R33, R37). -/
def readVx (s : State) (k code : Nat) : Option RVal :=
  let r := readRegs (getThread s k)
  if code < 64 then some (kget RVal.zero r.v code) else kfind r.x code

/-- Uniform register n of group g. -/
def readUni (s : State) (g n : Nat) : RVal :=
  let x := getGroup s g
  kget RVal.zero (x.uview.getD x.uregs) n

/-- Predicate n of thread k. -/
def readP (s : State) (k n : Nat) : PVal := kget PVal.zero (readRegs (getThread s k)).p n

/-- Writes a vector register, temporary or latch of a thread; code 127 discards (R25). -/
def Regs.write (r : Regs) (code : Nat) (v : RVal) : Regs :=
  if code < 64 then { r with v := kset RVal.zero r.v code v }
  else if code < 80 then { r with x := kput r.x code v }
  else r

/-- Writes predicate n. -/
def Regs.writeP (r : Regs) (n : Nat) (v : PVal) : Regs := { r with p := kset PVal.zero r.p n v }

/-- Writes a vector register, temporary or latch of thread k (R25). -/
def writeReg (s : State) (k code : Nat) (v : RVal) : State := modThread s k (fun t => { t with regs := t.regs.write code v })

/-- Writes predicate n of thread k. -/
def writeP (s : State) (k n : Nat) (v : PVal) : State := modThread s k (fun t => { t with regs := t.regs.writeP n v })

/-- Writes uniform register n of group g. -/
def writeUni (s : State) (g n : Nat) (v : RVal) : State := modGroup s g (fun x => { x with uregs := kset RVal.zero x.uregs n v })

/-- The registers with the values vs written from code on, a predicate where the code names one. -/
def Regs.writeList (r : Regs) : List Nat → List RVal → Regs
  | c :: cs, v :: vs =>
    Regs.writeList (if 112 ≤ c ∧ c < 120 then r.writeP (c - 112) ⟨v.bits.getLsbD 0, v.poison⟩ else r.write c v) cs vs
  | [], _ => r
  | _ :: _, [] => r

/-- Writes the values vs to the registers named. -/
def writeRegs (s : State) (k : Nat) (codes : List Nat) (vs : List RVal) : State :=
  modThread s k (fun t => { t with regs := t.regs.writeList codes vs })

-- pending results

/-- Leaves a LONG result pending (R145): its registers, and its values when the unit has them. Destination 127 leaves nothing. -/
def postResult (s : State) (k : Nat) (dests : List Nat) (value : Option (List RVal)) (kind : PendKind) : State :=
  if dests = [] then s
  else
    let s := modThread s k (fun t =>
      { t with pend := t.pend ++ [{ tag := s.fresh, dests := dests, value := value, awaited := false, kind := kind }] })
    { s with fresh := s.fresh + 1 }

/-- The special-function instruction a pending result belongs to (R197). -/
def Pending.sfuOp (p : Pending) : Option Nat :=
  match p.kind with | .sfu n => some n | .plain => none | .collective => none | .load _ _ _ _ _ => none


/-- Thread k is ordered after what agent a has done, as after an acquire: a result of the agent's has reached it (R338, R357, R384). -/
def resultOf (s : State) (k a : Nat) : State :=
  let v := viewOf s.order a
  let o := learn s.order k v
  { s with order := if v = [] then o else { o with acqView := kput o.acqView k (joinView (kget [] o.acqView k) v) } }

/-- A unit's values for the result of thread k named tag. -/
def fillResult (s : State) (k tag : Nat) (vs : List RVal) : State :=
  if (kfind s.threads k).isNone then s
  else modThread s k (fun t => { t with pend := t.pend.map (fun p => if p.tag = tag then { p with value := some vs } else p) })

/-- Thread t with the pending results that match and whose values are known written to their registers. -/
def Thread.deliver (t : Thread) (m : Pending → Bool) : Thread :=
  { t with
    regs := t.pend.foldl (fun r p => if m p then (match p.value with | some vs => r.writeList p.dests vs | none => r) else r) t.regs,
    pend := t.pend.filter (fun p => !(m p && p.value.isSome)) }

/-- Delivers the matching results of thread k whose values are known (R147). -/
def deliver (s : State) (k : Nat) (m : Pending → Bool) : State := modThread s k (fun t => t.deliver m)

/-- A special-function result of thread k that must follow one of an earlier instruction, still pending for another thread of its group
(R197, R402). -/
def sfuHeld (s : State) (k : Nat) (p : Pending) : Bool :=
  match p.sfuOp with
  | none => false
  | some n => (launchedOfGroup s (keyGroup k)).any (fun j =>
      decide (j ≠ k) && (getThread s j).pend.any (fun q => match q.sfuOp with | some m => decide (m < n) | none => false))

/-- True when a pending result writes one of the registers rs. -/
def Pending.touches (p : Pending) (rs : List Nat) : Bool := p.dests.any (fun d => decide (d ∈ rs))

-- code

/-- The team's image base of a form. -/
def baseOf (s : State) (k : Nat) (f : Form) : Nat := codeBase (teamOf s k).desc f

/-- The word at pc of thread k's code in a form, as the core that runs the thread fetches it (R41, R228). -/
def fetchWord (s : State) (k : Nat) (f : Form) (pc : Word) : Except MFault Word :=
  match fetchBytes s (groupOf s k).core (teamOf s k).asid (baseOf s k f + pc.toNat) with
  | .error e => .error e
  | .ok w => .ok (wd w)

/-- The bundle in progress on a picker. -/
def bundleAt (s : State) (core picker : Nat) : Option Bundle := kfind (getCore s core).bundles picker

/-- Sets or removes the bundle in progress on a picker. -/
def setBundle (s : State) (core picker : Nat) (b : Option Bundle) : State :=
  modCore s core (fun c => { c with bundles := match b with | some x => kput c.bundles picker x | none => kdel c.bundles picker })

/-- The word at pc in a bundle's code; beyond the code it holds, none. -/
def Bundle.wordAt (b : Bundle) (pc : Word) : Option Word := b.code[(pc - b.base).toNat / 4]?

/-- True when RUNH stands at pc in thread k's code (R37). -/
def runhAt (s : State) (k : Nat) (pc : Word) : Bool :=
  match fetchWord s k .d pc with
  | .ok w => decide ((w.extractLsb' 23 8).toNat = 0xE0)
  | .error _ => false

-- standing at a PC

/-- Starts thread k's join wait when nothing else holds it and it stands at its join PC, which is then cleared; a PC at
which it can never become ready is never reached (R144, R180). -/
def startJoin (s : State) (k : Nat) : State :=
  let t := getThread s k
  if t.wait = .none ∧ t.joinPc = some t.pc ∧ (match classOf s k with | .l => true | .d => runhAt s k t.pc) = true then
    setThread s k { t with joinPc := none, wait := .join 0 }
  else s

/-- Thread k at a PC, outside any bundle, run or hold sequence: its temporaries and latches are gone (R33, R37), and its age
is 0 (R139). -/
def arrive (s : State) (k : Nat) (pc : Word) : State :=
  startJoin (modThread s k (fun t =>
    { t with pc := pc, next := none, view := none, seq := none, age := 0, overdue := none, regs := { t.regs with x := [] } })) k

/-- Nothing holds thread k any longer (R138). -/
def wake (s : State) (k : Nat) : State :=
  startJoin (modThread s k (fun t => { t with wait := .none, age := 0, overdue := none })) k

/-- The join PC that a thread waits at, or has yet to reach (R144). -/
def Thread.joinsAt (t : Thread) : Option Word :=
  match t.wait with
  | .join _ => some t.pc
  | .none => t.joinPc | .barw _ _ => t.joinPc | .halted => t.joinPc | .yielded => t.joinPc | .entering => t.joinPc

/-- Thread t stands at the join PC j, or has reached it and gone on (R144). -/
def Thread.reached (t : Thread) (j : Word) : Bool := decide (t.pc = j) || decide (j ∈ t.joined)

/-- Notes of the live threads of group g which of them have reached a join PC that one of them names (R144). -/
def noteReached (s : State) (g : Nat) : State :=
  let live := liveOfGroup s g
  let joins := live.filterMap (fun k => (getThread s k).joinsAt)
  (live.filter (fun k => decide ((getThread s k).pc ∈ joins))).foldl (fun s k => modThread s k (fun t => if t.pc ∈ t.joined then t else { t with joined := t.pc :: t.joined })) s

/-- Ends the join waits of group g whose every other live thread has reached the join PC (R144). -/
def releaseJoins (s : State) (g : Nat) : State :=
  let s := noteReached s g
  let live := liveOfGroup s g
  let ready (k : Nat) : Bool :=
    match (getThread s k).wait with
    | .join _ => live.all (fun j => (getThread s j).reached (getThread s k).pc)
    | .none => false | .barw _ _ => false | .halted => false | .yielded => false | .entering => false
  (live.filter ready).foldl (fun s k => modThread s k (fun t => { t with wait := .none, age := 0, overdue := none })) s

/-- Nothing holds thread k any longer, and the join waits this ends are over (R138, R144). -/
def wakeJoining (s : State) (k : Nat) : State := releaseJoins (wake s k) (keyGroup k)

/-- A thread being entered into its handler is ready once no result of its is left to come (R138, R400). -/
def enteredHandler (s : State) (k : Nat) : State :=
  modThread s k (fun t => if t.wait = .entering ∧ t.pend = [] then { t with wait := .none } else t)

/-- Thread k's wait on object i of team id is over: it is ordered after the releases that the object's completed phases counted (R393). -/
def passBarrier (s : State) (k id i : Nat) : State := acquired (takeFrom s k (.completed id i)) k

/-- Thread k, whose BARW on object i is satisfied, goes on after it (R393, R394). -/
def wakeBarw (i : Nat) (s : State) (k : Nat) : State :=
  let s := passBarrier s k (keyTeam k) i
  let t := getThread s k
  releaseJoins (arrive (modThread s k (fun t => { t with wait := .none })) k (t.next.getD t.pc)) (keyGroup k)

-- killing

/-- Marks a grid killed: the first cause is kept, later ones are counted, its teams are stopped (R426, R427). -/
def markKilled (s : State) (pod cause : Nat) : State :=
  let s := modGrid s pod (fun g =>
    { g with killed := some (match g.killed with | none => (cause, 0) | some (c, n) => (c, n + 1)) })
  { s with teams := s.teams.map (fun e => if e.2.grid = pod then (e.1, { e.2 with killed := true }) else e) }

-- traps

/-- Where a trap arises: the trapping instruction's PC and words, the PC to resume at, and the position in a run or hold
sequence (R400, R403). -/
structure TrapAt where
  pc : Word
  word : Word
  word2 : Word
  resume : Word
  seq : Option Seq
  deriving DecidableEq, Repr

/-- PSNINFO.VALID of a thread (R242). -/
def psnValid (t : Thread) : Bool := t.psninfo.getLsbD 31

/-- The fault record of a trap, TRAPSTAT.INTRAP apart (R403, R404); FADDR of a POISON trap is PSNLO and PSNHI unless the trap names an
address, as PWAIT's does (R119). -/
def faultRecord (s : State) (k n cause : Nat) (place : Option (Nat × Nat)) (a : TrapAt) : List Word :=
  let t := getThread s k
  let g := groupOf s k
  let f := classOfCore g.core
  let isPsn : Bool := decide (n = Trap.poison)
  let cause := if isPsn then (if psnValid t then t.psninfo.toNat % 16 else 0) else cause
  let space := if isPsn then (if psnValid t then t.psninfo.toNat / 16 % 16 else 0xF) else (match place with | some p => p.2 | none => 0xF)
  let inseq := match a.seq with | some q => b2n q.begun | none => 0
  let faddr := match place with | some p => p.1 | none => 0
  [wd (n * 2 ^ 24 + cause * 2 ^ 16 + inseq * 2 ^ 14 + b2n (visiting s (keyGroup k)) * 2 ^ 13 +
      (match f with | .d => 0 | .l => 1) * 2 ^ 12 + space * 2 ^ 8),
   a.pc, pctOf t.eqp f, eqnOf t.eqp, eqofsOf t.eqp f a.pc, a.word, a.word2,
   wd ((teamOf s k).home + g.core * 2 ^ 8 + pickerOfSlot f g.slot * 2 ^ 16),
   (if isPsn ∧ place = none then t.psnlo else wd faddr), (if isPsn ∧ place = none then t.psnhi else wd (faddr / 2 ^ 32)),
   (if isPsn then t.psnpc else 0), (if isPsn then t.psninfo else 0),
   wd (keyLin k), 0, a.resume, 0]

/-- Entries 0 to n − 1 of a table of words that read 0 when unlisted. -/
def wordTable (ws : List Word) : KMap Word := ksetList 0 [] 0 ws

/-- The handler PC of a class (R399). -/
def handlerPc (v : Word) (f : Form) : Word :=
  match f with
  | .l => wd (12 * bits v.toNat 30 16)
  | .d => wd (4 * bits v.toNat 15 0)

/-- A fatal trap: recorded, and the grid is killed (R401, R434). -/
def fatalTrap (s : State) (k : Nat) (r : List Word) (pc : Word) : State :=
  let s :=
    if s.rlmode.getLsbD 4 then
      let r := match r with | w :: ws => (w ||| (if (getThread s k).intrap then 0x8000#32 else 0)) :: ws | [] => []
      traceWrite s [traceBytes s.clock 7 (traceAtThread s k (2 ^ (keyLin k % 32)) pc) [], r.flatMap (fun w => leBytes 4 w.toNat)]
    else s
  markKilled s (teamOf s k).grid 1

/-- Thread k takes trap n (R400, R401). A collective's results are in its registers before they are saved (R205); TRAP resumes after its
run or sequence, and has no position in it. -/
def enterTrap (s : State) (k n cause : Nat) (place : Option (Nat × Nat)) (a : TrapAt) : State :=
  let t := (getThread s k).deliver (fun p => decide (p.kind = .collective))
  let tm := teamOf s k
  let f := classOf s k
  let r := faultRecord s k n cause place a
  let seq := if n = Trap.debug then none else a.seq
  if tm.trapvec.getLsbD 31 = false ∨ t.intrap = true ∨ tm.killed = true then
    fatalTrap (setThread s k { t with pc := a.resume, view := none, next := none, seq := seq }) k r a.pc
  else
    let hold := haltingOn s (groupOf s k).core
    let t1 : Thread := if hold then t else t.deliver (fun p => !sfuHeld s k p)
    setThread s k
      { t1 with
        frec := wordTable r, rpcWritten := false,
        saved := some { fpctl := t.fpctl, csp := t.csp, p := t.regs.p, x := if seq.isSome then t.regs.x else [], seq := seq, eqp := t.eqp },
        intrap := true, fpctl := 0, joinPc := none, age := 0, overdue := none,
        wait := if t1.pend = [] then .none else .entering,
        view := none, next := none, seq := none,
        regs := { t1.regs with x := [] },
        pc := handlerPc tm.trapvec f }

/-- Thread k, in its handler, returns (R405); a TRRPC that the handler wrote is a branch target (R42). -/
def returnTrap (s : State) (k : Nat) : Act :=
  let t := getThread s k
  let pc := kget 0 t.frec 14
  match t.saved with
  | none => trapOf Trap.illop 0
  | some v =>
    if t.rpcWritten = true ∧ pc.toNat % 4 ≠ 0 then trapOf Trap.align 0
    else
      let s := arrive (setThread s k { t with fpctl := v.fpctl, csp := v.csp, regs := { t.regs with p := v.p }, intrap := false,
                                              saved := none, eqp := v.eqp }) k pc
      if t.rpcWritten then .ok s
      else .ok (modThread s k (fun t => { t with regs := { t.regs with x := v.x }, seq := v.seq }))

-- memory accesses of a thread

/-- FPCTL of a thread as the formats read it: F32 and F16 input and output flushing (R60, R61). -/
def fpBit (c : Word) (n : Nat) : Bool := c.getLsbD n

/-- Records a poisoning load in the thread's origin registers (R242); at is the address and space, if it has one. -/
def notePoison (s : State) (k pc : Nat) (at_ : Nat × Space) (cause : Nat) : State :=
  let f := classOf s k
  let s := bump s (groupOf s k).core 10 1
  modThread s k (fun t =>
    if psnValid t then
      { t with psninfo := wd (t.psninfo.toNat - bits t.psninfo.toNat 23 16 * 65536 + min 255 (bits t.psninfo.toNat 23 16 + 1) * 65536) }
    else
      { t with psnlo := wd at_.1, psnhi := wd (at_.1 / 2 ^ 32), psnpc := wd pc,
               psninfo := wd (2 ^ 31 + 65536 + (match f with | .d => 0 | .l => 256) + at_.2.code * 16 + cause) })

/-- A poisoned register (R241). -/
def RVal.bad : RVal := ⟨0x7FC00001#32, true⟩

end Sys2Proof.Machine
end

