-- ==== Sys2Proof/Machine/Operands.lean ====
section
/-! DEFINITION. Operands: how an instruction reads the codes of its fields, by the operand's type (R25 to R28, R47, R155), and
how it writes its destinations. -/

namespace Sys2Proof.Machine

/-- What an instruction is executed with: the thread, the form, the instruction's PC and its fields. -/
structure Ctx where
  k : Nat
  form : Form
  pc : Word
  raw : Raw
  deriving DecidableEq, Repr

/-- A 64-bit value and its mark; an interval is one too, lo in the low word (R28). -/
structure DVal where
  bits : DWord
  poison : Bool
  deriving DecidableEq, Repr

/-- The type an operand is read by, where a constant or a literal depends on it (R26, R27). -/
inductive Ty where
  | int
  | f32
  | half2
  | s64
  | n64
  | interval
  deriving DecidableEq, Repr

/-- The type of a value operand by TY (R154). -/
def tyOf (m : Nat) : Ty := if m = 2 then .s64 else if m = 3 then .n64 else .int

/-- The typed constants 112 to 119 of 32-bit integers (R26). -/
def constInt (c : Nat) : Word :=
  match c with
  | 112 => 0 | 113 => 1 | 114 => 0xFFFFFFFF#32 | 115 => 2 | 116 => 0x7FFFFFFF#32 | 117 => 0x80000000#32 | 118 => 0xFFFFFFFF#32
  | _ => 31

/-- The typed constants of F32 (R26). -/
def constF32 (c : Nat) : Word :=
  match c with
  | 112 => 0 | 113 => 0x3F800000#32 | 114 => 0xBF800000#32 | 115 => 0x40000000#32 | 116 => 0x3F000000#32
  | 117 => 0x7F800000#32 | 118 => 0x7FC00000#32 | _ => 0x40490FDB#32

/-- The typed constants of a packed F16 pair (R26). -/
def constHalf2 (c : Nat) : Word :=
  match c with
  | 112 => 0 | 113 => 0x3C003C00#32 | 114 => 0xBC00BC00#32 | 115 => 0x40004000#32 | 116 => 0x38003800#32
  | 117 => 0x7C007C00#32 | 118 => 0x7E007E00#32 | _ => 0x42484248#32

/-- The typed constants of 64-bit integers (R26). -/
def constInt64 (c : Nat) : DWord :=
  match c with
  | 112 => 0 | 113 => 1 | 114 => 0xFFFFFFFFFFFFFFFF#64 | 115 => 2 | 116 => 0x7FFFFFFFFFFFFFFF#64 | 117 => 0x8000000000000000#64
  | 118 => 0xFFFFFFFFFFFFFFFF#64 | _ => 63

/-- The identity values 120 to 126 of thread k (R26). -/
def identity (s : State) (k c : Nat) : Nat :=
  let t := teamOf s k
  match c with
  | 120 => keyLin k % 32
  | 121 => keyLin k / 32
  | 122 => keyLin k
  | 123 => t.index.1
  | 124 => t.index.2.1
  | 125 => t.index.2.2
  | _ => t.home

/-- A typed constant of one word. -/
def constWord (ty : Ty) (c : Nat) : Word :=
  match ty with
  | .f32 => constF32 c
  | .half2 => constHalf2 c
  | .int => constInt c
  | .s64 => (constInt64 c).lo
  | .n64 => (constInt64 c).lo
  | .interval => constF32 c

/-- A typed constant of a pair (R26). -/
def constPair (ty : Ty) (c : Nat) : DWord :=
  match ty with
  | .interval => if c = 119 then Word.pair 0x40490FDA#32 0x40490FDB#32 else Word.pair (constF32 c) (constF32 c)
  | .s64 => constInt64 c
  | .n64 => constInt64 c
  | .int => constInt64 c
  | .f32 => constInt64 c
  | .half2 => constInt64 c

/-- A literal read as a pair (R27). -/
def litPair (ty : Ty) (l : Word) : DWord :=
  match ty with
  | .s64 => l.signExtend 64
  | .interval => Word.pair l l
  | .n64 => l.setWidth 64
  | .int => l.setWidth 64
  | .f32 => l.setWidth 64
  | .half2 => l.setWidth 64

/-- A vector register, temporary, latch or uniform register; a latch that is not valid traps LATCH (R33), a temporary that
holds no value ILLENC (R37). -/
def readCode (s : State) (c : Ctx) (code : Nat) : Except Stop RVal :=
  if code < 80 then
    match readVx s c.k code with
    | some v => .ok v
    | none => match c.form with | .l => trapOf Trap.latch 0 | .d => trapOf Trap.illenc 0
  else .ok (readUni s (keyGroup c.k) (code - 80))

/-- A 32-bit source (R25). -/
def src (s : State) (c : Ctx) (ty : Ty) (code : Nat) : Except Stop RVal :=
  if code < 112 then readCode s c code
  else if code < 120 then .ok ⟨constWord ty code, false⟩
  else if code < 127 then .ok ⟨wd (identity s c.k code), false⟩
  else .ok ⟨c.raw.lit.getD 0, false⟩

/-- A 64-bit or interval source (R25, R28). DESIGN CHOICE (log entry 56): an identity code read as an interval is zero-extended too, so lo
holds the value and hi is 0; R26 speaks of 64-bit operands only. -/
def srcD (s : State) (c : Ctx) (ty : Ty) (code : Nat) : Except Stop DVal :=
  if code < 112 then
    match readCode s c code, readCode s c (code + 1) with
    | .ok lo, .ok hi => .ok ⟨Word.pair lo.bits hi.bits, lo.poison || hi.poison⟩
    | .error e, _ => .error e
    | _, .error e => .error e
  else if code < 120 then .ok ⟨constPair ty code, false⟩
  else if code < 127 then .ok ⟨(wd (identity s c.k code)).setWidth 64, false⟩
  else .ok ⟨litPair ty (c.raw.lit.getD 0), false⟩

/-- A value operand of width 32 or 64 by TY, in 64 bits: a 32-bit value is zero-extended (R154). -/
def srcV (s : State) (c : Ctx) (m code : Nat) : Except Stop DVal :=
  if 2 ≤ m then srcD s c (tyOf m) code
  else match src s c .int code with
    | .ok v => .ok ⟨v.bits.setWidth 64, v.poison⟩
    | .error e => .error e

/-- A predicate source, codes 112 to 119 (R155). -/
def srcP (s : State) (c : Ctx) (code : Nat) : PVal := readP s c.k (code - 112)

/-- n registers from code on (R266, R322). -/
def srcN (s : State) (c : Ctx) (code : Nat) : Nat → Except Stop (List RVal)
  | 0 => .ok []
  | n + 1 =>
    match readCode s c code with
    | .error e => .error e
    | .ok v => match srcN s c (code + 1) n with
      | .error e => .error e
      | .ok r => .ok (v :: r)

/-- True when one of the registers read is poisoned. -/
def anyBad (vs : List RVal) : Bool := vs.any (·.poison)

/-- Writes a 32-bit destination (R25). -/
def dst (s : State) (c : Ctx) (v : RVal) : State := writeReg s c.k c.raw.d v

/-- Writes a pair destination: both words carry the mark (R28, R157). -/
def dstD (s : State) (c : Ctx) (v : DVal) : State :=
  if c.raw.d = 127 then s
  else writeReg (writeReg s c.k c.raw.d ⟨v.bits.lo, v.poison⟩) c.k (c.raw.d + 1) ⟨v.bits.hi, v.poison⟩

/-- Writes a destination of the width TY gives (R154). -/
def dstV (s : State) (c : Ctx) (m : Nat) (v : DVal) : State :=
  if 2 ≤ m then dstD s c v else dst s c ⟨v.bits.lo, v.poison⟩

/-- Writes a predicate destination, codes 112 to 119. -/
def dstP (s : State) (c : Ctx) (v : PVal) : State := writeP s c.k (c.raw.d - 112) v

/-- The destination registers of n words, none for code 127. -/
def dests (c : Ctx) (n : Nat) : List Nat := if c.raw.d = 127 then [] else (List.range n).map (fun j => c.raw.d + j)

-- uniform-pipe operands (R47)

/-- Uniform register n of the issuing thread's group. -/
def uni (s : State) (c : Ctx) (n : Nat) : RVal := readUni s (keyGroup c.k) n

/-- A uniform pair. -/
def uniD (s : State) (c : Ctx) (n : Nat) : DVal :=
  let lo := uni s c n
  let hi := uni s c (n + 1)
  ⟨Word.pair lo.bits hi.bits, lo.poison || hi.poison⟩

/-- A uniform value operand by TY. -/
def uniV (s : State) (c : Ctx) (m n : Nat) : DVal :=
  if 2 ≤ m then uniD s c n else ⟨(uni s c n).bits.setWidth 64, (uni s c n).poison⟩

/-- B of a uniform-pipe form as a value operand by TY, or the literal that replaces it (R47). -/
def uniB (s : State) (c : Ctx) (m : Nat) : DVal :=
  if c.raw.e % 2 = 1 then
    ⟨if 2 ≤ m then litPair (tyOf m) (c.raw.lit.getD 0) else (c.raw.lit.getD 0).setWidth 64, false⟩
  else uniV s c m c.raw.b

/-- Writes a uniform destination by TY. -/
def dstUniV (s : State) (c : Ctx) (m : Nat) (v : DVal) : State :=
  let g := keyGroup c.k
  if 2 ≤ m then writeUni (writeUni s g c.raw.d ⟨v.bits.lo, v.poison⟩) g (c.raw.d + 1) ⟨v.bits.hi, v.poison⟩
  else writeUni s g c.raw.d ⟨v.bits.lo, v.poison⟩

end Sys2Proof.Machine
end

