-- ==== Sys2Proof/Machine/Frame.lean ====
section
/-! DEFINITION. Packets and runs: the checks made when one is entered (R29 to R39, R43, R44, R49, R203, R392), how a bundle's
threads execute an instruction (R145 to R150, R158), and how the bundle goes on or is dissolved (R32, R38, R41, R142, R143). -/

namespace Sys2Proof.Machine

/-- OP of an instruction. -/
def instrOp (i : Instr) : Nat := (rawOf i).op

/-- A matrix or ray instruction (R48). -/
def needsDHome (i : Instr) : Bool := decide (instrOp i = 0xF4 ∨ instrOp i = 0xF5)

/-- BARW with M = 0, which ends its packet or run (R392). -/
def isBarw (i : Instr) : Bool := match i with | .barw _ => true | _ => false
def isEqp (i : Instr) : Bool := match i with | .eqp _ => true | _ => false
def isPad (i : Instr) : Bool := match i with | .pad _ => true | _ => false

/-- A word that breaks a rule: its place in words from the start, and the trap (R49, R50). -/
abbrev Breach := Option (Nat × Nat)

/-- K of an instruction. -/
def instrK (i : Instr) : Bool := (rawOf i).k

/-- The word count of a decoded instruction. -/
def lenOf (i : Instr) : Nat := wordCount i

/-- The fate of a word whose instruction does not fit where it stands: ILLOP for a matrix or ray word of a team homed on an L-core,
else ILLENC (R48 to R50). -/
def shortFate (lhome : Bool) (ws : List Word) : Nat :=
  match ws with
  | w :: _ => if lhome && decide (opOf w = 0xF4 ∨ opOf w = 0xF5) then Trap.illop else Trap.illenc
  | [] => Trap.illenc

-- L-form (R29 to R34)

/-- The fate of the instruction itself at a slot of an L-form packet: ILLOP, or ILLENC (R49, R50). -/
def fateL (lhome held : Bool) (packet slot : Nat) (i : Instr) : Option Nat :=
  let last := decide (slot + lenOf i = 3)
  if lhome && needsDHome i then some Trap.illop
  else if !legal .l i then some Trap.illenc
  else if (isControl i || isBarw i) && (!last || instrK i) then some Trap.illenc
  else if isEqp i && (decide (slot ≠ 0) || instrK i || held) then some Trap.illenc
  else if isCollective i && (decide (slot ≠ 0) || held) then some Trap.illenc
  else if last && instrK i && decide (7 ≤ packet) then some Trap.illenc
  else none

/-- Checks the instructions of a packet from a slot on; set holds the pipes and destinations of the co-issue set that the
instruction before is chained into (R30). -/
def checkL (lhome held : Bool) (packet : Nat) : Nat → Nat → List (Pipe × List Nat) → List Word → Breach
  | 0, _, _, _ => none
  | fuel + 1, slot, set, ws =>
    if 3 ≤ slot then none
    else
      match decodeWords (ws.take (3 - slot)) with
      | .error (.illop _ _) => some (slot, Trap.illop)
      | .error .short => some (slot, shortFate lhome ws)
      | .ok (i, _) =>
        match fateL lhome held packet slot i with
        | some n => some (slot, n)
        | none =>
          if isPad i then checkL lhome held packet fuel (slot + 1) (if instrK i then set else []) (ws.drop 1)
          else
            let me := (pipe i, regWrites i)
            if set.any (fun m => decide (m.1 = me.1) || m.2.any (fun r => decide (r ∈ me.2))) then some (slot, Trap.illenc)
            else
              checkL lhome held packet fuel (slot + lenOf i)
                (if instrK i && decide (slot + lenOf i < 3) then me :: set else []) (ws.drop (lenOf i))

/-- True when the instruction at the head of ws, at a slot, is chained to a later one of its packet (R30). -/
def chained : Nat → Nat → List Word → Bool
  | 0, _, _ => false
  | fuel + 1, slot, ws =>
    match decodeWords (ws.take (3 - slot)) with
    | .error _ => false
    | .ok (i, _) =>
      if !instrK i || decide (3 ≤ slot + lenOf i) then false
      else
        match decodeWords ((ws.drop (lenOf i)).take (3 - (slot + lenOf i))) with
        | .error _ => false
        | .ok (j, _) => if isPad j then chained fuel (slot + lenOf i) (ws.drop (lenOf i)) else true

/-- The PCs and instructions of the co-issue set that begins at a slot (R30). -/
def setMembers : Nat → Nat → List Word → List (Nat × Instr)
  | 0, _, _ => []
  | fuel + 1, slot, ws =>
    match decodeWords (ws.take (3 - slot)) with
    | .error _ => []
    | .ok (i, _) =>
      let rest := if chained 3 slot ws then setMembers fuel (slot + lenOf i) (ws.drop (lenOf i)) else []
      if isPad i then rest else (slot, i) :: rest

-- D-form (R34, R37 to R39, R44)

/-- Temporaries named by an instruction whose XMASK bit is clear (R37). -/
def maskOk (xmask : Nat) (rs : List Nat) : Bool :=
  rs.all (fun r => !(decide (64 ≤ r ∧ r < 80)) || decide (xmask / 2 ^ (r - 64) % 2 = 1))

/-- The fate of one body instruction of a run: first says whether it stands first, last whether it ends the body, held the
temporaries that hold a value, long the destinations of the LONG instructions before it (R34, R37, R39, R44, R203, R392). -/
def fateD (lhome first last : Bool) (xmask : Nat) (held long : List Nat) (i : Instr) : Option Nat :=
  if lhome && needsDHome i then some Trap.illop
  else if !legal .d i then some Trap.illenc
  else if decide (latency i = .frame) then some Trap.illenc
  else if (isControl i || isBarw i) && !last then some Trap.illenc
  else if (isEqp i || isCollective i) && !first then some Trap.illenc
  else if !maskOk xmask (regReads i ++ regWrites i) then some Trap.illenc
  else if (regReads i).any (fun r => decide (64 ≤ r ∧ r < 80 ∧ ¬ r ∈ held)) then some Trap.illenc
  else if (regReads i ++ regWrites i).any (fun r => decide (r ∈ long)) then some Trap.illenc
  else none

/-- Checks the body of a run, ws, from word pos on, then its trailer. -/
def checkD (lhome : Bool) (xmask : Nat) : Nat → Nat → Bool → List Nat → List Nat → List Word → Breach
  | 0, _, _, _, _, _ => none
  | fuel + 1, pos, first, held, long, ws =>
    match ws with
    | [] => some (pos, Trap.illenc)
    | [t] =>
      match decodeWords [t] with
      | .ok (.runt w, _) => if legal .d (.runt w) then none else some (pos, Trap.illenc)
      | .error (.illop _ _) => some (pos, Trap.illop)
      | .error .short => some (pos, shortFate lhome ws)
      | .ok _ => some (pos, Trap.illenc)
    | _ =>
      let body := ws.dropLast
      match decodeWords body with
      | .error (.illop _ _) => some (pos, Trap.illop)
      | .error .short => some (pos, shortFate lhome ws)
      | .ok (i, _) =>
        match fateD lhome first (decide (body.length = lenOf i)) xmask held long i with
        | some n => some (pos, n)
        | none =>
          checkD lhome xmask fuel (pos + lenOf i) false ((regWrites i).filter (fun r => decide (64 ≤ r ∧ r < 80)) ++ held)
            (if latency i = .long then regWrites i ++ long else long) (ws.drop (lenOf i))

-- bundles

/-- True when the threads' team is homed on an L-core (R48). -/
def lHome (s : State) (k : Nat) : Bool := match classOfCore (teamOf s k).home with | .l => true | .d => false

/-- The slot of a PC in its packet (R41). -/
def slotOf (pc : Word) : Nat := pc.toNat % 12 / 4

/-- The packet after the one that holds pc (R41). -/
def nextPacket (pc : Word) : Word := wd ((pc.toNat / 12 + 1) * 12)

/-- The fall-through of a bundle's packet or run (R41); a bundle's code ends with its packet, or with its RUNT. -/
def fallThrough (b : Bundle) : Word :=
  match b.form with
  | .l => nextPacket b.pc
  | .d => b.base + wd (4 * b.code.length)

/-- The words of a bundle's code from pc on. -/
def codeFrom (b : Bundle) (pc : Word) : List Word := b.code.drop ((pc - b.base).toNat / 4)

/-- The second word of the instruction at the head of ws, or its literal, or 0 (R403). -/
def secondWord (ws : List Word) : Word :=
  match decodeWords ws with
  | .ok (i, _) => if 2 ≤ lenOf i then (ws[1]?).getD 0 else 0
  | .error (.illop op _) => if 0xF0 ≤ op then (ws[1]?).getD 0 else 0
  | .error .short => 0

/-- The second word of the instruction at pc, or its literal, or 0 (R403). -/
def word2At (b : Bundle) (pc : Word) : Word := secondWord (codeFrom b pc)

/-- The position in a run or hold sequence that thread t, leaving bundle b at pc, keeps (R43): none where entering at pc comes to the same, at a
RUNH or before anything of the sequence has executed; the one it came with, where nothing has executed since it entered. -/
def seqAt (b : Bundle) (pc : Word) (t : Thread) : Option Seq :=
  match b.form with
  | .d => if pc = b.seq.head then none else some b.seq
  | .l => if b.set.getD b.pc = t.pc then t.seq else if b.seq.begun then some b.seq else none

/-- Where the instruction at pc traps, and where to resume (R400). -/
def trapAt (b : Bundle) (pc resume : Word) (seq : Option Seq) : TrapAt :=
  { pc := pc, word := (b.wordAt pc).getD 0, word2 := word2At b pc, resume := resume, seq := seq }

/-- Ends the view of group g's uniform registers. -/
def endUview (s : State) (g : Nat) : State := if (kfind s.groups g).isSome then modGroup s g (fun x => { x with uview := none }) else s

/-- Thread k no longer belongs to the bundle at (core, picker). -/
def leave (s : State) (core picker k : Nat) : State :=
  match bundleAt s core picker with
  | none => s
  | some b =>
    let ts := b.threads.filter (fun j => decide (j ≠ k))
    let s := if ts.any (fun j => decide (keyGroup j = keyGroup k)) then s else endUview s (keyGroup k)
    if ts = [] then setBundle s core picker none
    else setBundle s core picker (some { b with threads := ts, rest := b.rest.map (fun l => l.filter (fun j => decide (j ≠ k))) })

/-- Every thread of the bundle takes an encoding trap at pc; the bundle ends (R150). -/
def trapAll (s : State) (core picker : Nat) (b : Bundle) (pc : Word) (n : Nat) : State :=
  let s := b.threads.foldl (fun s k => enterTrap s k n 0 none (trapAt b pc pc (seqAt b pc (getThread s k)))) s
  b.threads.foldl (fun s k => leave s core picker k) s

/-- The run or hold sequence of the bundle is over: each thread goes to its own next PC (R143, R173), and the bundle ends. -/
def dissolve (s : State) (core picker : Nat) (b : Bundle) : State :=
  let s := b.threads.foldl (fun s k => endUview (arrive s k ((getThread s k).next.getD (fallThrough b))) (keyGroup k)) s
  let s := setBundle s core picker none
  (dedup (b.threads.map keyGroup)).foldl releaseJoins s

/-- The threads of the bundle wait where they stand, within their packet or run (R138, R142, R203). -/
def standStill (s : State) (core picker : Nat) (b : Bundle) : State :=
  let s := b.threads.foldl (fun s k =>
    endUview (modThread s k (fun t => { t with pc := b.pc, next := none, view := none, seq := seqAt b b.pc t, age := 0, overdue := none })) (keyGroup k)) s
  setBundle s core picker none

/-- Fetches n words of thread k's code from pc on (R41); an error names the address that failed. -/
def fetchWords (s : State) (k : Nat) (f : Form) : Word → Nat → Except (MFault × Nat) (List Word)
  | _, 0 => .ok []
  | pc, n + 1 =>
    match fetchWord s k f pc with
    | .error e => .error (e, baseOf s k f + pc.toNat)
    | .ok w => match fetchWords s k f (pc + 4) n with
      | .error e => .error e
      | .ok r => .ok (w :: r)

/-- The trap of a fetch that fails: PFAULT; an uncorrectable word is ECCU (R41, R398, R404). -/
def fetchTrap (e : MFault × Nat) : Nat × Nat × Option (Nat × Nat) :=
  match e.1 with
  | .eccu => (Trap.eccu, 6, some (e.2, 0xF))
  | .notPresent => (Trap.pfault, 1, some (e.2, 0xF))
  | .perm => (Trap.pfault, 2, some (e.2, 0xF))
  | .badPte => (Trap.pfault, 3, some (e.2, 0xF))
  | .range => (Trap.pfault, 4, some (e.2, 0xF))
  | .busErr => (Trap.pfault, 5, some (e.2, 0xF))

/-- Where a thread that traps in the bundle resumes: at the set's first member, at the instruction, or, for TRAP, after it (R400). -/
def resumeOf (b : Bundle) (n : Nat) : Word := if n = Trap.debug then fallThrough b else b.set.getD b.pc

/-- Every thread of the bundle takes a trap at its PC; the bundle ends. -/
def trapHere (s : State) (core picker : Nat) (b : Bundle) (n cause : Nat) (place : Option (Nat × Nat)) : State :=
  let s := b.threads.foldl (fun s k => enterTrap s k n cause place (trapAt b b.pc (resumeOf b n) (seqAt b b.pc (getThread s k)))) s
  b.threads.foldl (fun s k => leave s core picker k) s

/-- Checks a packet from the bundle's PC on, as it is entered; a breach is taken by every thread (R43, R150). -/
def checkPacket (s : State) (core picker : Nat) (b : Bundle) (held : Bool) : State :=
  match b.threads with
  | [] => setBundle s core picker none
  | k :: _ =>
    let slot := slotOf b.pc
    match checkL (lHome s k) held b.seq.packet 3 slot [] (codeFrom b b.pc) with
    | none => setBundle s core picker (some b)
    | some (p, n) => trapAll (setBundle s core picker (some b)) core picker b (b.pc + wd (4 * (p - slot))) n

/-- A bundle holds into its next packet: its words, as they were when the sequence was entered, are checked (R32, R43, R281). -/
def holdOn (s : State) (core picker : Nat) (b : Bundle) : State :=
  let pc := nextPacket b.pc
  let b := { b with pc := pc, base := pc, code := [], set := none, rest := none,
                    seq := { b.seq with packet := b.seq.packet + 1, begun := true } }
  match b.threads, b.ahead with
  | [], _ => setBundle s core picker none
  | _, w0 :: w1 :: w2 :: r => checkPacket s core picker { b with code := [w0, w1, w2], ahead := r } true
  | k :: _, _ =>
    match fetchWords s k .l pc 3 with
    | .error e => let t := fetchTrap e; trapHere (setBundle s core picker (some b)) core picker b t.1 t.2.1 t.2.2
    | .ok ws => checkPacket s core picker { b with code := ws } true

/-- The bundle goes past instruction i (R29, R32, R37, R148, R149); where i is a member of a co-issue set that executes before the others, it
goes back to the first of them (R150). -/
def advance (i : Instr) (core picker : Nat) (s : State) : State :=
  match bundleAt s core picker with
  | none => s
  | some b =>
    if b.set.isSome && decide (b.early = some (b.pc, false)) then
      setBundle s core picker (some { b with pc := b.set.getD b.pc, early := some (b.pc, true), rest := none })
    else
    let more := decide (b.form = .l) && chained 3 (slotOf b.pc) (codeFrom b b.pc)
    let s := if more || decide (b.set = none) then s
      else b.threads.foldl (fun s k => endUview (modThread s k (fun t => { t with view := none })) (keyGroup k)) s
    let pc := b.pc + wd (4 * lenOf i)
    let seq := if latency i = .frame then b.seq else { b.seq with begun := true }
    match b.form with
    | .d => setBundle s core picker (some { b with pc := pc, seq := seq, rest := none, set := none, early := none })
    | .l =>
      let b1 := { b with seq := seq, rest := none, set := if more then b.set else none, early := if more then b.early else none }
      if 3 ≤ slotOf b.pc + lenOf i then
        if instrK i then holdOn s core picker b1 else dissolve s core picker b1
      else setBundle s core picker (some { b1 with pc := pc })

-- executing an instruction

/-- The encoding trap of instruction i for the bundle, if any (R48 to R50, R150). -/
def encodingTrap (s : State) (b : Bundle) (i : Instr) : Option Nat :=
  let badSub := match i with | .uniformPipeOp sub _ => decide (0x1D < sub.toNat) | _ => false
  if badSub then some Trap.illop
  else if needsDHome i && (match b.threads with | k :: _ => lHome s k | [] => false) then some Trap.illop
  else if !legal b.form i then some Trap.illenc
  else none

/-- MXLW reads v0 by a C of 0 where its team's weights are CB2 (R303). -/
def readsV0 (s : State) (k : Nat) (i : Instr) : Bool :=
  match i with
  | .mxlw _ => let co := getCore s (teamOf s k).home; decide ((rawOf i).c = 0 ∧ co.mxOwner = some (keyTeam k) ∧ bits co.mxCfg.toNat 11 8 = 0xA)
  | _ => false

/-- The registers that instruction i of thread k reads, and those it touches. -/
def readBy (s : State) (k : Nat) (i : Instr) : List Nat := if readsV0 s k i then 0 :: regReads i else regReads i
def touched (s : State) (k : Nat) (i : Instr) : List Nat := readBy s k i ++ regWrites i

/-- The results to be delivered before an instruction that touches the registers rs: those that it touches, and the special-function results before
them (R197). -/
def dueFor (t : Thread) (rs : List Nat) (p : Pending) : Bool :=
  p.touches rs || (p.sfuOp.isSome && t.pend.any (fun q => q.sfuOp.isSome && q.touches rs && decide (p.tag ≤ q.tag)))

/-- True when thread k must wait for a result that has no value yet, or that cannot arrive yet (R38, R147, R402). -/
def mustWait (s : State) (b : Bundle) (i : Instr) (k : Nat) : Bool :=
  let t := getThread s k
  t.view.isNone &&
    t.pend.any (fun p => dueFor t (touched s k i) p && (p.value.isNone || sfuHeld s k p) && (decide (b.form = .l) || p.awaited))

/-- Where what a register of thread k depends on is kept: a uniform register's with its group's first thread. -/
def depKey (k r : Nat) : Nat := (if 80 ≤ r ∧ r < 112 then groupThread (keyGroup k) 0 else k) * 256 + r

/-- What thread k's instruction i depends on, and the registers that then depend on it too (R376): nothing, until there are strong stores
that accesses could be ordered by. A collective takes its group's registers. -/
def noteDoing (s : State) (i : Instr) (k : Nat) : State :=
  let o := s.order
  if o.line = [] then s
  else
    let ks := if isCollective i then liveOfGroup s (keyGroup k) else [k]
    let from_ : View := (ks.flatMap (fun j => (readBy s j i).map (fun r => kget [] o.dep (depKey j r)))).foldl (joinSight o) []
    let to_ := (regWrites i).map (depKey k)
    { s with order := { o with doing := { agent := k, clock := s.clock, addr := from_, dests := to_ }, dep := to_.foldl (fun m d => kset [] m d from_) o.dep } }

/-- Thread k made ready for instruction i: results it may wait for are delivered; another pending result is RUNHAZ (R39, R147). -/
def prepare (s : State) (b : Bundle) (i : Instr) (k : Nat) : Act :=
  let t := getThread s k
  if t.view.isSome || t.pend.isEmpty then .ok (noteDoing s i k)
  else
    match b.form with
    | .l => .ok (noteDoing (deliver s k (dueFor t (touched s k i))) i k)
    | .d =>
      if t.pend.any (fun p => p.touches (touched s k i) && !p.awaited) then trapOf Trap.runhaz 0
      else .ok (noteDoing (deliver s k (dueFor t (touched s k i))) i k)

/-- The state in which thread k executes instruction i. -/
def readied (s : State) (b : Bundle) (i : Instr) (k : Nat) : State := match prepare s b i k with | .ok t => t | .error _ => s

/-- The context of thread k in bundle b at instruction i. -/
def ctxOf (b : Bundle) (i : Instr) (k : Nat) : Ctx := { k := k, form := b.form, pc := b.pc, raw := rawOf i }

/-- The last-page register after a global access of thread k that traps (R257): empty where the translation faulted, the page where it
was the access that had no target. -/
def faultLpr (s : State) (k n cause : Nat) (place : Option (Nat × Nat)) : State :=
  match place with
  | none => s
  | some (a, sp) =>
    if n = Trap.pfault ∧ sp = Space.global.code then
      noteAccess s k .global Acc.store (if cause = MFault.busErr.code then resolve s k .global a 1 .w else .fault .notPresent (some a))
    else s

/-- Thread k takes a trap at the bundle's instruction and leaves it (R150). -/
def stopThread (s : State) (core picker : Nat) (b : Bundle) (k n cause : Nat) (place : Option (Nat × Nat)) : State :=
  leave (enterTrap (faultLpr s k n cause place) k n cause place (trapAt b b.pc (resumeOf b n) (seqAt b b.pc (getThread s k)))) core picker k

/-- What a pass over threads leaves: the state, the threads that executed, and those that wait. -/
structure Pass where
  s : State
  did : List Nat
  rest : List Nat

/-- Threads execute one after another, in bundle order (R152, R153): a thread that traps leaves the bundle; one that waits, and
those after it, try again later. While traps are only being looked for, nothing else happens. -/
def runThreads (i : Instr) (f : Ctx → State → Act) (core picker : Nat) (b : Bundle) (s : State) : List Nat → Pass
  | [] => { s := s, did := [], rest := [] }
  | k :: ks =>
    let r : Act := match prepare s b i k with
      | .error e => .error e
      | .ok s1 => f (ctxOf b i k) s1
    match r with
    | .ok s1 =>
      let p := runThreads i f core picker b (if b.probe then s else s1) ks
      { p with did := k :: p.did }
    | .error (.trap n c pl) => runThreads i f core picker b (stopThread s core picker b k n c pl) ks
    | .error .stall =>
      if b.probe then runThreads i f core picker b s ks else { s := s, did := [], rest := k :: ks }

/-- Cycles a bundle of n threads takes for an instruction (R141). -/
def partsOf (f : Form) (n : Nat) : Nat := (n + lanesOf f - 1) / lanesOf f

/-- The WATCH records of a bundle at a watched PC, one for each group (R431, R434). -/
def watch (s : State) (b : Bundle) : State :=
  let at_ := match b.form with | .d => s.rrwatch.lo | .l => s.rrwatch.hi
  if s.rlmode.getLsbD 3 = true ∧ at_ = b.pc then
    (dedup (b.threads.map keyGroup)).foldl (fun s g =>
      let ks := b.threads.filter (fun k => decide (keyGroup k = g))
      let mask := ks.foldl (fun m k => m + 2 ^ (keyLin k % 32)) 0
      let lanes := ks.foldl (fun m k => m + (b.threads.idxOf k) * 2 ^ (5 * (keyLin k % 32))) 0
      match ks with
      | [] => s
      | k :: _ => trace s 3 6 (traceAtThread s k mask b.pc) (leBytes 24 lanes)) s
  else s

/-- What an instruction that begins to issue leaves in the run record: WATCH records, ISSUE and LANESUM (R434, R435). -/
def noteIssue (s : State) (core : Nat) (b : Bundle) (i : Instr) : State :=
  if b.probe || b.rest.isSome || decide (latency i = .frame) then s
  else
    let s := watch s b
    if b.set = none ∨ b.set = some b.pc then
      bump (bump s core 0 (partsOf b.form b.threads.length)) core 4 b.threads.length
    else s

/-- Executes instruction i on the bundle in focus, thread by thread; post sees the state before and the threads that executed. -/
def issueWith (i : Instr) (f : Ctx → State → Act) (post : Bundle → State → List Nat → State → State) (s : State) : State :=
  let core := s.focus.1
  let picker := s.focus.2
  match bundleAt s core picker with
  | none => s
  | some b =>
    match encodingTrap s b i with
    | some n => trapAll s core picker b b.pc n
    | none =>
      let ks := b.rest.getD b.threads
      if ks.any (mustWait s b i) then s
      else
        let s0 := noteIssue s core b i
        let p := runThreads i f core picker b s0 ks
        if b.probe then p.s
        else
          let s1 := post b s0 p.did p.s
          if p.rest = [] then advance i core picker s1
          else match bundleAt s1 core picker with
            | none => s1
            | some b1 => setBundle s1 core picker (some { b1 with rest := some p.rest })

/-- Executes instruction i on the bundle in focus, thread by thread. -/
def issue (i : Instr) (f : Ctx → State → Act) (s : State) : State := issueWith i f (fun _ _ _ s => s) s

/-- The bundle's threads by group, groups in the bundle order of their first thread (R158). -/
def byGroup (ks : List Nat) : List (Nat × List Nat) :=
  let gs := ks.foldl (fun (a : List Nat) k => if keyGroup k ∈ a then a else a ++ [keyGroup k]) []
  gs.map (fun g => (g, ks.filter (fun k => decide (keyGroup k = g))))

/-- Executes instruction i once for each group that has threads in the bundle (R158, R171): f is given the group's first
thread in the bundle. -/
def issueGroups (i : Instr) (f : Ctx → State → Act) (s : State) : State :=
  let core := s.focus.1
  let picker := s.focus.2
  match bundleAt s core picker with
  | none => s
  | some b =>
    match encodingTrap s b i with
    | some n => trapAll s core picker b b.pc n
    | none =>
      if b.threads.any (mustWait s b i) then s
      else
        let s0 := noteIssue s core b i
        -- every thread of the bundle is made ready, or takes its own trap, before its group's effect
        let p := runThreads i (fun c s =>
          match f c s with | .error e => .error e | .ok _ => .ok s) core picker b s0 b.threads
        if b.probe then p.s
        else
          let s1 := (byGroup p.did).foldl (fun s e =>
            match e.2 with
            | [] => s
            | k :: _ => match f (ctxOf b i k) s with | .ok s2 => s2 | .error _ => s) p.s
          advance i core picker s1

/-- Executes a group-convergent instruction (R142, R203): the bundle must be the live threads of one group, all of which
can execute it; otherwise those that do not trap wait at it, as they do when f must wait (R119). f acts for the group; a trap that
f raises is found while the members of its co-issue set are tried (R150). -/
def issueConvergent (i : Instr) (f : Ctx → List Nat → State → Act) (s : State) : State :=
  let core := s.focus.1
  let picker := s.focus.2
  match bundleAt s core picker with
  | none => s
  | some b =>
    match encodingTrap s b i with
    | some n => trapAll s core picker b b.pc n
    | none =>
      match b.threads with
      | [] => setBundle s core picker none
      | k0 :: _ =>
        if b.threads.any (mustWait s b i) then s
        else
          -- a trap at the instruction is taken before it issues, and then it issues for no thread (R203)
          let p := runThreads i (fun c s =>
            match (regReads i).find? (fun r => decide (64 ≤ r ∧ r < 80) && (readVx s c.k r).isNone) with
            | none => .ok s
            | some _ => match c.form with | .l => trapOf Trap.latch 0 | .d => trapOf Trap.illenc 0) core picker b s b.threads
          match bundleAt p.s core picker with
          | none => p.s
          | some b1 =>
            if b1.threads ≠ bundleOrder p.s (liveOfGroup p.s (keyGroup k0)) then (if b.probe then p.s else standStill p.s core picker b1)
            else
              let s1 := noteIssue p.s core b1 i
              match f (ctxOf b i k0) b1.threads s1 with
              | .ok s2 => if b.probe then p.s else advance i core picker s2
              | .error (.trap n c pl) => trapHere s1 core picker b1 n c pl
              | .error .stall => if b.probe then p.s else standStill p.s core picker b1

-- co-issue sets

/-- The member of a co-issue set that executes before the others: the one of pipe M, whose trap alone can come of what executes in the set, unless
it stands first, or ends its packet by its own rule (R31, R34, R150, R392). -/
def earlyMember (b : Bundle) (ms : List (Nat × Instr)) : Option (Word × Bool) :=
  ((ms.drop 1).find? (fun m => decide (pipe m.2 = .m) && !isControl m.2 && !isBarw m.2)).map (fun m => (b.pc + wd (4 * (m.1 - slotOf b.pc)), false))

/-- Where a co-issue set begins at the bundle's PC: each member is tried, lowest slot first, and the threads that trap take that
trap; the others then read their sources as they stand now (R30, R150). exec is the meaning of a member. A member that must
wait for a result keeps the whole set waiting: the answer is then none. A PAD before the first member belongs to no set (R30). -/
def startSet (exec : Instr → State → State) (s : State) (core picker : Nat) : Option State :=
  match bundleAt s core picker with
  | none => some s
  | some b =>
    if b.form = .d ∨ b.set.isSome then some s
    else
      let ms := setMembers 3 (slotOf b.pc) (codeFrom b b.pc)
      if ms.length ≤ 1 ∨ (ms.head?.map (·.1)) ≠ some (slotOf b.pc) then some s
      else if ms.any (fun m => b.threads.any (mustWait s b m.2)) then none
      else
        let s := ms.foldl (fun s m => b.threads.foldl (fun s k => deliver s k (dueFor (getThread s k) (touched s k m.2))) s) s
        let s := ms.foldl (fun s m =>
          match bundleAt s core picker with
          | none => s
          | some b1 =>
            let b2 := { b1 with probe := true, set := some b.pc, pc := b.pc + wd (4 * (m.1 - slotOf b.pc)) }
            exec m.2 { setBundle s core picker (some b2) with focus := (core, picker) }) s
        match bundleAt s core picker with
        | none => some s
        | some b1 =>
          let s := b1.threads.foldl (fun s k =>
            modGroup (modThread s k (fun t => { t with view := some t.regs })) (keyGroup k) (fun x => { x with uview := some x.uregs })) s
          let e := earlyMember b ms
          some (setBundle s core picker (some { b1 with probe := false, set := some b.pc, pc := (e.map (·.1)).getD b.pc, early := e }))

/-- The bundle stands at a member of its set that has executed before the others (R150). -/
def executed (b : Bundle) : Bool := b.set.isSome && decide (b.early = some (b.pc, true))

/-- The instruction at the PC of bundle b is executed; a member of a co-issue set that has executed before the others is passed over (R150). -/
def issueOne (exec : Instr → State → Host.Outcome State Fault Refusal) (core picker : Nat) (b : Bundle) (s : State) : Host.Outcome State Fault Refusal :=
  match decodeWords (codeFrom b b.pc) with
  | .ok (i, _) => if executed b then .next (advance i core picker s) else exec i { s with focus := (core, picker) }
  | .error (.illop _ _) => .next (trapAll s core picker b b.pc Trap.illop)
  | .error .short =>
    .next (trapAll s core picker b b.pc (shortFate (match b.threads with | k :: _ => lHome s k | [] => false) (codeFrom b b.pc)))

/-- The members of a co-issue set are executed in one turn, at most n of them: none where threads of the bundle still wait to issue one (R30,
R150). -/
def issueSet (exec : Instr → State → Host.Outcome State Fault Refusal) (core picker : Nat) : Nat → Host.Outcome State Fault Refusal → Host.Outcome State Fault Refusal
  | 0, r => r
  | n + 1, r =>
    match r with
    | .next s => match bundleAt s core picker with
      | none => .next s
      | some b => if b.set.isSome && b.rest.isNone then issueSet exec core picker n (issueOne exec core picker b s) else .next s
    | .fault f => .fault f
    | .refused f => .refused f

end Sys2Proof.Machine
end

