-- ==== Sys2Proof/Machine/MemOps.lean ====
section
/-! DEFINITION. One thread's access to a space: the checks of R240 in their order, and the poison of R241 to R243. -/

namespace Sys2Proof.Machine

/-- The place of a fault in a space, as a fault record holds it (R403, R404). -/
def placeOf (sp : Space) (a : Nat) : Option (Nat × Nat) := some (a, sp.code)

/-- A load of w bytes at a (R240): the state with what the access leaves, and the value; none when poison is delivered. -/
def loadThread (s : State) (c : Ctx) (sp : Space) (acc : Acc) (a w : Nat) : Except Stop (State × Option Nat) :=
  if a % w ≠ 0 then .error (.trap Trap.align 0 (placeOf sp a))
  else
    let f := resolve s c.k sp a w .r
    match f with
    | .space => .error (.trap Trap.space 0 (placeOf sp a))
    | .fault e _ => .ok (notePoison (noteAccess s c.k sp acc f) c.k c.pc.toNat (a, sp) e.code, none)
    | .ok l _ =>
      let s1 := noteAccess s c.k sp acc f
      match readAs s1 c.k acc l w with
      | .error e => .ok (notePoison s1 c.k c.pc.toNat (a, sp) e.code, none)
      | .ok (v, s2) => .ok (acquireL1 s2 c.k acc, some v)

/-- A store of n bytes at a place counts in LQERR when it touches an owned byte (R103). -/
def noteOwned (s : State) (l : Loc) (n : Nat) : State :=
  match l with
  | .phys pa => if touchesOwned s pa n then countLqerr s else s
  | .scratch _ _ => s
  | .carve _ => s

/-- The state with bytes stored at a place by agent a (R103, R380). -/
def storeAt (s : State) (a : Nat) (acc : Acc) (l : Loc) (bs : List Byte) : State := writeAs (noteOwned s l bs.length) a acc l bs

/-- A store's place by its checks and its translation, or the trap that stops it (R240). -/
def storeFound (s : State) (c : Ctx) (sp : Space) (a w : Nat) (need : Need) : Except Stop (Loc × Found) :=
  if a % w ≠ 0 then .error (.trap Trap.align 0 (placeOf sp a))
  else
    let f := resolve s c.k sp a w need
    match f with
    | .space => .error (.trap Trap.space 0 (placeOf sp a))
    | .fault e _ => .error (.trap Trap.pfault e.code (placeOf sp a))
    | .ok l _ => .ok (l, f)

/-- A store's place, or the trap that stops it, a place without a target among them (R240, R255). -/
def storePlace (s : State) (c : Ctx) (sp : Space) (a w : Nat) (need : Need) : Except Stop (Loc × Found) :=
  match storeFound s c sp a w need with
  | .error e => .error e
  | .ok p => if locBusErr s p.1 then .error (.trap Trap.pfault MFault.busErr.code (placeOf sp a)) else .ok p

/-- A store of bytes at a (R240, R269). -/
def storeThread (s : State) (c : Ctx) (sp : Space) (acc : Acc) (a : Nat) (bs : List Byte) : Act :=
  match storePlace s c sp a bs.length .w with
  | .error e => .error e
  | .ok (l, f) => .ok (storeAt (noteAccess s c.k sp acc f) c.k acc l bs)

/-- The 128-byte lines of a list that the ranges cover wholly (R243, R269). -/
def coveredLines (bad : List Nat) (ranges : List (Nat × Nat)) : List Nat :=
  bad.filter (fun l => (List.range 128).all (fun i => ranges.any (fun r => decide (r.1 ≤ 128 * l + i ∧ 128 * l + i < r.1 + r.2))))

/-- The state after one store instruction, or one engine write, that wrote these places (R243). -/
def clearLines (s : State) (ps : List (Loc × Nat)) : State :=
  if s.poisonLines = [] ∧ s.carvePoison = [] then s
  else
    cleanLines (cleanLines s false (coveredLines s.poisonLines (ps.filterMap (fun p => match p.1 with | .phys pa => some (pa, p.2) | .scratch _ _ => none | .carve _ => none))))
      true (coveredLines s.carvePoison (ps.filterMap (fun p => match p.1 with | .carve o => some (o, p.2) | .phys _ => none | .scratch _ _ => none)))

end Sys2Proof.Machine
end

