-- ==== Sys2Proof/Machine/Control.lean ====
section
/-! DEFINITION. Predicates, control transfer and framing (R35 to R38, R42, R144, R172 to R181, R219). -/

namespace Sys2Proof.Machine

/-- A predicate operation on two predicates, each negated as M says (R172). -/
def predOp (f : Bool → Bool → Bool) (c : Ctx) (s : State) : Act :=
  let a := srcP s c c.raw.a
  let b := srcP s c c.raw.b
  .ok (dstP s c ⟨f (Bool.xor a.val (decide (c.raw.m % 2 = 1))) (Bool.xor b.val (decide (2 ≤ c.raw.m))), a.poison || b.poison⟩)

def actPnot (c : Ctx) (s : State) : Act :=
  let a := srcP s c c.raw.a
  .ok (dstP s c ⟨!a.val, a.poison⟩)

/-- The target of a J-format instruction (R42). -/
def jTarget (c : Ctx) : Word := c.pc + ((BitVec.ofNat 19 c.raw.imm).signExtend 32) * 4

/-- Thread k goes on at a PC once its packet or run ends (R173). -/
def goTo (s : State) (k : Nat) (pc : Word) : State := modThread s k (fun t => { t with next := some pc })

def actBra (c : Ctx) (s : State) : Act := .ok (goTo s c.k (jTarget c))

/-- BRP branches when p[P] xor N (R157, R174). -/
def actBrp (c : Ctx) (s : State) : Act :=
  let p := readP s c.k (c.raw.imm / 1048576)
  if p.poison then poisonTrap
  else if Bool.xor p.val (decide (c.raw.imm / 524288 % 2 = 1)) then .ok (goTo s c.k (jTarget c)) else .ok s

/-- DIVERGE records: one for each group whose threads in the bundle went both ways (R434). -/
def noteDiverge (b : Bundle) (s0 : State) (did : List Nat) (s : State) : State :=
  (byGroup did).foldl (fun s e =>
    let took := e.2.filter (fun k => (getThread s k).next.isSome)
    match took with
    | [] => s
    | k :: _ =>
      if took.length = e.2.length then s
      else
        let mask (ks : List Nat) := ks.foldl (fun m k => m + 2 ^ (keyLin k % 32)) 0
        trace s 0 1 (traceAtThread s0 k (mask took) b.pc)
          (leBytes 4 ((getThread s k).next.getD 0).toNat ++ leBytes 4 (fallThrough b).toNat ++ leBytes 4 (mask e.2))) s

/-- The return address of CALL and CALLI is the fall-through of the bundle in focus (R41). -/
def returnAddr (s : State) : Word :=
  match bundleAt s s.focus.1 s.focus.2 with
  | some b => fallThrough b
  | none => 0

/-- Pushes a call-stack entry and branches (R136, R175). -/
def pushCall (c : Ctx) (s : State) (target : Word) (fromReg : Bool) : Act :=
  let t := getThread s c.k
  let at_ := (t.csp - 8).toNat
  if t.csp.toNat < 8 then .error (.trap Trap.space 0 (placeOf .priv at_))
  else if fromReg ∧ target.toNat % 4 ≠ 0 then trapOf Trap.align 0
  else
    match storeThread s c .priv (storeAcc .priv 0 0) at_ (leBytes 8 ((returnAddr s).toNat + (match c.form with | .d => 0 | .l => 2 ^ 32))) with
    | .error e => .error e
    | .ok s1 => .ok (goTo (modThread s1 c.k (fun t => { t with csp := t.csp - 8 })) c.k target)

def actCall (c : Ctx) (s : State) : Act := pushCall c s (jTarget c) false

def actCalli (c : Ctx) (s : State) : Act := do
  let a ← src s c .int c.raw.a
  if a.poison then poisonTrap else pushCall c s a.bits true

/-- RET pops the top call-stack entry (R176). -/
def actRet (c : Ctx) (s : State) : Act :=
  let t := getThread s c.k
  let at_ := t.csp.toNat
  if (teamOf s c.k).desc.priv < at_ + 8 then .error (.trap Trap.space 0 (placeOf .priv at_))
  else
    match resolve s c.k .priv at_ 8 .r with
    | .space => .error (.trap Trap.space 0 (placeOf .priv at_))
    | .fault e _ => .error (.trap Trap.pfault e.code (placeOf .priv at_))
    | .ok l pg =>
      match readAs (noteAccess s c.k .priv (loadAcc .priv 0 0) (.ok l pg)) c.k (loadAcc .priv 0 0) l 8 with
      | .error .eccu => poisonTrap
      | .error e => .error (.trap Trap.pfault e.code (placeOf .priv at_))
      | .ok (e, s) =>
        let target := wd e
        if e / 2 ^ 32 % 2 ≠ (match c.form with | .d => 0 | .l => 1) then trapOf Trap.migerr 4
        else if target.toNat % 4 ≠ 0 then trapOf Trap.align 0
        else
          let s1 := modThread s c.k (fun t => { t with csp := t.csp + 8 })
          .ok (goTo s1 c.k target)

/-- True when every launched thread of a team has exited (R424). -/
def allExited (s : State) (id : Nat) : Bool := (threadsOfTeam s id).all (fun k => (getThread s k).exited)

/-- The last thread of a team starts its reclamation (R424). -/
def checkRetire (s : State) (id : Nat) : State :=
  if allExited s id then modTeam s id (fun t => { t with hold := .retiring }) else s

/-- Thread k ends: it leaves its bundle, its pending results are discarded, and those that waited for it in a join go on (R144, R178). -/
def actExit (c : Ctx) (s : State) : Act :=
  let s := modThread s c.k (fun t =>
    { t with exited := true, pend := [], view := none, next := none, seq := none, wait := .none, joinPc := none, regs := { t.regs with x := [] } })
  let s := leave s s.focus.1 s.focus.2 c.k
  .ok (checkRetire (releaseJoins s (keyGroup c.k)) (keyTeam c.k))

/-- NOP and PAD change nothing (R35, R179). -/
def actNop (_ : Ctx) (s : State) : Act := .ok s

/-- YIELD: the thread sits out the first pick after its bundle (R179). -/
def actYield (c : Ctx) (s : State) : Act :=
  .ok (modThread s c.k (fun t => { t with age := 0, overdue := none, wait := .yielded }))

/-- JOINH names the join PC, which its thread has yet to reach (R144, R180). -/
def actJoinh (c : Ctx) (s : State) : Act :=
  .ok (modThread s c.k (fun t => { t with joinPc := some (jTarget c), joined := t.joined.filter (fun j => decide (j ≠ jTarget c)) }))

/-- TRAP takes the trap DEBUG (R181). -/
def actTrap (_ : Ctx) (_ : State) : Act := trapOf Trap.debug 0

/-- The awaited set of a RUNT (R38). -/
def awaitBy (s : State) (k : Nat) (ws : List Nat) : State :=
  modThread s k (fun t => { t with pend := t.pend.map (fun p => if p.touches ws then { p with awaited := true } else p) })

/-- The codes a RUNT names, uniform registers by 128 + number (R38). -/
def awaitRegs (r : Raw) : List Nat := [r.d, r.a, r.b].map (fun c => if 80 ≤ c ∧ c < 112 then c + 48 else c)

/-- The trailer of the bundle's run takes effect for thread k (R38, R173). -/
def trailerFor (b : Bundle) (s : State) (k : Nat) : State :=
  match b.code.getLast? with
  | none => s
  | some w => if opOf w = 0xE1 then awaitBy s k (awaitRegs (rawRunt (decRunt w))) else s

/-- TRET returns from the handler; outside one it is ILLOP for the thread (R181, R405). -/
def actTret (c : Ctx) (s : State) : Act :=
  if (getThread s c.k).intrap = false then trapOf Trap.illop 0
  else
    let s := match bundleAt s s.focus.1 s.focus.2 with
      | some b => (match b.form with | .d => trailerFor b s c.k | .l => s)
      | none => s
    match returnTrap s c.k with
    | .error e => .error e
    | .ok s1 => .ok (releaseJoins (leave s1 s1.focus.1 s1.focus.2 c.k) (keyGroup c.k))

/-- The entry of number num among n entries from entry j on, which stand in ascending order; an error names the address
that failed (R12, R219). -/
def findEqp (s : State) (asid tab num : Nat) : Nat → Nat → Except (MFault × Nat) (Option EqpEntry)
  | _, 0 => .ok none
  | j, n + 1 =>
    let a := tab + 16 * j
    match vread s asid a 2, vread s asid (a + 2) 2, vread s asid (a + 4) 4, vread s asid (a + 8) 4, vread s asid (a + 12) 4 with
    | .ok e, .ok live, .ok d, .ok l, .ok m =>
      if e = num then .ok (some { num := e, dpc := wd d, lpc := wd l, map := m, nmap := live })
      else if num < e then .ok none
      else findEqp s asid tab num (j + 1) n
    | .error e, _, _, _, _ => .error (e, a)
    | _, .error e, _, _, _ => .error (e, a + 2)
    | _, _, .error e, _, _ => .error (e, a + 4)
    | _, _, _, .error e, _ => .error (e, a + 8)
    | _, _, _, _, .error e => .error (e, a + 12)

/-- The equivalence point num of thread k's resident descriptor (R219). -/
def lookupEqp (s : State) (k num : Nat) : Except (MFault × Nat) (Option EqpEntry) :=
  let t := teamOf s k
  findEqp s t.asid t.desc.eqptab num 0 t.desc.eqpcount

/-- How many of n entries from entry j on a search for a number reads. -/
def eqpReads (s : State) (asid tab num : Nat) : Nat → Nat → Nat
  | _, 0 => 0
  | j, n + 1 => match vread s asid (tab + 16 * j) 2 with
    | .ok e => if num ≤ e then 1 else eqpReads s asid tab num (j + 1) n + 1
    | .error _ => 1

/-- What such a search for thread k's team leaves (R246, R262). -/
def noteEqp (s : State) (k num : Nat) : State :=
  let t := teamOf s k
  noteSpan s t.asid (teamClass s t) t.desc.eqptab (16 * eqpReads s t.asid t.desc.eqptab num 0 t.desc.eqpcount)

/-- EQP records the thread's most recent equivalence point (R219). -/
def actEqp (c : Ctx) (s : State) : Act :=
  match lookupEqp s c.k (c.raw.imm % 4096) with
  | .error e => let t := fetchTrap e; .error (.trap t.1 t.2.1 t.2.2)
  | .ok none => trapOf Trap.migerr 1
  | .ok (some e) =>
    if (match c.form with | .d => e.dpc | .l => e.lpc) ≠ c.pc then trapOf Trap.migerr 1
    else .ok (modThread (noteEqp s c.k (c.raw.imm % 4096)) c.k (fun t => { t with eqp := some { num := e.num, dpc := e.dpc, lpc := e.lpc, cls := c.form } }))

/-- The run that begins at the bundle's RUNH is entered: its words are checked, its temporaries hold nothing (R37, R43). -/
def enterRun (w : RunhForm) (core picker : Nat) (b : Bundle) (s : State) : State :=
  match b.threads with
  | [] => setBundle s core picker none
  | k :: _ =>
    let b := { b with seq := { head := b.pc, packet := 0, xmask := w.xmask.toNat, begun := false } }
    let s := b.threads.foldl (fun s k => modThread s k (fun t => { t with regs := { t.regs with x := [] } })) (setBundle s core picker (some b))
    let body := (codeFrom b b.pc).drop 1
    if body.length ≠ w.len.toNat + 1 then trapAll s core picker b (b.pc + wd (4 * (body.length + 1))) Trap.illenc
    else
      match checkD (lHome s k) w.xmask.toNat 26 1 true [] [] body with
      | none => setBundle s core picker (some { b with pc := b.pc + 4, rest := none })
      | some (p, n) => trapAll s core picker b (b.pc + wd (4 * p)) n

/-- PAND (R172). -/
def execPand (w : TForm) (s : State) : Host.Outcome State Fault Refusal :=
  .next (issue (.pand w) (predOp and) s)

/-- POR (R172). -/
def execPor (w : TForm) (s : State) : Host.Outcome State Fault Refusal :=
  .next (issue (.por w) (predOp or) s)

/-- PXOR (R172). -/
def execPxor (w : TForm) (s : State) : Host.Outcome State Fault Refusal :=
  .next (issue (.pxor w) (predOp Bool.xor) s)

/-- PNOT (R172). -/
def execPnot (w : TForm) (s : State) : Host.Outcome State Fault Refusal :=
  .next (issue (.pnot w) actPnot s)

/-- BRA (R174). -/
def execBra (w : JForm) (s : State) : Host.Outcome State Fault Refusal :=
  .next (issue (.bra w) actBra s)

/-- CALL (R175). -/
def execCall (w : JForm) (s : State) : Host.Outcome State Fault Refusal :=
  .next (issue (.call w) actCall s)

/-- CALLI (R175). -/
def execCalli (w : TForm) (s : State) : Host.Outcome State Fault Refusal :=
  .next (issue (.calli w) actCalli s)

/-- RET (R176). -/
def execRet (w : TForm) (s : State) : Host.Outcome State Fault Refusal :=
  .next (issue (.ret w) actRet s)

/-- EXIT (R178). -/
def execExit (w : TForm) (s : State) : Host.Outcome State Fault Refusal :=
  .next (issue (.exit w) actExit s)

/-- NOP (R179). -/
def execNop (w : TForm) (s : State) : Host.Outcome State Fault Refusal :=
  .next (issue (.nop w) actNop s)

/-- YIELD (R179). -/
def execYield (w : TForm) (s : State) : Host.Outcome State Fault Refusal :=
  .next (issue (.yield w) actYield s)

/-- JOINH (R180). -/
def execJoinh (w : JForm) (s : State) : Host.Outcome State Fault Refusal :=
  .next (issue (.joinh w) actJoinh s)

/-- TRAP (R181). -/
def execTrap (w : WForm) (s : State) : Host.Outcome State Fault Refusal :=
  .next (issue (.trap w) actTrap s)

/-- TRET (R405). -/
def execTret (w : TForm) (s : State) : Host.Outcome State Fault Refusal :=
  .next (issue (.tret w) actTret s)

/-- EQP (R219). -/
def execEqp (w : WForm) (s : State) : Host.Outcome State Fault Refusal :=
  .next (issue (.eqp w) actEqp s)

/-- PAD fills a slot and changes nothing (R35). -/
def execPad (w : PadForm) (s : State) : Host.Outcome State Fault Refusal :=
  .next (issue (.pad w) actNop s)

/-- BRP (R174), with the DIVERGE records of R434. -/
def execBrp (w : JForm) (s : State) : Host.Outcome State Fault Refusal :=
  .next (issueWith (.brp w) actBrp noteDiverge s)

/-- RUNH opens a run (R37, R43). -/
def execRunh (w : RunhForm) (s : State) : Host.Outcome State Fault Refusal :=
  .next (match bundleAt s s.focus.1 s.focus.2 with
    | none => s
    | some b =>
      match encodingTrap s b (.runh w) with
      | some n => trapAll s s.focus.1 s.focus.2 b b.pc n
      | none => enterRun w s.focus.1 s.focus.2 b s)

/-- RUNT closes a run: the registers it names become awaited, and each thread goes to its next PC (R38, R143, R149). -/
def execRunt (w : RuntForm) (s : State) : Host.Outcome State Fault Refusal :=
  .next (match bundleAt s s.focus.1 s.focus.2 with
    | none => s
    | some b =>
      match encodingTrap s b (.runt w) with
      | some n => trapAll s s.focus.1 s.focus.2 b b.pc n
      | none =>
        let s1 := b.threads.foldl (fun s k => awaitBy s k (awaitRegs (rawOf (.runt w)))) s
        dissolve s1 s.focus.1 s.focus.2 b)

end Sys2Proof.Machine
end

