-- ==== Sys2Proof/Machine/Barrier.lean ====
section
/-! DEFINITION. Barrier objects (R387 to R394). -/

namespace Sys2Proof.Machine

/-- A barrier object (R387). -/
structure BarObj where
  phase : Bool
  ovf : Bool
  cnta : Nat
  expa : Nat
  cntb : Nat
  expb : Nat
  deriving DecidableEq, Repr

/-- The offset of a team's barrier object i in its scratch (R387). -/
def barOff (t : Team) (i : Nat) : Nat := scratchSize t.desc - 16 * t.desc.bars + 16 * i

/-- Barrier object i of team id (R387). -/
def readBar (s : State) (id i : Nat) : BarObj :=
  let t := getTeam s id
  let w (j : Nat) : Nat := leAt t.scratch (barOff t i + 4 * j) 4
  { phase := decide (2 ^ 31 ≤ w 0), ovf := decide (w 0 / 2 ^ 30 % 2 = 1), cnta := w 0 % 2 ^ 20, expa := w 1 % 2 ^ 20, cntb := w 2, expb := w 3 }

/-- The bytes of a barrier object (R387). -/
def BarObj.bytes (o : BarObj) : List Byte :=
  leBytes 4 (b2n o.phase * 2 ^ 31 + b2n o.ovf * 2 ^ 30 + o.cnta) ++ leBytes 4 o.expa ++ leBytes 4 o.cntb ++ leBytes 4 o.expb

/-- Stores barrier object i of team id. -/
def writeBar (s : State) (id i : Nat) (o : BarObj) : State :=
  modTeam s id (fun t => { t with scratch := ksetList 0 t.scratch (barOff t i) o.bytes })

/-- The object after one completion (R388). -/
def BarObj.complete (o : BarObj) : BarObj :=
  { o with cnta := o.cnta - o.expa, cntb := o.cntb - o.expb, expb := 0, phase := !o.phase }

/-- True when a phase is complete (R388). -/
def BarObj.done (o : BarObj) : Bool := decide (o.expa ≠ 0 ∧ o.expa ≤ o.cnta ∧ o.expb ≤ o.cntb)

/-- The threads of team id that wait in BARW on object i for a parity other than the phase (R389). -/
def satisfied (s : State) (id i : Nat) (phase : Bool) : List Nat :=
  (threadsOfTeam s id).filter (fun k =>
    match (getThread s k).wait with
    | .barw j q => decide (j = i) && (q != phase) && !(getThread s k).exited
    | .none => false | .join _ => false | .halted => false | .yielded => false | .entering => false)

/-- The mask of a group among threads. -/
def groupMask (ks : List Nat) : Nat := ks.foldl (fun m k => m + 2 ^ (keyLin k % 32)) 0

/-- Waiters whose wait is satisfied go on; rec says whether a BARWAKE record is written for each group (R393, R434). -/
def wakeWaiters (s : State) (id i : Nat) (phase rec_ : Bool) : State :=
  let ks := satisfied s id i phase
  let gs := dedup (ks.map keyGroup)
  let s := if rec_ then gs.foldl (fun s g =>
      let mine := ks.filter (fun k => decide (keyGroup k = g))
      match mine with
      | [] => s
      | k :: _ => trace s 1 4 (traceAtThread s k (groupMask mine) (getThread s k).pc) (leBytes 2 i)) s
    else s
  ks.foldl (wakeBarw i) s

/-- The releases counted so far on object i are those of its completed phase; they stand for the next one too while counts carry into it
(R388, R393; log entry 2). -/
def phaseViews (s : State) (id i : Nat) (o : BarObj) : State :=
  let s := { s with order := addSync s.order (.completed id i) (syncOf s.order (.arrived id i)) }
  if o.cnta = 0 ∧ o.cntb = 0 then forget s (.arrived id i) else s

/-- check of R388, at most fuel completions: each writes a BARDONE record at the place given and wakes its waiters. -/
def barCheck (at_ : TraceAt) (id i : Nat) : Nat → State → State
  | 0, s => s
  | fuel + 1, s =>
    let o := readBar s id i
    if o.done then
      let o := o.complete
      let s := phaseViews (writeBar s id i o) id i o
      let s := trace s 1 3 at_ (leBytes 2 i ++ leBytes 2 (b2n o.phase) ++ leBytes 4 o.cnta ++ leBytes 4 o.cntb)
      barCheck at_ id i fuel (wakeWaiters s id i o.phase true)
    else s

/-- The completions a change can cause: the first, and one more for each further target of arrivals (R388). -/
def barFuel (o : BarObj) : Nat := if o.done then o.cnta / o.expa else 0

/-- An indivisible change to object i of team id, logged, followed by its check (R388, R436). -/
def changeBar (s : State) (id i : Nat) (log : LogAt) (at_ : TraceAt) (o : BarObj) : State :=
  let s := logAct s 2 log (scratchLoc (getTeam s id) (barOff (getTeam s id) i))
  barCheck at_ id i (barFuel o) (writeBar s id i o)

/-- The change agent a, no thread, makes: arrivals and bytes added, saturating with OVF, as a release of what it has written (R390, R391). -/
def agentBar (s : State) (a id i source core arrivals bytes : Nat) : State :=
  let s := giveTo s a (.arrived id i)
  let t := getTeam s id
  let o := readBar s id i
  let na := o.cnta + arrivals
  let nb := o.cntb + bytes
  let o := { o with cnta := min na 0xFFFFF, cntb := min nb 0xFFFFFFFF, ovf := o.ovf || decide (0xFFFFF < na ∨ 0xFFFFFFFF < nb) }
  changeBar s id i { source := source, core := core, asid := t.asid, thread := 0xFFFF } (traceAtTeam s id) o

/-- Causes of BARERR (R392). -/
def barTrap {α : Type} (cause : Nat) : Except Stop α := trapOf Trap.barerr cause

/-- The object index operand, which must name an object (R392). -/
def barIndex (s : State) (c : Ctx) (bad : Bool) (i : Nat) : Except Stop Nat :=
  if bad then poisonTrap
  else if (teamOf s c.k).desc.bars ≤ i then barTrap 1 else .ok i

/-- The change a thread makes to an object (R388, R434), a release of its earlier accesses (R393). -/
def threadBar (s : State) (c : Ctx) (i : Nat) (o : BarObj) : Act :=
  if logBlocked s 1 then .error .stall
  else .ok (changeBar (giveTo s c.k (.arrived (keyTeam c.k) i)) (keyTeam c.k) i { source := 0, core := (groupOf s c.k).core, asid := (teamOf s c.k).asid, thread := keyLin c.k }
    (traceAtThread s c.k (2 ^ (keyLin c.k % 32)) c.pc) o)

/-- BARI (R393). A BARI that sets PHASE to 0 releases every waiter with q = 1. -/
def actBari (c : Ctx) (s : State) : Act := do
  let a ← src s c .int c.raw.a
  let b ← src s c .int c.raw.b
  let i ← barIndex s c (a.poison || b.poison) a.bits.toNat
  if b.bits.toNat = 0 ∨ 0xFFFFF < b.bits.toNat then barTrap 2
  else
    let s1 ← threadBar (forget s (.completed (keyTeam c.k) i)) c i { phase := false, ovf := false, cnta := 0, expa := b.bits.toNat, cntb := 0, expb := 0 }
    .ok (wakeWaiters (forget s1 (.arrived (keyTeam c.k) i)) (keyTeam c.k) i false false)

/-- BARX (R393). -/
def actBarx (c : Ctx) (s : State) : Act := do
  let a ← src s c .int c.raw.a
  let b ← src s c .int c.raw.b
  let i ← barIndex s c (a.poison || b.poison) a.bits.toNat
  let o := readBar s (keyTeam c.k) i
  let arr := decide (c.raw.m = 1)
  if o.expa = 0 then barTrap 3
  else if 0xFFFFFFFF < o.expb + b.bits.toNat ∨ 0xFFFFF < o.cnta + b2n arr then barTrap 4
  else
    let s1 ← threadBar s c i { o with expb := o.expb + b.bits.toNat, cnta := o.cnta + b2n arr }
    .ok (if arr then postResult s1 c.k (dests c 1) (some [⟨wd (b2n o.phase), false⟩]) .plain else s1)

/-- BARA (R393). -/
def actBara (c : Ctx) (s : State) : Act := do
  let a ← src s c .int c.raw.a
  let b ← src s c .int c.raw.b
  let i ← barIndex s c (a.poison || b.poison) a.bits.toNat
  let o := readBar s (keyTeam c.k) i
  if 0xFFFFF < b.bits.toNat then barTrap 2
  else if o.expa = 0 then barTrap 3
  else if 0xFFFFF < o.cnta + b.bits.toNat then barTrap 4
  else
    let s1 ← threadBar s c i { o with cnta := o.cnta + b.bits.toNat }
    .ok (postResult s1 c.k (dests c 1) (some [⟨wd (b2n o.phase), false⟩]) .plain)

/-- The object and parity of a BARW, and whether its wait is satisfied (R389, R392). -/
def barwTest (c : Ctx) (s : State) : Except Stop (Nat × Bool × Bool) := do
  let a ← src s c .int c.raw.a
  let b ← src s c .int c.raw.b
  let i ← barIndex s c (a.poison || b.poison) a.bits.toNat
  let o := readBar s (keyTeam c.k) i
  let q := b.bits.getLsbD 0
  if o.expa = 0 then barTrap 3 else .ok (i, q, o.phase != q)

/-- The trailer of the run that the bundle's BARW ends, for a thread that will not reach it with its bundle (R38, R392). -/
def runTrailer (s : State) (b : Bundle) (k : Nat) : State := match b.form with | .d => trailerFor b s k | .l => s

/-- BARW: a thread whose wait is not satisfied leaves its bundle and waits at the BARW (R393, R394). -/
def actBarw (c : Ctx) (s : State) : Act := do
  let r ← barwTest c s
  if r.2.2 then .ok (passBarrier s c.k (keyTeam c.k) r.1)
  else
    match bundleAt s s.focus.1 s.focus.2 with
    | none => .ok s
    | some b =>
      let s1 := modThread (runTrailer s b c.k) c.k (fun t =>
        { t with wait := .barw r.1 r.2.1, pc := b.pc, next := some (fallThrough b), view := none, seq := seqAt b b.pc t, age := 0, overdue := none })
      .ok (leave s1 s1.focus.1 s1.focus.2 c.k)

/-- BARW.TRY (R393). -/
def actBarwTry (c : Ctx) (s : State) : Act := do
  let r ← barwTest c s
  .ok (postResult (if r.2.2 then passBarrier s c.k (keyTeam c.k) r.1 else s) c.k [c.raw.d] (some [⟨wd (b2n r.2.2), false⟩]) .plain)

/-- BART (R393). -/
def actBart (c : Ctx) (s : State) : Act := do
  let a ← src s c .int c.raw.a
  let i ← barIndex s c a.poison a.bits.toNat
  let t := teamOf s c.k
  .ok (postResult s c.k (dests c 1) (some [⟨wd (leAt t.scratch (barOff t i + 4 * c.raw.m) 4), false⟩]) .plain)

/-- What a thread's BARA or BARX.ARR adds, and the parity it finds, were it to act at s (R434). -/
def barArrival (c : Ctx) (s : State) : Nat × Bool × Nat :=
  let a := match src s c .int c.raw.a with | .ok v => v.bits.toNat | .error _ => 0
  let b := match src s c .int c.raw.b with | .ok v => v.bits.toNat | .error _ => 0
  (a, (readBar s (keyTeam c.k) a).phase, if c.raw.op = 0xC1 then 1 else b)

/-- The arrivals of a bundle's threads, as each found its object. -/
def barArrivals (i : Instr) (f : Ctx → State → Act) (b : Bundle) : List Nat → State → List (Nat × Nat × Bool × Nat)
  | [], _ => []
  | k :: r, s =>
    let c := ctxOf b i k
    let u := readied s b i k
    (k, barArrival c u) :: barArrivals i f b r (match f c u with | .ok t => t | .error _ => u)

/-- BARARR records, one for each group for an instruction, once no thread of the bundle waits to issue it (R434): the object and parity
of the group's lowest thread, and the group's arrivals. -/
def noteArrive (i : Instr) (f : Ctx → State → Act) (b : Bundle) (s0 : State) (did : List Nat) (s : State) : State :=
  match s.rlmode.getLsbD 1, bundleAt s s.focus.1 s.focus.2 with
  | true, some b1 =>
    let all := b.arrivals ++ barArrivals i f b did s0
    let ks := all.map (·.1)
    if b1.threads.all (fun k => decide (k ∈ ks)) then
      (byGroup ks).foldl (fun s e =>
        match all.filter (fun x => decide (x.1 ∈ e.2)) with
        | [] => s
        | (k, o, p, n) :: r =>
          trace s 1 2 (traceAtThread s0 k (groupMask e.2) b.pc)
            (leBytes 2 o ++ leBytes 2 (b2n p) ++ leBytes 4 (r.foldl (fun m x => m + x.2.2.2) n)))
        (setBundle s s.focus.1 s.focus.2 (some { b1 with arrivals := [] }))
    else setBundle s s.focus.1 s.focus.2 (some { b1 with arrivals := all })
  | true, none => s
  | false, _ => s

/-- BARI (R393). -/
def execBari (w : TForm) (s : State) : Host.Outcome State Fault Refusal := .next (issue (.bari w) actBari s)
/-- BARX (R393). -/
def execBarx (w : TForm) (s : State) : Host.Outcome State Fault Refusal :=
  .next (issueWith (.barx w) actBarx (if w.m = 1 then noteArrive (.barx w) actBarx else fun _ _ _ s => s) s)
/-- BARA (R393). -/
def execBara (w : TForm) (s : State) : Host.Outcome State Fault Refusal :=
  .next (issueWith (.bara w) actBara (noteArrive (.bara w) actBara) s)
/-- BARW (R393, R394). -/
def execBarw (w : TForm) (s : State) : Host.Outcome State Fault Refusal := .next (issue (.barw w) actBarw s)
/-- BARW.TRY (R393). -/
def execBarwTry (w : TForm) (s : State) : Host.Outcome State Fault Refusal := .next (issue (.barwTry w) actBarwTry s)
/-- BART (R393). -/
def execBart (w : TForm) (s : State) : Host.Outcome State Fault Refusal := .next (issue (.bart w) actBart s)

end Sys2Proof.Machine
end

