-- ==== Sys2Proof/Machine/Flags.lean ====
section
/-! DEFINITION. Predicates and carries: the comparisons (R168), the combination of a comparison with a predicate, and the carry
predicate of ADDC and SUBB (R160). No instruction sets another flag (R159). -/

namespace Sys2Proof.Machine

/-- The signed or unsigned value of a value operand by TY (R154). -/
def valTy (m : Nat) (v : DWord) : Int :=
  if m = 0 then v.lo.toInt else if m = 1 then v.lo.toNat else if m = 2 then v.toInt else v.toNat

/-- The comparison COND of two integers (R168). -/
def compareInt (cond : Nat) (a b : Int) : Bool :=
  match cond with
  | 0 => decide (a = b)
  | 1 => decide (a ≠ b)
  | 2 => decide (a < b)
  | 3 => decide (a ≤ b)
  | 4 => decide (b < a)
  | _ => decide (b ≤ a)

/-- A comparison combined with a predicate by BOP and NC (R168). -/
def combine (bop : Nat) (r : Bool) (p nc : Bool) : Bool :=
  let c := Bool.xor p nc
  match bop with
  | 0 => r
  | 1 => r && c
  | 2 => r || c
  | _ => Bool.xor r c

/-- Sum and carry of ADDC (R160). -/
def addCarry (a b : Word) (c : Bool) : Word × Bool :=
  let t := a.toNat + b.toNat + b2n c
  (wd t, decide (2 ^ 32 ≤ t))

/-- Difference and borrow of SUBB (R160). -/
def subBorrow (a b : Word) (c : Bool) : Word × Bool :=
  (a - b - wd (b2n c), decide (a.toNat < b.toNat + b2n c))

/-- The number of the carry predicate p(4+M) (R160). -/
def carryNum (m : Nat) : Nat := 4 + m

end Sys2Proof.Machine
end

