-- ==== Sys2Proof/Machine/Transc.lean ====
section
/-! DEFINITION. The special functions (R198): each value is computed in fixed point, with errors of a few units of 2^-193, and rounded
once. No F32 operand's exact value lies near enough to a boundary between two roundings for that error to matter (DEDUCED, log entry 9:
every operand was searched), so the rounding is that of the exact value. -/

namespace Sys2Proof.Machine

/-- Fraction bits of the fixed-point numbers here. -/
def fixBits : Nat := 200
/-- floor of π · 2^400. -/
def piFix : Nat :=
  0x3243f6a8885a308d313198a2e03707344a4093822299f31d0082efa98ec4e6c89452821e638d01377be5466cf34e90c6cc0ac
/-- floor of ln 2 · 2^200. -/
def ln2Fix : Nat := 0xb17217f7d1cf79abc9e3b39803f2f6af40f343267298b62d8a

/-- The product of two fixed-point numbers. -/
def mulFix (a b : Int) : Int := a * b / 2 ^ fixBits

/-- Σ term · t^k / (j · (j + 1) · …) from the term in hand on: the exponential series. -/
def expSum (t : Int) : Nat → Nat → Int → Int
  | 0, _, _ => 0
  | n + 1, j, term => term + expSum t n (j + 1) (mulFix term t / (j : Int))

/-- e^t for 0 ≤ t < 1, in fixed point. -/
def expFix (t : Int) : Int := expSum t 64 1 (2 ^ fixBits)

/-- The alternating series of sine (from j = 2, term t) and cosine (from j = 1, term 1). -/
def trigSum (t2 : Int) : Nat → Nat → Int → Int
  | 0, _, _ => 0
  | n + 1, j, term => term + trigSum t2 n (j + 2) (-(mulFix term t2 / ((j * (j + 1) : Nat) : Int)))

def sinFix (t : Int) : Int := trigSum (mulFix t t) 32 2 t
def cosFix (t : Int) : Int := trigSum (mulFix t t) 32 1 (2 ^ fixBits)

/-- Σ z^(2k+1) / (2k + 1): the series of atanh. -/
def athSum (z2 : Int) : Nat → Nat → Int → Int
  | 0, _, _ => 0
  | n + 1, j, p => p / (j : Int) + athSum z2 n (j + 2) (mulFix p z2)

/-- ln m for a fraction 1 ≤ m < 2 in fixed point: 2 atanh((m − 1) / (m + 1)). -/
def lnFix (m : Int) : Int :=
  let z := (m - 2 ^ fixBits) * 2 ^ fixBits / (m + 2 ^ fixBits)
  2 * athSum (mulFix z z) 72 1 z

/-- A fixed-point number times 2^e. -/
def fixXr (x : Int) (e : Int) : Xr :=
  match scaleTwo (decide (x < 0)) x.natAbs (e - fixBits) with
  | .fin s n d => .fin s n d
  | .nan => .nan
  | .inf s => .inf s

/-- RN of a computed value, in units of 2^(e − 200) (R198, log entry 9). -/
def decideRn (fzo : Bool) (x e : Int) : Word := BitVec.ofNat 32 (roundTo .f32 fzo .rn (fixXr x e))

/-- A fraction in fixed point, rounded down. -/
def toFix (neg : Bool) (n d : Nat) : Int := signedNum neg n * 2 ^ fixBits / (d : Int)

/-- EXP2 (R198). -/
def exp2W (fzo : Bool) : Xr → Word
  | .nan => nanW
  | .inf s => if s then 0 else 0x7F800000#32
  | .fin s n d =>
    let i := signedNum s n / (d : Int)
    if 128 ≤ i then 0x7F800000#32
    else if i < -150 then 0
    else
      let f := toFix false (signedNum s n - i * d).toNat d
      if f = 0 then BitVec.ofNat 32 (roundTo .f32 fzo .rn (scaleTwo false 1 i))
      else decideRn fzo (expFix (mulFix f ln2Fix)) i

/-- LOG2 (R198). -/
def log2W (fzo : Bool) : Xr → Word
  | .nan => nanW
  | .inf s => if s then nanW else 0x7F800000#32
  | .fin s n d =>
    if n = 0 then 0xFF800000#32
    else if s then nanW
    else
      let e := floorLog2 n d
      let m := if 0 ≤ e then toFix false n (d * 2 ^ e.toNat) else toFix false (n * 2 ^ (-e).toNat) d
      if m = 2 ^ fixBits then BitVec.ofNat 32 (roundTo .f32 fzo .rn (.fin (decide (e < 0)) e.natAbs 1))
      else decideRn fzo (e * 2 ^ fixBits + lnFix m * 2 ^ fixBits / (ln2Fix : Int)) 0

/-- The quarter turn nearest x and the rest, in fixed point, of a fraction (π to 400 bits, so that any F32 is reduced exactly
enough). -/
def reduceTurn (s : Bool) (n d : Nat) : Int × Int :=
  let x := signedNum s n * 2 ^ 400 / (d : Int)
  let h : Int := (piFix / 2 : Nat)
  let k := (2 * x + h) / (2 * h)
  (k, (x - k * h) / 2 ^ 200)

/-- SIN (R198). -/
def sinW (fzo : Bool) : Xr → Word
  | .nan => nanW
  | .inf _ => nanW
  | .fin s n d =>
    if n * 2 ^ 12 < d then BitVec.ofNat 32 (roundTo .f32 fzo .rn (.fin s n d))
    else
      let q := reduceTurn s n d
      let v := if q.1 % 2 = 0 then sinFix q.2 else cosFix q.2
      decideRn fzo (if q.1 % 4 < 2 then v else -v) 0

/-- COS (R198). -/
def cosW (fzo : Bool) : Xr → Word
  | .nan => nanW
  | .inf _ => nanW
  | .fin s n d =>
    if n = 0 then 0x3F800000#32
    else
      let q := reduceTurn s n d
      let v := if q.1 % 2 = 0 then cosFix q.2 else sinFix q.2
      decideRn fzo (if q.1 % 4 = 0 ∨ q.1 % 4 = 3 then v else -v) 0

/-- TANH (R198). -/
def tanhW (fzo : Bool) : Xr → Word
  | .nan => nanW
  | .inf s => if s then 0xBF800000#32 else 0x3F800000#32
  | .fin s n d =>
    if 9 * d ≤ n then (if s then 0xBF800000#32 else 0x3F800000#32)
    else if n * 2 ^ 12 < d then BitVec.ofNat 32 (roundTo .f32 fzo .rn (.fin s n d))
    else
      let y := toFix false (2 * n) d
      let k := y / (ln2Fix : Int)
      let ex := expFix (y - k * ln2Fix) * 2 ^ k.toNat
      let v := (ex - 2 ^ fixBits) * 2 ^ fixBits / (ex + 2 ^ fixBits)
      decideRn fzo (if s then -v else v) 0

/-- RSQ (R198). -/
def rsqW (fzo : Bool) : Xr → Word
  | .nan => nanW
  | .inf s => if s then nanW else 0
  | .fin s n d =>
    if n = 0 then (if s then 0xFF800000#32 else 0x7F800000#32)
    else if s then nanW
    else BitVec.ofNat 32 (roundTo .f32 fzo .rn (sqrtXr d n))

/-- The exact square root of SQRT's operand, as round_to needs it (R198). -/
def sqrtOf : Xr → Xr
  | .nan => .nan
  | .inf s => if s then .nan else .inf false
  | .fin s n d => if n = 0 then .fin s 0 1 else if s then .nan else sqrtXr n d

end Sys2Proof.Machine
end

