-- ==== Sys2Proof/Machine/Float.lean ====
section
/-! DEFINITION. F32 and packed F16 arithmetic, conversions and the special functions (R183 to R198). -/

namespace Sys2Proof.Machine

/-- FZI of a format in FPCTL (R59). -/
def fziOf (c : Word) : Fmt → Bool
  | .f32 => c.getLsbD 0 | .f16 => c.getLsbD 2 | .bf16 => c.getLsbD 4 | .f8a => c.getLsbD 6 | .f8b => c.getLsbD 8 | .a24 => false
/-- FZO of a format in FPCTL (R59). -/
def fzoOf (c : Word) : Fmt → Bool
  | .f32 => c.getLsbD 1 | .f16 => c.getLsbD 3 | .bf16 => c.getLsbD 5 | .f8a => c.getLsbD 7 | .f8b => c.getLsbD 9 | .a24 => false

/-- FPCTL of the issuing thread (R60, R186). -/
def fpctlOf (s : State) (c : Ctx) : Word := (getThread s c.k).fpctl

/-- An F32 pattern after FZI. -/
def inF32 (fp : Word) (w : Word) : Xr := readFmt .f32 (fziOf fp .f32) w.toNat
/-- round_to F32 with FZO (R57, R61). -/
def outF32 (fp : Word) (m : Rm) (x : Xr) : Word := wd (roundTo .f32 (fzoOf fp .f32) m x)

/-- An F32 source. -/
def srcF (s : State) (c : Ctx) (code : Nat) : Except Stop (Xr × Bool) := do
  let v ← src s c .f32 code
  .ok (inF32 (fpctlOf s c) v.bits, v.poison)

/-- The special-function instructions in flight from a picker (R197). -/
def sfuInFlight (s : State) (core picker : Nat) : List Nat :=
  dedup ((boundThreads s core picker).flatMap (fun k => (getThread s k).pend.filterMap Pending.sfuOp))

/-- A result of the special-function unit: pending, delivered in order (R145, R197). An instruction is named by the clock at its issue;
a 65th in flight waits at issue, but while the core is being halted (R408). -/
def postSfu (s : State) (c : Ctx) (vs : List RVal) : Act :=
  let g := groupOf s c.k
  let ops := sfuInFlight s g.core (pickerOf s (keyGroup c.k))
  if 64 ≤ ops.length ∧ ¬ s.clock ∈ ops ∧ haltingOn s g.core = false then .error .stall
  else .ok (postResult s c.k (dests c vs.length) (some vs) (.sfu s.clock))

/-- Two F32 operands, one rounding (R189). -/
def float2 (f : Rm → Xr → Xr → Xr) (c : Ctx) (s : State) : Act := do
  let a ← srcF s c c.raw.a
  let b ← srcF s c c.raw.b
  let m := rmOf c.raw.m
  .ok (dst s c ⟨outF32 (fpctlOf s c) m (f m a.1 b.1), a.2 || b.2⟩)

/-- A product and an addend, one rounding (R189); the addend is the code given. -/
def floatMac (code : Ctx → Nat) (c : Ctx) (s : State) : Act := do
  let a ← srcF s c c.raw.a
  let b ← srcF s c c.raw.b
  let d ← srcF s c (code c)
  let m := rmOf c.raw.m
  .ok (dst s c ⟨outF32 (fpctlOf s c) m (Xr.add m (Xr.mul a.1 b.1) d.1), a.2 || b.2 || d.2⟩)

/-- True when a stands before b, with −0 below +0 (R191). -/
def fpBelow (a b : Xr) : Bool :=
  if Xr.eq a b then (match a, b with | .fin s _ _, .fin t _ _ => s && !t | _, _ => false) else Xr.lt a b

/-- FMIN and FMAX on values (R191). -/
def fminX (a b : Xr) : Xr := if a.isNan then b else if b.isNan then a else if fpBelow b a then b else a
def fmaxX (a b : Xr) : Xr := if a.isNan then b else if b.isNan then a else if fpBelow a b then b else a

/-- FMIN and FMAX choose an operand (R191). -/
def floatPick (f : Xr → Xr → Xr) (c : Ctx) (s : State) : Act := do
  let a ← srcF s c c.raw.a
  let b ← srcF s c c.raw.b
  .ok (dst s c ⟨outF32 (fpctlOf s c) .rn (f a.1 b.1), a.2 || b.2⟩)

/-- FABS and FNEG: bit operations (R190). -/
def floatBits (f : Word → Word) (c : Ctx) (s : State) : Act := do
  let a ← src s c .f32 c.raw.a
  .ok (dst s c ⟨f a.bits, a.poison⟩)

def actFcps (c : Ctx) (s : State) : Act := do
  let a ← src s c .f32 c.raw.a
  let b ← src s c .f32 c.raw.b
  .ok (dst s c ⟨(a.bits &&& 0x7FFFFFFF#32) ||| (b.bits &&& 0x80000000#32), a.poison || b.poison⟩)

/-- The comparison of FCMP (R191). -/
def fpCompare (m : Nat) (a b : Xr) : Bool :=
  match m with
  | 0 => Xr.eq a b
  | 1 => Xr.lt a b
  | 2 => Xr.le a b
  | _ => a.isNan || b.isNan

def actFcmp (c : Ctx) (s : State) : Act := do
  let a ← srcF s c c.raw.a
  let b ← srcF s c c.raw.b
  .ok (dstP s c ⟨fpCompare c.raw.m a.1 b.1, a.2 || b.2⟩)

/-- The class mask of FCLASS (R192). -/
def classBits (f : Fmt) (v : Nat) : Word :=
  let sub := isSubnormal f v
  match decodeFmt f v with
  | .nan => 256
  | .inf s => if s then 1 else 128
  | .fin s n _ =>
    if n = 0 then (if s then 8 else 16)
    else if sub then (if s then 4 else 32)
    else (if s then 2 else 64)

/-- A source value in a format narrower than F32 or in F32: a constant stands in that format already (R26, R54, R452). -/
def constFmt (f : Fmt) (code : Nat) : Nat := roundTo f false .rn (decodeFmt .f32 (constF32 code).toNat)

/-- The bits of a source in a format (R54, R186, R194). -/
def srcFmt (s : State) (c : Ctx) (f : Fmt) (hi : Bool) (code : Nat) : Except Stop (Nat × Bool) := do
  if 112 ≤ code ∧ code < 120 then .ok (constFmt f code, false)
  else
    let v ← src s c .f32 code
    .ok ((if hi then v.bits.toNat / 65536 else v.bits.toNat) % 2 ^ (1 + expBits f + fracBits f), v.poison)

def actFclass (c : Ctx) (s : State) : Act := do
  let f : Fmt := if c.raw.m = 0 then .f32 else if c.raw.m = 1 then .f16 else .bf16
  let a ← srcFmt s c f false c.raw.a
  .ok (dst s c ⟨classBits f a.1, a.2⟩)

/-- FRND on a value (R193). -/
def frndX (m : Rm) : Xr → Xr
  | .nan => .nan
  | .inf s => .inf s
  | .fin s n d => .fin s (roundMag m s n d) 1

def actFrnd (c : Ctx) (s : State) : Act := do
  let a ← srcF s c c.raw.a
  .ok (dst s c ⟨outF32 (fpctlOf s c) .rn (frndX (rmOf c.raw.m) a.1), a.2⟩)

/-- FRACT on a value (R193). -/
def fractX : Xr → Xr
  | .nan => .nan
  | .inf _ => .nan
  | .fin s n d => .fin false (signedNum s n - signedNum s n / (d : Int) * d).toNat d

def actFract (c : Ctx) (s : State) : Act := do
  let a ← srcF s c c.raw.a
  .ok (dst s c ⟨outF32 (fpctlOf s c) .rd (fractX a.1), a.2⟩)

/-- FDIV runs on the special-function unit (R189, R197). -/
def actFdiv (c : Ctx) (s : State) : Act := do
  let a ← srcF s c c.raw.a
  let b ← srcF s c c.raw.b
  postSfu s c [⟨outF32 (fpctlOf s c) (rmOf c.raw.m) (Xr.div a.1 b.1), a.2 || b.2⟩]

/-- A special function of one operand: f is given the rounding mode, FZO and the operand's value (R198). -/
def special (f : Rm → Bool → Xr → Word) (c : Ctx) (s : State) : Act := do
  let v ← src s c .f32 c.raw.a
  let fp := fpctlOf s c
  postSfu s c [⟨f (rmOf c.raw.m) (fzoOf fp .f32) (inF32 fp v.bits), v.poison⟩]

/-- 1 / a (R198). -/
def rcpX (a : Xr) : Xr := Xr.div (.fin false 1 1) a

-- packed F16

/-- Half h of a packed value after F16_FZI (R55, R196). -/
def halfOf (fp w : Word) (h : Nat) : Xr := readFmt .f16 (fziOf fp .f16) (w.toNat / 65536 ^ h % 65536)
/-- Two halves packed, each rounded with F16_FZO. -/
def packHalf (fp : Word) (m : Rm) (lo hi : Xr) : Word :=
  wd (roundTo .f16 (fzoOf fp .f16) m lo + 65536 * roundTo .f16 (fzoOf fp .f16) m hi)

def actPack2 (c : Ctx) (s : State) : Act := do
  let a ← srcF s c c.raw.a
  let b ← srcF s c c.raw.b
  .ok (dst s c ⟨packHalf (fpctlOf s c) (rmOf c.raw.m) a.1 b.1, a.2 || b.2⟩)

def half2 (f : Rm → Xr → Xr → Xr) (c : Ctx) (s : State) : Act := do
  let a ← src s c .half2 c.raw.a
  let b ← src s c .half2 c.raw.b
  let fp := fpctlOf s c
  let m := rmOf c.raw.m
  let e (h : Nat) := f m (halfOf fp a.bits h) (halfOf fp b.bits h)
  .ok (dst s c ⟨packHalf fp m (e 0) (e 1), a.poison || b.poison⟩)

def actHfma2 (c : Ctx) (s : State) : Act := do
  let a ← src s c .half2 c.raw.a
  let b ← src s c .half2 c.raw.b
  let d ← src s c .half2 c.raw.d
  let fp := fpctlOf s c
  let m := rmOf c.raw.m
  let e (h : Nat) := Xr.add m (Xr.mul (halfOf fp a.bits h) (halfOf fp b.bits h)) (halfOf fp d.bits h)
  .ok (dst s c ⟨packHalf fp m (e 0) (e 1), a.poison || b.poison || d.poison⟩)

-- CVT (R194, R195)

/-- The floating-point format of a CVT type code 0 to 4. -/
def cvtFmt (t : Nat) : Fmt := if t = 0 then .f32 else if t = 1 then .f16 else if t = 2 then .bf16 else if t = 3 then .f8a else .f8b

/-- The range of an integer CVT type code (R58). -/
def cvtRange (t : Nat) : Int × Int :=
  match t with
  | 6 => (-128, 127)
  | 7 => (0, 255)
  | 8 => (-2 ^ 31, 2 ^ 31 - 1)
  | 9 => (0, 2 ^ 32 - 1)
  | 10 => (-2 ^ 63, 2 ^ 63 - 1)
  | _ => (0, 2 ^ 64 - 1)

/-- The integer a pattern stands for in an integer CVT type. -/
def cvtInt (t : Nat) (v : DWord) : Int :=
  match t with
  | 6 => (v.setWidth 8).toInt
  | 7 => (v.setWidth 8).toNat
  | 8 => v.lo.toInt
  | 9 => v.lo.toNat
  | 10 => v.toInt
  | _ => v.toNat

/-- A CVT source: an integer, or an exact value. -/
inductive CvtVal where
  | int (i : Int)
  | num (x : Xr)

/-- The source of CVT (R194). -/
def cvtSrc (s : State) (c : Ctx) (fp : Word) : Except Stop (CvtVal × Bool) :=
  let t := c.raw.e / 16 % 16
  let code := c.raw.a
  if t ≤ 4 then
    match srcFmt s c (cvtFmt t) (decide (c.raw.e / 256 % 2 = 1)) code with
    | .error e => .error e
    | .ok v => .ok (.num (readFmt (cvtFmt t) (fziOf fp (cvtFmt t)) v.1), v.2)
  else if t = 5 then
    if 112 ≤ code ∧ code < 120 then .ok (.num (sx8Value (toSx8 .rn (f32 (constF32 code)))), false)
    else match src s c .int code with
      | .error e => .error e
      | .ok v => .ok (.num (sx8Value (v.bits.toNat % 256)), v.poison)
  else if t ≤ 9 then
    match src s c .int code with
    | .error e => .error e
    | .ok v => .ok (.int (cvtInt t (v.bits.setWidth 64)), v.poison)
  else
    match srcD s c (if t = 10 then .s64 else .n64) code with
    | .error e => .error e
    | .ok v => .ok (.int (cvtInt t v.bits), v.poison)

/-- The bits CVT writes (R195). -/
def cvtOut (fp : Word) (m : Rm) (t : Nat) (v : CvtVal) : DWord :=
  let x : Xr := match v with | .int i => Xr.ofInt i | .num x => x
  if t ≤ 4 then BitVec.ofNat 64 (roundTo (cvtFmt t) (fzoOf fp (cvtFmt t)) m x)
  else if t = 5 then BitVec.ofNat 64 (toSx8 m x)
  else
    let r := cvtRange t
    let i := match v with | .int i => max r.1 (min r.2 i) | .num x => toIntSat m r.1 r.2 x
    if t = 6 ∨ t = 7 then (BitVec.ofInt 8 i).setWidth 64
    else if t ≤ 9 then (BitVec.ofInt 32 i).setWidth 64
    else BitVec.ofInt 64 i

def actCvt (c : Ctx) (s : State) : Act := do
  let fp := fpctlOf s c
  let v ← cvtSrc s c fp
  let t := c.raw.e % 16
  let r := cvtOut fp (rmOf c.raw.m) t v.1
  if 10 ≤ t then .ok (dstD s c ⟨r, v.2⟩) else .ok (dst s c ⟨r.lo, v.2⟩)

/-- FADD (R189). -/
def execFadd (w : TForm) (s : State) : Host.Outcome State Fault Refusal :=
  .next (issue (.fadd w) (float2 Xr.add) s)

/-- FSUB (R189). -/
def execFsub (w : TForm) (s : State) : Host.Outcome State Fault Refusal :=
  .next (issue (.fsub w) (float2 Xr.sub) s)

/-- FMUL (R189). -/
def execFmul (w : TForm) (s : State) : Host.Outcome State Fault Refusal :=
  .next (issue (.fmul w) (float2 (fun _ => Xr.mul)) s)

/-- FFMA (R189). -/
def execFfma (w : TForm) (s : State) : Host.Outcome State Fault Refusal :=
  .next (issue (.ffma w) (floatMac (fun c => c.raw.d)) s)

/-- FFMA4 (R189). -/
def execFfma4 (w : XForm) (s : State) : Host.Outcome State Fault Refusal :=
  .next (issue (.ffma4 w) (floatMac (fun c => c.raw.c)) s)

/-- FMIN (R191). -/
def execFmin (w : TForm) (s : State) : Host.Outcome State Fault Refusal :=
  .next (issue (.fmin w) (floatPick fminX) s)

/-- FMAX (R191). -/
def execFmax (w : TForm) (s : State) : Host.Outcome State Fault Refusal :=
  .next (issue (.fmax w) (floatPick fmaxX) s)

/-- FABS (R190). -/
def execFabs (w : TForm) (s : State) : Host.Outcome State Fault Refusal :=
  .next (issue (.fabs w) (floatBits (fun w => w &&& 0x7FFFFFFF#32)) s)

/-- FNEG (R190). -/
def execFneg (w : TForm) (s : State) : Host.Outcome State Fault Refusal :=
  .next (issue (.fneg w) (floatBits (fun w => w ^^^ 0x80000000#32)) s)

/-- FCPS (R190). -/
def execFcps (w : TForm) (s : State) : Host.Outcome State Fault Refusal :=
  .next (issue (.fcps w) actFcps s)

/-- FCMP (R191). -/
def execFcmp (w : TForm) (s : State) : Host.Outcome State Fault Refusal :=
  .next (issue (.fcmp w) actFcmp s)

/-- FCLASS (R192). -/
def execFclass (w : TForm) (s : State) : Host.Outcome State Fault Refusal :=
  .next (issue (.fclass w) actFclass s)

/-- FRND (R193). -/
def execFrnd (w : TForm) (s : State) : Host.Outcome State Fault Refusal :=
  .next (issue (.frnd w) actFrnd s)

/-- FRACT (R193). -/
def execFract (w : TForm) (s : State) : Host.Outcome State Fault Refusal :=
  .next (issue (.fract w) actFract s)

/-- FDIV (R189). -/
def execFdiv (w : TForm) (s : State) : Host.Outcome State Fault Refusal :=
  .next (issue (.fdiv w) actFdiv s)

/-- PACK2 (R196). -/
def execPack2 (w : TForm) (s : State) : Host.Outcome State Fault Refusal :=
  .next (issue (.pack2 w) actPack2 s)

/-- HADD2 (R196). -/
def execHadd2 (w : TForm) (s : State) : Host.Outcome State Fault Refusal :=
  .next (issue (.hadd2 w) (half2 Xr.add) s)

/-- HMUL2 (R196). -/
def execHmul2 (w : TForm) (s : State) : Host.Outcome State Fault Refusal :=
  .next (issue (.hmul2 w) (half2 (fun _ => Xr.mul)) s)

/-- HFMA2 (R196). -/
def execHfma2 (w : TForm) (s : State) : Host.Outcome State Fault Refusal :=
  .next (issue (.hfma2 w) actHfma2 s)

/-- RCP (R198). -/
def execRcp (w : TForm) (s : State) : Host.Outcome State Fault Refusal :=
  .next (issue (.rcp w) (special (fun m z x => wd (roundTo .f32 z m (rcpX x)))) s)

/-- RSQ (R198). -/
def execRsq (w : TForm) (s : State) : Host.Outcome State Fault Refusal :=
  .next (issue (.rsq w) (special (fun _ z x => rsqW z x)) s)

/-- SQRT (R198). -/
def execSqrt (w : TForm) (s : State) : Host.Outcome State Fault Refusal :=
  .next (issue (.sqrt w) (special (fun m z x => wd (roundTo .f32 z m (sqrtOf x)))) s)

/-- EXP2 (R198). -/
def execExp2 (w : TForm) (s : State) : Host.Outcome State Fault Refusal :=
  .next (issue (.exp2 w) (special (fun _ z x => exp2W z x)) s)

/-- LOG2 (R198). -/
def execLog2 (w : TForm) (s : State) : Host.Outcome State Fault Refusal :=
  .next (issue (.log2 w) (special (fun _ z x => log2W z x)) s)

/-- SIN (R198). -/
def execSin (w : TForm) (s : State) : Host.Outcome State Fault Refusal :=
  .next (issue (.sin w) (special (fun _ z x => sinW z x)) s)

/-- COS (R198). -/
def execCos (w : TForm) (s : State) : Host.Outcome State Fault Refusal :=
  .next (issue (.cos w) (special (fun _ z x => cosW z x)) s)

/-- TANH (R198). -/
def execTanh (w : TForm) (s : State) : Host.Outcome State Fault Refusal :=
  .next (issue (.tanh w) (special (fun _ z x => tanhW z x)) s)

/-- CVT (R194, R195). -/
def execCvt (w : XForm) (s : State) : Host.Outcome State Fault Refusal :=
  .next (issue (.cvt w) actCvt s)

end Sys2Proof.Machine
end

