-- ==== Sys2Proof/Machine/Atomic.lean ====
section
/-! DEFINITION. Atomics (R274 to R276), ordered reductions and their drain (R277 to R279, R395, R396), fences and
instruction-buffer invalidation (R280, R281). -/

namespace Sys2Proof.Machine

/-- Bytes of an atomic's or reduction's operand by OPC (R275). -/
def atomBytes (opc : Nat) : Nat :=
  if opc ∈ [0x01, 0x05, 0x06, 0x0A, 0x0B, 0x0E, 0x10, 0x12, 0x14, 0x16] then 8 else 4

/-- A signed number of w bytes. -/
def signedAt (w v : Nat) : Int := if w = 8 then (BitVec.ofNat 64 v).toInt else (BitVec.ofNat 32 v).toInt

/-- The new value of a read-modify-write: old value, data, and for CAS the value to store (R276). fp is the FPCTL captured. -/
def atomNew (opc : Nat) (fp : Word) (old d nw : Nat) : Nat :=
  let w := atomBytes opc
  let wrap (x : Nat) : Nat := x % 2 ^ (8 * w)
  let fl (f : Xr → Xr → Xr) : Nat := (outF32 fp .rn (f (inF32 fp (wd old)) (inF32 fp (wd d)))).toNat
  match opc with
  | 0x00 => wrap (old + d)
  | 0x01 => wrap (old + d)
  | 0x02 => fl (Xr.add .rn)
  | 0x03 => if signedAt 4 old ≤ signedAt 4 d then old else d
  | 0x04 => min old d
  | 0x05 => if signedAt 8 old ≤ signedAt 8 d then old else d
  | 0x06 => min old d
  | 0x07 => fl fminX
  | 0x08 => if signedAt 4 d ≤ signedAt 4 old then old else d
  | 0x09 => max old d
  | 0x0A => if signedAt 8 d ≤ signedAt 8 old then old else d
  | 0x0B => max old d
  | 0x0C => fl fmaxX
  | 0x0D => old &&& d
  | 0x0E => old &&& d
  | 0x0F => old ||| d
  | 0x10 => old ||| d
  | 0x11 => old ^^^ d
  | 0x12 => old ^^^ d
  | 0x13 => d
  | 0x14 => d
  | 0x15 => if old = d then nw else old
  | 0x16 => if old = d then nw else old
  | 0x17 => if d ≤ old then 0 else old + 1
  | _ => if old = 0 ∨ d < old then d else old - 1

/-- True for a CAS (R276). -/
def isCas (opc : Nat) : Bool := decide (opc = 0x15 ∨ opc = 0x16)

/-- The data words of an atomic: its D group (R275). -/
def atomData (s : State) (c : Ctx) (n : Nat) : Except Stop (List RVal) :=
  if n = 1 then (match src s c .int c.raw.d with | .ok v => .ok [v] | .error e => .error e)
  else srcN s c c.raw.d n

/-- The number in a list of words, the first lowest. -/
def wordsNat (vs : List RVal) : Nat := leNat (vs.flatMap (fun v => leBytes 4 v.bits.toNat))

/-- The log's place of thread k (R436). -/
def logAtThread (s : State) (k : Nat) : LogAt :=
  { source := 0, core := (groupOf s k).core, asid := (teamOf s k).asid, thread := keyLin k }

/-- ATS and ATG (R274, R276). -/
def actAtomic (sp : Space) (c : Ctx) (s : State) : Act := do
  let opc := atomOpc c.raw.b
  let w := atomBytes opc
  let n := atomRegs opc
  let a ← (if sp = .global then srcD s c .n64 c.raw.a
    else match src s c .int c.raw.a with | .ok v => .ok ⟨v.bits.setWidth 64, v.poison⟩ | .error e => .error e)
  let d ← atomData s c n
  if a.poison || anyBad d then poisonTrap
  else
    let p ← storePlace s c sp a.bits.toNat w .rw
    match readLoc s p.1 w with
    | .error _ => .error (.trap Trap.eccu 6 (placeOf sp a.bits.toNat))
    | .ok _ =>
      if logBlocked s 1 then .error .stall
      else
        let fp := fpctlOf s c
        let lo := wordsNat (if isCas opc then d.take (n / 2) else d)
        let hi := wordsNat (d.drop (n / 2))
        let acc := atomAcc c.raw.m (atomScope c.raw.b)
        let s1 := logAct (noteAccess s c.k sp acc p.2) 1 (logAtThread s c.k) (locKey s p.1)
        let r := updateAs s1 c.k acc p.1 w (fun old => if isCas opc && decide (old ≠ lo) then none else some (atomNew opc fp old lo hi))
        let s2 := acquireL1 (if isCas opc && decide (r.1 ≠ lo) then r.2 else noteOwned r.2 p.1 w) c.k acc
        let ds := if c.raw.d = 127 then [] else atomWrites opc c.raw.d
        .ok (postResult s2 c.k ds (some (((List.range (w / 4)).map (fun k => ⟨wd (r.1 / 2 ^ (32 * k)), false⟩)))) .plain)

-- ordered reductions

/-- Entry a stands before entry b in drain order (R396). -/
def redBefore (a b : RedEntry) : Bool :=
  if a.core ≠ b.core then decide (a.core < b.core)
  else if a.picker ≠ b.picker then decide (a.picker < b.picker)
  else if a.linear ≠ b.linear then decide (a.linear < b.linear)
  else if a.group ≠ b.group then decide (a.group < b.group)
  else if a.thread ≠ b.thread then decide (a.thread < b.thread)
  else decide (a.order ≤ b.order)

/-- Inserts an entry in drain order. -/
def insertRed (x : RedEntry) : List RedEntry → List RedEntry
  | [] => [x]
  | y :: r => if redBefore x y then x :: y :: r else y :: insertRed x r

/-- Entries in drain order. -/
def sortRed : List RedEntry → List RedEntry
  | [] => []
  | x :: r => insertRed x (sortRed r)

/-- The undrained entries of grid pod, in its buffers and in the spill area (R395). -/
def gridEntries (s : State) (pod : Nat) : List RedEntry :=
  ((kvals s.cores).flatMap (fun c => (kvals c.redbuf).flatMap id) ++ s.redSpilled).filter (fun e => decide (e.grid = pod))

/-- The oldest flush number among entries, before it wraps (R396). -/
def oldestFlush (es : List RedEntry) : Option Nat := (es.map (·.flush)).min?

/-- Room in the spill area (R395). -/
def spillRoom (s : State) : Bool :=
  s.redspill.getLsbD 63 && decide (s.redSpilled.length < 2048 * 2 ^ (s.redspill.toNat % 16))

/-- The buffer of a picker (R395). -/
def redBuffer (s : State) (core picker : Nat) : List RedEntry := kget [] (getCore s core).redbuf picker

/-- An entry enters its buffer; when it is full its oldest entry moves to the spill area, and without room there the RED waits (R395),
but while the issuing core is being halted (R408). -/
def putRed (s : State) (core : Nat) (e : RedEntry) : Act :=
  let buf := redBuffer s e.core e.picker
  if 256 ≤ buf.length ∧ (spillRoom s = true ∨ haltingOn s core = false) then
    if spillRoom s then
      .ok (modCore { s with redSpilled := s.redSpilled ++ buf.take 1 } e.core
        (fun c => { c with redbuf := kput c.redbuf e.picker (buf.drop 1 ++ [e]) }))
    else .error .stall
  else .ok (modCore s e.core (fun c => { c with redbuf := kput c.redbuf e.picker (buf ++ [e]) }))

/-- The type of an operand by OPC: F32 for the F32 operations (R26, R275). -/
def atomTy (opc : Nat) : Ty := if opc = 0x02 ∨ opc = 0x07 ∨ opc = 0x0C then .f32 else .int

/-- RED (R277): the address is translated and checked as a store's, and must lie in device memory. -/
def actRed (c : Ctx) (s : State) : Act := do
  let opc := atomOpc c.raw.b
  let w := atomBytes opc
  let a ← srcD s c .n64 c.raw.a
  let d ← (if w = 8 then (match srcD s c .n64 c.raw.d with
      | .ok v => .ok [⟨v.bits.lo, v.poison⟩, ⟨v.bits.hi, v.poison⟩] | .error e => .error e)
    else match src s c (atomTy opc) c.raw.d with | .ok v => .ok [v] | .error e => .error e : Except Stop (List RVal))
  if a.poison || anyBad d then poisonTrap
  else
    let p ← storeFound s c .global a.bits.toNat w .w
    match p.1 with
    | .scratch _ _ => .error (.trap Trap.space 0 (placeOf .global a.bits.toNat))
    | .carve _ => .error (.trap Trap.space 0 (placeOf .global a.bits.toNat))
    | .phys pa =>
      if !isDevice pa then .error (.trap Trap.space 0 (placeOf .global a.bits.toNat))
      else if busErr s pa then .error (.trap Trap.pfault MFault.busErr.code (placeOf .global a.bits.toNat))
      else
        let t := teamOf s c.k
        let s1 := noteAccess s c.k .global { Acc.store with strong := true, scope := 4 } p.2
        putRed { s1 with fresh := s1.fresh + 1 } (groupOf s c.k).core
          { grid := t.grid, gridVa := teamPodVa s t, asid := t.asid, pa := pa, opc := opc, lo := (d.getD 0 RVal.zero).bits,
            hi := (d.getD 1 RVal.zero).bits, fpctl := fpctlOf s c, core := t.home, picker := homePickerOf s (keyGroup c.k),
            linear := t.linear, group := keyGroup c.k % 32, thread := keyLin c.k % 32, order := s1.fresh,
            flush := (getThread s c.k).flush }

/-- RFLUSH raises the flush number, waiting when it would run 2^31 or more ahead of the oldest entries (R279, R396). -/
def actRflush (c : Ctx) (s : State) : Act :=
  let f := (getThread s c.k).flush + 1
  match oldestFlush (gridEntries s (teamOf s c.k).grid) with
  | some o => if o + 2 ^ 31 ≤ f then .error .stall else .ok (modThread s c.k (fun t => { t with flush := f }))
  | none => .ok (modThread s c.k (fun t => { t with flush := f }))

/-- A thread whose flush number is f has flushed n, both as they wrap (R396). -/
def flushed (f n : Nat) : Bool := let d := (wd f - wd n).toNat; decide (1 ≤ d ∧ d < 2 ^ 31)

/-- True when team id has flushed n: each launched thread has passed it or exited; a kill counts as exit (R279, R396). -/
def teamFlushed (s : State) (id : Nat) (n : Nat) : Bool :=
  (getTeam s id).killed || (threadsOfTeam s id).all (fun k => (getThread s k).exited || flushed (getThread s k).flush n)

/-- The teams of a grid in all. -/
def gridTeams (g : Grid) : Nat := g.dims.1 * g.dims.2.1 * g.dims.2.2

/-- True when no further team of the grid will be placed (R131, R20, R427). -/
def placementOver (g : Grid) : Bool := g.stopped.isSome || g.killed.isSome || decide (gridTeams g ≤ g.next)

/-- True when every team of the grid, placed or not, has flushed n (R396). -/
def gridFlushed (s : State) (g : Grid) (n : Nat) : Bool :=
  placementOver g &&
  s.teams.all (fun e => decide (e.2.grid ≠ g.pod) || teamFlushed s e.1 n) &&
  s.saved.all (fun t => decide (t.team.grid ≠ g.pod) || g.killed.isSome || t.flush.all (fun f => flushed f n))

/-- The flush number of the grid that may drain now. -/
def drainable (s : State) (g : Grid) : Option Nat :=
  (oldestFlush (gridEntries s g.pod)).bind (fun o => if gridFlushed s g o then some o else none)

/-- combine of R396: one atomic write of an entry into its location (R278, R385). -/
def drainEntry (s : State) (e : RedEntry) : State :=
  let w := atomBytes e.opc
  let s1 := touchMarrow s (match findGrid s e.grid with | some g => g.cls | none => 0) e.pa false
  mergeAs (noteOwned s1 (.phys e.pa) w) (drainAgent e.grid) drainAcc (.phys e.pa)
    (leBytes w (atomNew e.opc e.fpctl (rdMem s e.pa w) (e.lo.toNat + 2 ^ 32 * (if w = 8 then e.hi.toNat else 0)) 0))

/-- Without the entries that match. -/
def dropEntries (s : State) (m : RedEntry → Bool) : State :=
  { s with
    redSpilled := s.redSpilled.filter (fun e => !m e),
    cores := s.cores.map (fun c => (c.1, { c.2 with redbuf := c.2.redbuf.map (fun b => (b.1, b.2.filter (fun e => !m e))) })) }

/-- The first of the oldest entries of grid pod drain, in order, when every team has flushed their number and no grid of a lower pod address
drains first; how many drain before another agent's access comes between is a free choice (R386, R396). -/
def drainGrid (pod : Nat) (s : State) : State :=
  match findGrid s pod with
  | none => s
  | some g =>
    match drainable s g with
    | none => s
    | some n =>
      if s.grids.any (fun h => decide (h.va < g.va ∨ (h.va = g.va ∧ h.pod < g.pod)) && (drainable s h).isSome) then s
      else
        let all := sortRed ((gridEntries s pod).filter (fun e => decide (e.flush = n)))
        let c := choosePlace s ((List.range all.length).map (· + 1))
        let es := if all.length ≤ 1 then all else all.take c.1
        dropEntries (es.foldl drainEntry c.2) (fun e => decide (e ∈ es))

/-- FENCE, its scope in B[5:3] (R280): an acquire at .CLU or wider empties the home core's L1 (R375). -/
def actFence (c : Ctx) (s : State) : Act :=
  let scope := descScope c.raw.b
  .ok (acquireL1 (fence s c.k c.raw.m scope) c.k { Acc.read with acq := decide (c.raw.m ≠ 1), scope := scope })

/-- Lines of the team's ASID are dropped from every instruction buffer, after a release at device scope; what the thread is ordered after reaches
the fetches of those lines that come after (R281, R418). -/
def invalidateCode (s : State) (k : Nat) (va : Option Nat) : State :=
  let asid := (teamOf s k).asid
  dropCode (giveTo (releaseAt s k 4) k (.code asid (match va with | some a => a / 128 + 1 | none => 0))) asid va

/-- ICINV.LINE: the line of the team's ASID is dropped from every instruction buffer (R281). -/
def actIcinvLine (c : Ctx) (s : State) : Act := do
  let a ← srcD s c .n64 c.raw.a
  if a.poison then poisonTrap else .ok (invalidateCode s c.k (some a.bits.toNat))

/-- ICINV.ALL (R281). -/
def actIcinvAll (c : Ctx) (s : State) : Act := .ok (invalidateCode s c.k none)

/-- ATS (R276). -/
def execAts (w : TForm) (s : State) : Host.Outcome State Fault Refusal := .next (issue (.ats w) (actAtomic .scratch) s)
/-- ATG (R276). -/
def execAtg (w : TForm) (s : State) : Host.Outcome State Fault Refusal := .next (issue (.atg w) (actAtomic .global) s)
/-- RED (R277). -/
def execRed (w : TForm) (s : State) : Host.Outcome State Fault Refusal := .next (issue (.red w) actRed s)
/-- RFLUSH (R279). -/
def execRflush (w : TForm) (s : State) : Host.Outcome State Fault Refusal := .next (issue (.rflush w) actRflush s)
/-- FENCE (R280). -/
def execFence (w : TForm) (s : State) : Host.Outcome State Fault Refusal := .next (issue (.fence w) actFence s)
/-- ICINV.LINE (R281). -/
def execIcinvLine (w : TForm) (s : State) : Host.Outcome State Fault Refusal := .next (issue (.icinvLine w) actIcinvLine s)
/-- ICINV.ALL (R281). -/
def execIcinvAll (w : TForm) (s : State) : Host.Outcome State Fault Refusal := .next (issue (.icinvAll w) actIcinvAll s)
/-- Entries of one flush number drain (R396). -/
def execReductionDrain (pod : Nat) (s : State) : Host.Outcome State Fault Refusal := .next (drainGrid pod s)

end Sys2Proof.Machine
end

