-- ==== Sys2Proof/Machine/Mem.lean ====
section
/-! DEFINITION. Loads, stores, masked stores and prefetch (R263 to R272). -/

namespace Sys2Proof.Machine

/-- Bytes of an access by SZ (R264). -/
def szBytes (sz : Nat) : Nat :=
  match sz with | 0 => 1 | 1 => 1 | 2 => 2 | 3 => 2 | 4 => 4 | 5 => 8 | _ => 16

/-- The address operand of a space: a pair for global space (R263). -/
def addrOf (s : State) (c : Ctx) (sp : Space) : Except Stop DVal :=
  if sp = .global then srcD s c .n64 c.raw.a
  else match src s c .int c.raw.a with
    | .ok v => .ok ⟨v.bits.setWidth 64, v.poison⟩
    | .error e => .error e

/-- The words a load writes for the value v it read (R268). -/
def loadWords (sz v : Nat) : List Word :=
  match sz with
  | 1 => [(BitVec.ofNat 8 v).signExtend 32]
  | 3 => [(BitVec.ofNat 16 v).signExtend 32]
  | _ => (List.range (szRegs sz)).map (fun k => wd (v / 2 ^ (32 * k)))

/-- What a load's pending result keeps for the replay list, with the words of the instruction at the context's PC (R411). -/
def loadWordsAt (s : State) (c : Ctx) (addr : Nat) : PendKind :=
  match bundleAt s s.focus.1 s.focus.2 with
  | some b => .load s.clock s.order.next ((b.wordAt c.pc).getD 0) (word2At b c.pc) addr
  | none => .plain

/-- A load (R268): a poisoned address delivers poison without an access (R240). -/
def actLoad (sp : Space) (c : Ctx) (s : State) : Act := do
  let sz := descSz c.raw.b
  let n := szRegs sz
  let a ← addrOf s c sp
  if a.poison then .ok (postResult s c.k (dests c n) (some (List.replicate n RVal.bad)) .plain)
  else
    let r ← loadThread s c sp (loadAcc sp c.raw.m (descScope c.raw.b)) a.bits.toNat (szBytes sz)
    let vs := match r.2 with
      | none => List.replicate n RVal.bad
      | some v => (loadWords sz v).map (fun w => ⟨w, false⟩)
    .ok (postResult r.1 c.k (dests c n) (some vs) (loadWordsAt s c a.bits.toNat))

/-- The data group of a store: n registers from D on (R266). -/
def storeRegs (s : State) (c : Ctx) (n : Nat) : Except Stop (List RVal) :=
  if n = 1 then (match src s c .int c.raw.d with | .ok v => .ok [v] | .error e => .error e)
  else if n = 2 then
    (match srcD s c .n64 c.raw.d with | .ok v => .ok [⟨v.bits.lo, v.poison⟩, ⟨v.bits.hi, v.poison⟩] | .error e => .error e)
  else srcN s c c.raw.d n

/-- The bytes of a list of registers. -/
def regBytes (vs : List RVal) : List Byte := vs.flatMap (fun v => leBytes 4 v.bits.toNat)

/-- A store (R269). -/
def actStore (sp : Space) (c : Ctx) (s : State) : Act := do
  let sz := descSz c.raw.b
  let a ← addrOf s c sp
  let d ← storeRegs s c (szRegs sz)
  if a.poison || anyBad d then poisonTrap
  else storeThread s c sp (storeAcc sp c.raw.m (descScope c.raw.b)) a.bits.toNat ((regBytes d).take (szBytes sz))

/-- The bytes of storage a store of w bytes at a reaches. -/
def placesAt (s : State) (k : Nat) (sp : Space) (a w : Nat) : List (Loc × Nat) :=
  match resolve s k sp a w .w with
  | .ok l _ => [(l, w)]
  | .space => []
  | .fault _ _ => []

/-- The places one thread's store writes. -/
def storePlaces (sp : Space) (c : Ctx) (s : State) : List (Loc × Nat) :=
  match addrOf s c sp with
  | .ok a => placesAt s c.k sp a.bits.toNat (szBytes (descSz c.raw.b))
  | .error _ => []

/-- A poisoned line that the store instruction of the bundle has written whole loses its mark (R243). -/
def clearAfter (i : Instr) (places : Ctx → State → List (Loc × Nat)) (b : Bundle) (s0 : State) (did : List Nat) (s : State) : State :=
  clearLines s (did.flatMap (fun k => places (ctxOf b i k) s0))

/-- A store instruction. -/
def issueStore (i : Instr) (sp : Space) (s : State) : State := issueWith i (actStore sp) (clearAfter i (storePlaces sp)) s

/-- The byte addresses STGM selects, with the number of the data byte (R271). -/
def selected (a mask n : Nat) : List (Nat × Nat) :=
  ((List.range n).filter (fun i => decide (mask / 2 ^ i % 2 = 1))).map (fun i => ((a + i) % 2 ^ 64, i))

/-- The checks of STGM's bytes: a trap, or their places (R271). -/
def stgmPlaces (s : State) (c : Ctx) : List (Nat × Nat) → Except Stop (List (Loc × Found × Nat))
  | [] => .ok []
  | (a, i) :: r =>
    match storePlace s c .global a 1 .w with
    | .error e => .error e
    | .ok (l, f) => match stgmPlaces s c r with
      | .error e => .error e
      | .ok ps => .ok ((l, f, i) :: ps)

/-- Data bytes of STGM by M (R271). -/
def stgmBytes (m : Nat) : Nat := if m = 0 then 4 else if m = 1 then 8 else 16

/-- STGM writes the bytes selected, or none (R271); it counts once in LQERR however many owned bytes it touches (R103). -/
def actStgm (c : Ctx) (s : State) : Act := do
  let n := stgmBytes c.raw.m
  let a ← srcD s c .n64 c.raw.a
  let d ← storeRegs s c (n / 4)
  let b ← src s c .int c.raw.b
  if a.poison || anyBad d || b.poison then poisonTrap
  else
    let ps ← stgmPlaces s c (selected a.bits.toNat b.bits.toNat n)
    let bytes := regBytes d
    let own := ps.any (fun p => match p.1 with | .phys pa => owned s pa | .scratch _ _ => false | .carve _ => false)
    let s := if own then countLqerr s else s
    .ok (ps.foldl (fun s p => writeAs (noteAccess s c.k .global Acc.store p.2.1) c.k Acc.store p.1 [bytes.getD p.2.2 0]) s)

/-- The places one thread's STGM writes. -/
def stgmSpan (c : Ctx) (s : State) : List (Loc × Nat) :=
  match srcD s c .n64 c.raw.a, src s c .int c.raw.b with
  | .ok a, .ok b => (selected a.bits.toNat b.bits.toNat (stgmBytes c.raw.m)).flatMap (fun p => placesAt s c.k .global p.1 1)
  | .error _, _ => []
  | .ok _, .error _ => []

/-- PREF leaves what a load of its line leaves, for .MAR of one that the L1 does not serve, and nothing where the line cannot be
fetched (R272). -/
def actPref (c : Ctx) (s : State) : Act := do
  let a ← srcD s c .n64 c.raw.a
  let at_ := a.bits.toNat
  if a.poison then .ok s
  else
    let f := resolve s c.k .global at_ 1 .r
    match f with
    | .ok l (some p) =>
      if p.nc then .ok s
      else
        let acc := if c.raw.m = 0 then Acc.read else { Acc.read with strong := true, scope := 4 }
        match readLoc s l 1 with | .ok _ => .ok (noteAccess s c.k .global acc f) | .error _ => .ok s
    | .ok _ none => .ok s
    | .space => .ok s
    | .fault _ _ => .ok s

/-- LDP: private space (R268). -/
def execLdp (w : TForm) (s : State) : Host.Outcome State Fault Refusal := .next (issue (.ldp w) (actLoad .priv) s)
/-- LDS: scratch space (R268). -/
def execLds (w : TForm) (s : State) : Host.Outcome State Fault Refusal := .next (issue (.lds w) (actLoad .scratch) s)
/-- LDC: cluster space (R268). -/
def execLdc (w : TForm) (s : State) : Host.Outcome State Fault Refusal := .next (issue (.ldc w) (actLoad .cluster) s)
/-- LDG: global space (R268). -/
def execLdg (w : TForm) (s : State) : Host.Outcome State Fault Refusal := .next (issue (.ldg w) (actLoad .global) s)
/-- LDK: carve space (R268). -/
def execLdk (w : TForm) (s : State) : Host.Outcome State Fault Refusal := .next (issue (.ldk w) (actLoad .carve) s)
/-- LDA: the argument frame (R268). -/
def execLda (w : TForm) (s : State) : Host.Outcome State Fault Refusal := .next (issue (.lda w) (actLoad .arg) s)
/-- STP: private space (R269). -/
def execStp (w : TForm) (s : State) : Host.Outcome State Fault Refusal := .next (issueStore (.stp w) .priv s)
/-- STS: scratch space (R269). -/
def execSts (w : TForm) (s : State) : Host.Outcome State Fault Refusal := .next (issueStore (.sts w) .scratch s)
/-- STC: cluster space (R269). -/
def execStc (w : TForm) (s : State) : Host.Outcome State Fault Refusal := .next (issueStore (.stc w) .cluster s)
/-- STG: global space (R269). -/
def execStg (w : TForm) (s : State) : Host.Outcome State Fault Refusal := .next (issueStore (.stg w) .global s)
/-- STK: carve space (R269). -/
def execStk (w : TForm) (s : State) : Host.Outcome State Fault Refusal := .next (issueStore (.stk w) .carve s)
/-- STGM (R271). -/
def execStgm (w : TForm) (s : State) : Host.Outcome State Fault Refusal :=
  .next (issueWith (.stgm w) actStgm (clearAfter (.stgm w) stgmSpan) s)
/-- PREF (R272). -/
def execPref (w : TForm) (s : State) : Host.Outcome State Fault Refusal := .next (issue (.pref w) actPref s)

end Sys2Proof.Machine
end

