-- ==== Sys2Proof/Machine/Image.lean ====
section
/-! DEFINITION. The group context image (R412, R413), and mapping a thread's state between the encodings (R13, R216, R217). -/

namespace Sys2Proof.Machine

/-- n rounded up to a multiple of m. -/
def roundUp (n m : Nat) : Nat := (n + m - 1) / m * m

/-- The size of a thread record (R412). -/
def threadRecSize (vreg : Nat) : Nat := roundUp (256 + 4 * vreg) 128

/-- The size of a group context image (R412). -/
def groupImageSize (vreg uregs : Nat) : Nat := 2432 + roundUp (4 * uregs) 128 + 32 * threadRecSize vreg

/-- Eight predicates, their values and then their marks, as bytes (R413). -/
def predBytes (p : KMap PVal) : List Byte :=
  let bit (f : PVal → Bool) : Nat := (List.range 8).foldl (fun m i => m + b2n (f (kget PVal.zero p i)) * 2 ^ i) 0
  leBytes 1 (bit (·.val)) ++ leBytes 1 (bit (·.poison))

/-- A number with bit i set where f i holds, i below n. -/
def maskOf (n : Nat) (f : Nat → Bool) : Nat := (List.range n).foldl (fun m i => m + b2n (f i) * 2 ^ i) 0

/-- MIGST of a group (R225). -/
def migst (s : State) (g : Nat) : Nat :=
  let x := getGroup s g
  x.migCount * 2 ^ 24 + x.migLast * 256 + (match classOfCore (getTeam s (g / 32)).home with | .d => 0 | .l => 2) + b2n (visiting s g)

/-- MIGST after a decision (R222, R223). -/
def noteMove (s : State) (g last : Nat) : State :=
  modGroup s g (fun x => { x with migLast := last, migCount := if last = 1 then min 255 (x.migCount + 1) else x.migCount })

/-- The twin PC of an equivalence point (R217). -/
def twinPc (e : EqpEntry) (f : Form) : Word := match f with | .d => e.dpc - 4 | .l => e.lpc

/-- The entry whose twin PC in a form is pc, among n entries from j on. -/
def findTwin (s : State) (asid tab : Nat) (f : Form) (pc : Word) : Nat → Nat → Option EqpEntry
  | _, 0 => none
  | j, n + 1 =>
    let a := tab + 16 * j
    match vread s asid a 2, vread s asid (a + 2) 2, vread s asid (a + 4) 4, vread s asid (a + 8) 4, vread s asid (a + 12) 4 with
    | .ok e, .ok live, .ok d, .ok l, .ok m =>
      let x : EqpEntry := { num := e, dpc := wd d, lpc := wd l, map := m, nmap := live }
      if twinPc x f = pc then some x else findTwin s asid tab f pc (j + 1) n
    | .error _, _, _, _, _ => none
    | _, .error _, _, _, _ => none
    | _, _, .error _, _, _ => none
    | _, _, _, .error _, _ => none
    | _, _, _, _, .error _ => none

/-- The equivalence point at whose twin PC every live thread of group g stands, each at call depth 0 (R232) and outside its trap
handler (R220). -/
def twinOf (s : State) (g : Nat) : Option EqpEntry :=
  let t := getTeam s (g / 32)
  match liveOfGroup s g with
  | [] => none
  | k :: r =>
    let pc := (getThread s k).pc
    if (k :: r).all (fun j => decide ((getThread s j).pc = pc ∧ (getThread s j).csp.toNat = t.desc.priv ∧ (getThread s j).seq = none ∧ (getThread s j).intrap = false)) then
      findTwin s t.asid t.desc.eqptab (classOf s k) pc 0 t.desc.eqpcount
    else none

/-- The operand code that a trailer names a pending result by (R38). -/
def awaitName (p : Pending) : Nat := match p.dests with | [] => 127 | d :: _ => if 128 ≤ d then d - 48 else d

/-- The awaited set of a thread (R413): the first three of its awaited results, which is all that a record holds. -/
def awaitedBytes (t : Thread) : List Byte :=
  let ws := (t.pend.filter (·.awaited)).map awaitName
  (List.range 3).map (fun i => BitVec.ofNat 8 (ws.getD i 127))

/-- The record of thread k (R413): a thread in its handler shows the sequence position its trap saved. -/
def threadRecord (s : State) (k vreg : Nat) : List Byte :=
  let t := getThread s k
  let present := decide (keyLin k < teamThreads (teamOf s k)) && !t.exited
  if !present then List.replicate (threadRecSize vreg) 0#8
  else
    let f := classOf s k
    let sv : Saved := t.saved.getD { fpctl := 0, csp := 0, p := [], x := [], seq := none, eqp := none }
    let seq := if t.intrap then (if t.rpcWritten then none else sv.seq) else t.seq
    let x := if t.intrap then sv.x else t.regs.x
    let at_ := if t.intrap then kget 0 t.frec 14 else t.pc
    let join := match t.wait with | .join _ => some t.pc | .none => t.joinPc | .barw _ _ => t.joinPc | .halted => t.joinPc | .yielded => t.joinPc | .entering => t.joinPc
    let nx := match f with | .d => 16 | .l => 4
    let xr (i : Nat) : RVal := kget RVal.zero x (64 + i)
    let posw := match seq with
      | none => 0
      | some q => (match f with
        | .d => q.xmask + ((at_ - q.head).toNat / 4 % 32) * 2 ^ 16
        | .l => maskOf 4 (fun i => (kfind x (64 + i)).isSome) + ((at_.toNat % 12 / 4) * 2 ^ 16) + q.packet % 8 * 2 ^ 21)
    leBytes 4 t.pc.toNat ++ leBytes 4 t.fpctl.toNat ++ leBytes 4 t.csp.toNat ++ predBytes t.regs.p ++
    leBytes 2 (1 + 2 * b2n t.intrap + 4 * b2n join.isSome + 8 * b2n seq.isSome) ++
    leBytes 4 (join.getD 0).toNat ++ leBytes 4 t.flush ++ leBytes 4 (eqnOf t.eqp).toNat ++ leBytes 4 posw ++
    leBytes 4 sv.fpctl.toNat ++ leBytes 4 sv.csp.toNat ++ predBytes sv.p ++ leBytes 2 0 ++ leBytes 4 0 ++
    awaitedBytes t ++ [0#8] ++ leBytes 2 (maskOf nx (fun i => (xr i).poison)) ++ leBytes 2 0 ++
    leBytes 8 (maskOf vreg (fun i => (kget RVal.zero t.regs.v i).poison)) ++
    (List.range 16).flatMap (fun i => leBytes 4 (xr i).bits.toNat) ++
    leBytes 4 t.psnlo.toNat ++ leBytes 4 t.psnhi.toNat ++ leBytes 4 t.psnpc.toNat ++ leBytes 4 t.psninfo.toNat ++
    leBytes 4 t.marchcfg.toNat ++ List.replicate 44 0#8 ++
    (List.range 16).flatMap (fun i => leBytes 4 ((kget 0 t.frec i).toNat ||| (if i = 0 ∧ t.intrap then 0x8000 else 0))) ++
    padTo (threadRecSize vreg - 256) ((List.range vreg).flatMap (fun i => leBytes 4 (kget RVal.zero t.regs.v i).bits.toNat))

-- the replay list (R411)

/-- A load of a group that is left to be performed later: the instruction, its words, and each thread's address by its index. -/
structure Replay where
  op : Nat
  word : Word
  word2 : Word
  addrs : KMap Nat

/-- The loads whose results group g's live threads have pending, one entry for each instruction, in issue order. -/
def replays (s : State) (g : Nat) : List Replay :=
  let all := (liveOfGroup s g).flatMap (fun k => (getThread s k).pend.filterMap (fun p =>
    match p.kind with
    | .load op _ w w2 a => some (⟨op, w, w2, [(keyLin k % 32, a)]⟩ : Replay)
    | .plain => none | .sfu _ => none | .collective => none))
  (sortBy (fun a b => decide (a ≤ b)) (dedup (all.map (·.op)))).filterMap (fun n =>
    (all.find? (fun r => decide (r.op = n))).map (fun r =>
      { r with addrs := (all.filter (fun x => decide (x.op = n))).flatMap (·.addrs) }))

/-- An entry of the replay list (R411). -/
def replayBytes (r : Replay) : List Byte :=
  leBytes 4 r.word.toNat ++ leBytes 4 r.word2.toNat ++ leBytes 4 (maskOf 32 (fun i => (kfind r.addrs i).isSome)) ++ leBytes 4 0 ++
    (List.range 32).flatMap (fun i => leBytes 8 (kget 0 r.addrs i))

/-- The context image of group g (R412). The loads whose results are still pending are those left unperformed (R411). -/
def groupImage (s : State) (g : Nat) : List Byte :=
  let t := getTeam s (g / 32)
  let x := getGroup s g
  let f := classOfCore x.core
  let vreg := vregOf t.desc f
  let tw := twinOf s g
  let rs := (replays s g).take 8
  leBytes 4 0x58544347 ++ leBytes 1 vreg ++ leBytes 1 t.desc.uregs ++
  leBytes 2 ((match f with | .d => 0 | .l => 1) + 2 * b2n tw.isSome + 4 * b2n (visiting s g)) ++
  leBytes 4 (maskOf 32 (fun i => decide (groupThread g i ∈ liveOfGroup s g))) ++
  leBytes 2 (g % 32) ++ leBytes 1 x.homeSlot ++ leBytes 1 rs.length ++ leBytes 4 (migst s g) ++
  leBytes 4 (match tw with | some e => e.num | none => 0) ++
  leBytes 16 (maskOf t.desc.uregs (fun i => (kget RVal.zero x.uregs i).poison)) ++
  leBytes 8 t.desc.addr ++ leBytes 4 (groupImageSize vreg t.desc.uregs) ++ List.replicate 204 0#8 ++ padTo 2176 (rs.flatMap replayBytes) ++
  padTo (roundUp (4 * t.desc.uregs) 128) ((List.range t.desc.uregs).flatMap (fun i => leBytes 4 (kget RVal.zero x.uregs i).bits.toNat)) ++
  (List.range 32).flatMap (fun i => threadRecord s (groupThread g i) vreg)

/-- A field of n bytes at an offset of an image. -/
def imgNat (b : List Byte) (o n : Nat) : Nat := leNat ((b.drop o).take n)
/-- A word of an image. -/
def imgWord (b : List Byte) (o : Nat) : Word := wd (imgNat b o 4)

/-- Predicates from their two bytes. -/
def predsFrom (v m : Nat) : KMap PVal :=
  (List.range 8).foldl (fun p i => kset PVal.zero p i ⟨decide (v / 2 ^ i % 2 = 1), decide (m / 2 ^ i % 2 = 1)⟩) []

/-- n registers of an image from offset o on, with a mask of marks, as a register table from code c on. -/
def regsFrom (b : List Byte) (o n marks c : Nat) (r : KMap RVal) : KMap RVal :=
  (List.range n).foldl (fun r i => kset RVal.zero r (c + i) ⟨imgWord b (o + 4 * i), decide (marks / 2 ^ i % 2 = 1)⟩) r

/-- The temporaries or latches of a thread record that hold a value: those of XMASK, or the valid latches (R413). -/
def xFrom (b : List Byte) (n have_ : Nat) : KMap RVal :=
  (List.range n).foldl (fun r i =>
    if have_ / 2 ^ i % 2 = 1 then kput r (64 + i) ⟨imgWord b (0x40 + 4 * i), decide (imgNat b 0x34 2 / 2 ^ i % 2 = 1)⟩ else r) []

/-- The most recent EQP that an image names (R413). -/
def eqpFrom (s : State) (t : Team) (w : Word) : Option EqpRef :=
  if w.getLsbD 31 then
    match findEqp s t.asid t.desc.eqptab (w.toNat % 4096) 0 t.desc.eqpcount with
    | .ok (some e) => some { num := e.num, dpc := e.dpc, lpc := e.lpc, cls := if w.getLsbD 12 then .l else .d }
    | .ok none => none
    | .error _ => none
  else none

/-- The results a thread had pending, awaited as the awaited set of its record says; past three, which is all that the set holds, as they
were (R413, log entry 40). -/
def awaitedFrom (b : List Byte) (ps : List Pending) : List Pending :=
  let ws := (List.range 3).map (fun i => imgNat b (0x30 + i) 1)
  let many := decide (3 < (ps.filter (·.awaited)).length)
  ps.map (fun p => { p with awaited := p.dests.any (fun d => decide ((if 128 ≤ d then d - 48 else d) ∈ ws)) || (many && p.awaited) })

/-- Thread k from its record b in an image of a form (R413, R415): a live thread; one that the image does not hold has exited. -/
def threadFrom (s : State) (k : Nat) (f : Form) (vreg : Nat) (b : List Byte) : Thread :=
  let t := teamOf s k
  let fl := imgNat b 0x0E 2
  let pc := imgWord b 0
  let intrap := decide (fl / 2 % 2 = 1)
  let inseq := decide (fl / 8 % 2 = 1)
  let posw := imgNat b 0x1C 4
  let frec := wordTable ((List.range 16).map (fun i => if i = 0 then imgWord b 0xC0 &&& ~~~0x8000#32 else imgWord b (0xC0 + 4 * i)))
  let at_ := if intrap then kget 0 frec 14 else pc
  let seq : Option Seq := if inseq then some (match f with
      | .d => { head := at_ - wd (4 * (posw / 2 ^ 16 % 32)), packet := 0, xmask := posw % 2 ^ 16, begun := decide (2 ≤ posw / 2 ^ 16 % 32) }
      | .l => { head := wd (at_.toNat / 12 * 12 - 12 * (posw / 2 ^ 21 % 8)), packet := posw / 2 ^ 21 % 8, xmask := 0, begun := true })
    else none
  let x := if inseq then (match f with | .d => xFrom b 16 (posw % 2 ^ 16) | .l => xFrom b 4 (posw % 16)) else []
  { Thread.initial with
    exited := decide (fl % 2 = 0), pc := pc, fpctl := imgWord b 4, csp := imgWord b 8,
    regs := { v := regsFrom b 0x100 vreg (imgNat b 0x38 8) 0 [], x := if intrap then [] else x, p := predsFrom (imgNat b 0xC 1) (imgNat b 0xD 1) },
    joinPc := if fl / 4 % 2 = 1 then some (imgWord b 0x10) else none,
    flush := if (getThread s k).flush % 2 ^ 32 = imgNat b 0x14 4 then (getThread s k).flush else imgNat b 0x14 4, eqp := eqpFrom s t (imgWord b 0x18),
    psnlo := imgWord b 0x80, psnhi := imgWord b 0x84, psnpc := imgWord b 0x88, psninfo := imgWord b 0x8C, marchcfg := imgWord b 0x90,
    frec := frec, intrap := intrap,
    saved := if intrap then some { fpctl := imgWord b 0x20, csp := imgWord b 0x24, p := predsFrom (imgNat b 0x28 1) (imgNat b 0x29 1), x := x, seq := seq, eqp := eqpFrom s t (kget 0 frec 3) } else none,
    seq := if intrap then none else seq }

/-- The record of group thread n in a group image (R412). -/
def recordIn (b : List Byte) (n : Nat) : List Byte :=
  let size := threadRecSize (imgNat b 4 1)
  (b.drop (0x980 + roundUp (4 * imgNat b 5 1) 128 + n * size)).take size

/-- The space of a load instruction. -/
def loadSpace : Instr → Option Space
  | .ldp _ => some .priv
  | .lds _ => some .scratch
  | .ldc _ => some .cluster
  | .ldg _ => some .global
  | .ldk _ => some .carve
  | .lda _ => some .arg
  | _ => none

/-- A load of the replay list is performed for thread k, and its result written (R240, R268, R411). An entry that no save writes, which
traps or is no load, writes nothing (log entry 43). -/
def replayLoad (s : State) (k : Nat) (i : Instr) (a : Nat) : State :=
  match loadSpace i with
  | none => s
  | some sp =>
    let c : Ctx := { k := k, form := classOf s k, pc := (getThread s k).pc, raw := rawOf i }
    let sz := descSz c.raw.b
    match loadThread s c sp (loadAcc sp c.raw.m (descScope c.raw.b)) a (szBytes sz) with
    | .error _ => s
    | .ok (s1, v) =>
      let vs : List RVal := match v with | none => List.replicate (szRegs sz) RVal.bad | some v => (loadWords sz v).map (fun w => ⟨w, false⟩)
      modThread s1 k (fun t => { t with regs := t.regs.writeList (dests c (szRegs sz)) vs })

/-- Entry b of group g's replay list is performed (R411). -/
def replayEntry (g : Nat) (b : List Byte) (s : State) : State :=
  match decodeWords [imgWord b 0, imgWord b 4] with
  | .error _ => s
  | .ok (i, _) => (liveOfGroup s g).foldl (fun s k =>
      let n := keyLin k % 32
      if imgNat b 8 4 / 2 ^ n % 2 = 1 then replayLoad s k i (imgNat b (16 + 8 * n) 8) else s) s

/-- Group g's threads and uniform registers from its image, on a core, slot and register ranges (R415); threads that stand at their join PC
wait there; and its replay list is performed. -/
def loadGroup (s : State) (g core slot vbase visitBase : Nat) (b : List Byte) : State :=
  let f : Form := if imgNat b 6 2 % 2 = 1 then .l else .d
  let vreg := imgNat b 4 1
  let ur := imgNat b 5 1
  let s := modGroup s g (fun x =>
    { x with core := core, slot := slot, vbase := vbase, visitBase := visitBase, uregs := regsFrom b 0x980 ur (imgNat b 0x18 16) 0 [], uview := none, swapped := none,
             migCount := imgNat b 0x13 1, migLast := imgNat b 0x11 1 % 8, lowPicks := 0 })
  let s := (launchedOfGroup s g).foldl (fun s k =>
    let old := getThread s k
    let t := threadFrom s k f vreg (recordIn b (keyLin k % 32))
    let s := match t.eqp with | some e => noteEqp s k e.num | none => s
    startJoin (setThread s k (if t.exited then { old with exited := true } else { t with clockHi := old.clockHi, homeV := old.homeV, joined := old.joined })) k) s
  (List.range (min 8 (imgNat b 0xF 1))).foldl (fun s i => replayEntry g ((b.drop (0x100 + 272 * i)).take 272) s) s

-- moving between encodings

/-- The state map of an equivalence point: pairs of D-form and L-form register numbers (R13); an error is the fault met. -/
def readMap (s : State) (asid at_ : Nat) : Nat → Except MFault (List (Nat × Nat))
  | 0 => .ok []
  | n + 1 =>
    match vread s asid at_ 1, vread s asid (at_ + 1) 1, readMap s asid (at_ + 2) n with
    | .ok d, .ok l, .ok r => .ok ((d % 64, l % 64) :: r)
    | .error e, _, _ => .error e
    | _, .error e, _ => .error e
    | _, _, .error e => .error e

/-- What reading an equivalence point and its state map for thread k's team leaves (R246, R262). -/
def noteMap (s : State) (k : Nat) (e : EqpEntry) : State :=
  let t := teamOf s k
  noteSpan (noteEqp s k e.num) t.asid (teamClass s t) (t.desc.mapoff + e.map) (2 * e.nmap)

/-- What looking for group g's twin leaves, for its image (R232). -/
def noteTwin (s : State) (g : Nat) : State :=
  match twinOf s g with | some e => noteEqp s (groupThread g 0) e.num | none => s

/-- The vector registers in a form, carried over by a map; the others hold what the slot taken holds (R216). -/
def mapRegs (m : List (Nat × Nat)) (to_ : Form) (v base : KMap RVal) : KMap RVal :=
  m.foldl (fun r e =>
    match to_ with
    | .l => kset RVal.zero r e.2 (kget RVal.zero v e.1)
    | .d => kset RVal.zero r e.1 (kget RVal.zero v e.2)) base

/-- A result that is pending across a move is written by the map: its register's, or none where the map does not name it (R223). -/
def carryPending (m : List (Nat × Nat)) (to_ : Form) (p : Pending) : Pending :=
  { p with dests := p.dests.map (fun d =>
      if 64 ≤ d then d
      else match to_ with
        | .l => ((m.find? (fun e => decide (e.1 = d))).map (·.2)).getD 127
        | .d => ((m.find? (fun e => decide (e.2 = d))).map (·.1)).getD 127) }

/-- Thread k in the other encoding at an equivalence point (R216, R223). On a slot newly taken the dead registers are 0; back on the
home slot they hold what they held when the group left. -/
def moveThread (s : State) (k : Nat) (m : List (Nat × Nat)) (e : EqpEntry) (to_ : Form) (toHome : Bool) : State :=
  modThread s k (fun t =>
    { t with
      regs := { v := mapRegs m to_ t.regs.v (if toHome then t.homeV else []), x := [], p := t.regs.p },
      homeV := if toHome then [] else t.regs.v,
      pc := twinPc e to_, next := none, view := none, seq := none, joinPc := none, joined := [], wait := .none, age := 0, overdue := none, lpr := none,
      pend := t.pend.map (carryPending m to_) })

end Sys2Proof.Machine
end

