-- ==== Sys2Proof/Machine/Pods.lean ====
section
/-! DEFINITION. The launch unit's steps at pods: fields (R100), completion and join counters (R104), arming (R109, R118),
ready queues (R106 to R108) and the pending-launch queue (R113). A pod is named by the physical address of its line. -/

namespace Sys2Proof.Machine

/-- A field of n bytes of the pod at pa (R100). -/
def podGet (s : State) (pa off n : Nat) : Nat := rdMem s (pa + off) n
/-- Sets a field of n bytes of the pod at pa, for agent a (R114): each thread's own steps are its writes. -/
def podPut (s : State) (a pa off n v : Nat) : State := unitWrite s a (pa + off) (leBytes n v)
def podSet (s : State) (pa off n v : Nat) : State := podPut s launchAgent pa off n v

def podJoin (s : State) (pa : Nat) : Nat := podGet s pa 0x10 4
def podKind (s : State) (pa : Nat) : Nat := podGet s pa 0x14 1
def podClass (s : State) (pa : Nat) : Nat := podGet s pa 0x15 1
def podPrio (s : State) (pa : Nat) : Nat := podGet s pa 0x16 1
def podStatus (s : State) (pa : Nat) : Nat := podGet s pa 0x17 1
def podNsucc (s : State) (pa : Nat) : Nat := podGet s pa 0x2A 2
def podScap (s : State) (pa : Nat) : Nat := podGet s pa 0x2C 2
def podAsid (s : State) (pa : Nat) : Nat := podGet s pa 0x2E 2
def podSucc (s : State) (pa : Nat) : Nat := podGet s pa 0x30 8

/-- STATUS codes (R102). -/
def stBuilt : Nat := 0
def stArmed : Nat := 1
def stReady : Nat := 2
def stRunning : Nat := 3
def stDone : Nat := 5
def stKilled : Nat := 6
def stBadPod : Nat := 0x10
def stNoFit : Nat := 0x11
def stSecver : Nat := 0x12
def stBadNode : Nat := 0x13
def stEngFault : Nat := 0x14

/-- Result codes of the launch instructions (R114). -/
def resSpilled : Nat := 1
def resWaiting : Nat := 2
def resAlready : Nat := 3
def resBadState : Nat := 0x10
def resFull : Nat := 0x11
def resBadPod : Nat := 0x12
def resBadVal : Nat := 0x13
def resListFault : Nat := 0x14

/-- The queue number of a pod: 8 · CLASS + PRIO (R106). -/
def podQueue (s : State) (pa : Nat) : Nat := 8 * podClass s pa + podPrio s pa

/-- 0 for the placement list, 1 for the engine list (R106). -/
def podList (s : State) (pa : Nat) : Nat := podKind s pa / 2

/-- The pods of one list of queue q, head first. -/
def queueOf (s : State) (q l : Nat) : List Nat := kget [] s.queues (2 * q + l)

/-- Sets one list of queue q. -/
def setQueue (s : State) (q l : Nat) (ps : List Nat) : State := { s with queues := kset [] s.queues (2 * q + l) ps }

/-- The pod at pa joins the tail of its queue: it is linked behind the pod before it (R104, R106). What LINK holds is not stated: here the
physical address of the next pod's line, and 0 at the tail and once the pod has left (DESIGN CHOICE, log entry 54). -/
def enqueueTail (s : State) (pa : Nat) : State :=
  let q := podQueue s pa
  let l := podList s pa
  let ps := queueOf s q l
  let s := match ps.getLast? with | some t => podSet s t 0x38 8 pa | none => s
  setQueue (podSet s pa 0x38 8 0) q l (ps ++ [pa])

/-- The pod at pa leaves its queue wherever it stands: the pod before it is linked to the one behind it. -/
def dequeue (s : State) (pa : Nat) : State :=
  let q := podQueue s pa
  let l := podList s pa
  let ps := queueOf s q l
  if pa ∈ ps then
    let i := ps.idxOf pa
    let s := if i = 0 then s else podSet s (ps.getD (i - 1) 0) 0x38 8 (ps.getD (i + 1) 0)
    setQueue (podSet s pa 0x38 8 0) q l (ps.filter (fun p => decide (p ≠ pa)))
  else s

/-- Each step that is made atomically at a pod writes a record (R104, R436). -/
def podLog (s : State) (pa : Nat) : State :=
  logAct s 3 { source := 3, core := 0, asid := podAsid s pa, thread := 0xFFFF } pa

/-- The team's pending-launch queue has a free entry (R113). -/
def pendingRoom (s : State) (id : Nat) : Bool := decide ((getTeam s id).pendq.length < 4)

/-- The pod at pa takes an entry of team id's pending-launch queue (R113). -/
def pend (s : State) (id pa : Nat) : State :=
  modTeam { s with fresh := s.fresh + 1 } id (fun t => { t with pendq := t.pendq ++ [{ pod := pa, since := s.clock, stamp := s.fresh, popped := false }] })

/-- drop_join at the pod at pa; local names the team of a PARM. The answer is the result code, none at JOIN 0 (R104). -/
def dropJoin (s : State) (pa : Nat) (local_ : Option Nat) : State × Option Nat :=
  let s := podLog s pa
  let j := podJoin s pa
  if j = 0 then (countLqerr s, none)
  else
    let s := podSet s pa 0x10 4 (j - 1)
    if j = 1 ∧ podStatus s pa = stArmed then
      let s := podSet s pa 0x17 1 stReady
      match local_ with
      | some id => if pendingRoom s id then (pend s id pa, some 0) else (enqueueTail s pa, some resSpilled)
      | none => (enqueueTail s pa, some 0)
    else (s, some resWaiting)

/-- The physical address of a pod, for an access that reads and writes it; none where it cannot be reached (R104). A list entry that is not
64-byte aligned names no pod line, and is skipped like one that cannot be reached (DESIGN CHOICE, log entry 54). -/
def podPhys (s : State) (asid va : Nat) : Option Nat :=
  if va % 64 ≠ 0 then none
  else match translate s asid va .rw with
    | .error _ => none
    | .ok p => if busErr s (p.pa va) || linesBad s.poisonLines (p.pa va) 64 then none else some (p.pa va)

/-- A completed predecessor's writes come before the first instruction of the pod at pa, where it has a join left (R105, R384). -/
def joinAfter (s : State) (pa : Nat) (v : View) : State := if podJoin s pa = 0 then s else { s with order := addSync s.order (.pod pa) v }

/-- The pod that entry i of a successor list names; none where the entry or the pod cannot be reached (R104). -/
def successorAt (s : State) (asid list i : Nat) : Option Nat :=
  match vread s asid (list + 8 * i) 8 with
  | .error _ => none
  | .ok va => podPhys s asid va

/-- What the reads of a list entry and of the pod it names leave, for class k (R246, R262). -/
def noteSuccessor (s : State) (asid k list i : Nat) : State :=
  let s1 := noteUnit s asid k (list + 8 * i) .r
  match vread s asid (list + 8 * i) 8 with
  | .error _ => s1
  | .ok va => noteUnit s1 asid k va .rw

/-- The successors from list entry i on, n of them, for a node of class k; v is what the completed node has done (R104, R105). Where the replay
log has no room, the rest wait for it (R437). -/
def dropSuccessors (asid k list : Nat) (v : View) : Nat → Nat → State → State
  | _, 0, s => s
  | i, n + 1, s =>
    match successorAt s asid list i with
    | none => dropSuccessors asid k list v (i + 1) n (countLqerr (noteSuccessor s asid k list i))
    | some pa =>
      if logBlocked s 1 then { s with unitWaits := s.unitWaits ++ [.successors asid k list i (n + 1) v] }
      else dropSuccessors asid k list v (i + 1) n (dropJoin (joinAfter (noteSuccessor s asid k list i) pa v) pa none).1

/-- What the node of the pod at pa has done: what came before it, and its own writes (R105, R384). -/
def nodeView (s : State) (pa : Nat) : View := joinView (syncOf s.order (.pod pa)) (syncOf s.order (.node pa))

/-- STATUS at completion is a release at system scope of what the node has done (R104, R105). -/
def setStatus (s : State) (pa code : Nat) (v : View) : State :=
  writePart s launchAgent { Acc.store with strong := true, scope := 5, atomic := true } (.phys (pa + 0x17)) [((pa + 0x17) % 8, BitVec.ofNat 8 code)] 0
    [{ agent := launchAgent, scope := 5, view := v }]

/-- A pod completes with a status code, and its successors' joins are dropped in list order (R104). -/
def complete (s : State) (pa code : Nat) : State :=
  let s := podLog s pa
  let asid := podAsid s pa
  let k := podNsucc s pa
  let list := podSucc s pa
  let cls := podClass s pa
  let v := nodeView s pa
  let s := forget (forget { s with flight := kdel s.flight pa } (.pod pa)) (.node pa)
  dropSuccessors asid cls list v 0 k (setStatus s pa code v)

/-- A field that software writes, as the launch unit reads it at arming: after what the arming is ordered after (R103, R384). -/
def podField (s : State) (pa off n : Nat) : Nat := match launchRead s (pa + off) n with | .ok v => v | .error _ => podGet s pa off n

/-- The teams' shape and grid extents of the pod at pa (R100). -/
def podDims (s : State) (pa : Nat) : Nat × Nat × Nat := (podField s pa 0x18 4, podField s pa 0x1C 4, podField s pa 0x20 4)
def podTeam (s : State) (pa : Nat) : Nat × Nat × Nat := (podField s pa 0x24 2, podField s pa 0x26 2, podField s pa 0x28 2)

/-- The launch unit reads the pod at pa for its arming by agent a: after all that a has done (R112, R384). -/
def armAfter (s : State) (a pa : Nat) : State := takeFrom (giveTo s a (.pod pa)) launchAgent (.pod pa)

/-- The checks of arming fail (R109); wait says that PWAIT arms. -/
def failsChecks (s : State) (pa : Nat) (wait : Bool) : Bool :=
  let code := podField s pa 0 8
  let frame := podField s pa 8 8
  let k := podKind s pa
  let d := podDims s pa
  let bad (x : Nat) : Bool := decide (x = 0 ∨ 2097151 < x)
  decide (3 < k ∨ 3 < podClass s pa ∨ 7 < podPrio s pa ∨ 2 ^ 52 ≤ code ∨ 2 ^ 52 ≤ frame ∨ podScap s pa < podNsucc s pa ∨
    (0 < podScap s pa ∧ podSucc s pa % 8 ≠ 0)) ||
  (match k with
    | 0 => decide (code = 0 ∨ code % 128 ≠ 0 ∨ frame % 16 ≠ 0) || bad d.1 || bad d.2.1 || bad d.2.2 || decide (4294967295 < d.1 * d.2.1 * d.2.2)
    | 1 => !wait
    | 2 => decide (code = 0 ∨ code % 128 ≠ 0)
    | _ => decide (2047 < code))

/-- The pod at pa (virtual address va) is armed in an ASID: its fields are captured (R103, R118). -/
def armPod (s : State) (pa va asid : Nat) : State :=
  let s := podSet (podSet s pa 0x2E 2 asid) pa 0x17 1 stArmed
  { s with flight := kput s.flight pa { va := va, asid := asid, code := podField s pa 0 8, frame := podField s pa 8 8,
                                        dims := podDims s pa, team := podTeam s pa } }

/-- The captured fields of the pod at pa. -/
def flightOf (s : State) (pa : Nat) : Flight := (kfind s.flight pa).getD { va := 0, asid := 0, code := 0, frame := 0, dims := (1, 1, 1), team := (0, 0, 0) }

-- ready queues

/-- Entries of the teams' pending-launch queues for a list of queue q, oldest first. -/
def pendingOf (s : State) (q l : Nat) : List (Nat × PendLaunch) :=
  let all := s.teams.flatMap (fun e => (e.2.pendq.filter (fun p => !p.popped && decide (podQueue s p.pod = q ∧ podList s p.pod = l))).map (fun p => (e.1, p)))
  let ks := sortBy (fun a b => decide (a ≤ b)) (all.map (·.2.stamp))
  ks.filterMap (fun k => all.find? (fun e => decide (e.2.stamp = k)))

/-- Pods of a list of queue q in the order they would be popped, those that pass a filter (R108, R127). -/
def poppable (s : State) (keep : Nat → Bool) (q l : Nat) : List Nat :=
  ((pendingOf s q l).map (·.2.pod) ++ queueOf s q l).filter keep

/-- The weight of a class (R107). -/
def wrrWeight (w : Word) (c : Nat) : Nat := bits w.toNat (8 * c + 7) (8 * c)

/-- The class the round visits next that has a pod, and the round-robin after its pop (R107). zero says that only classes of weight
0 have pods: each then gets one pop per visit. -/
def wrrNext (reg : Word) (has_ : Nat → Bool) : Nat → Bool → Wrr → Option Wrr
  | 0, _, _ => none
  | fuel + 1, fresh, w =>
    let zero := !(List.range 4).any (fun c => has_ c && decide (0 < wrrWeight w.weights c))
    if has_ w.cls && (if zero then fresh else decide (0 < w.credit)) then some { w with credit := w.credit - 1 }
    else
      let c := (w.cls + 1) % 4
      let ws := if c = 0 then reg else w.weights
      wrrNext reg has_ fuel true { w with cls := c, weights := ws, credit := wrrWeight ws c }

/-- The queue of class c to pop: the lowest PRIO, and on every 4,096th pop the one whose last pop lies furthest back (R108). -/
def pickQueue (w : Wrr) (nonEmpty : Nat → Bool) (c : Nat) : Option Nat :=
  let qs := ((List.range 8).map (fun p => 8 * c + p)).filter nonEmpty
  if (kget 0 w.pops c + 1) % 4096 = 0 then
    qs.foldl (fun (best : Option Nat) q => match best with
      | none => some q
      | some b => if kget 0 w.lastPop q < kget 0 w.lastPop b then some q else some b) none
  else qs.head?

/-- The pod that R107 and R108 pop from a list set, and the round-robin after; a pod whose kill is held up stays (R437). -/
def choosePop (s : State) (l : Nat) (may : Nat → Bool) : Option (Nat × Wrr) :=
  let keep (pa : Nat) : Bool := may pa && !decide (.kill pa ∈ s.unitWaits)
  let w0 := if l = 0 then s.wrrPlace else s.wrrEngine
  let ne (q : Nat) : Bool := !(poppable s keep q l).isEmpty
  match wrrNext s.lqweight (fun c => (List.range 8).any (fun p => ne (8 * c + p))) 12 false w0 with
  | none => none
  | some w =>
    match pickQueue w ne w.cls with
    | none => none
    | some q => match (poppable s keep q l).head? with
      | none => none
      | some pa => some (pa, { w with pops := kput w.pops w.cls (kget 0 w.pops w.cls + 1), stamp := w.stamp + 1,
                                      lastPop := kput w.lastPop q (w.stamp + 1) })

/-- The pending entries that m picks hold their pod no more; they stay occupied until 48 cycles have passed (R113). -/
def popEntries (s : State) (m : Nat → PendLaunch → Bool) : State :=
  { s with teams := s.teams.map (fun e => (e.1, { e.2 with pendq := e.2.pendq.map (fun p => if m e.1 p then { p with popped := true } else p) })) }

/-- The pod at pa leaves the queue or pending entry that holds it and changes to RUNNING, and the launch unit goes on after what it was armed
after (R105, R108, R113). -/
def takePod (s : State) (pa : Nat) : State :=
  podSet (takeFrom (popEntries (dequeue s pa) (fun _ p => decide (p.pod = pa))) launchAgent (.pod pa)) pa 0x17 1 stRunning

/-- The pending entries of team id move to the tails of their queues, in the order they entered (R113). -/
def spillPending (s : State) (id : Nat) : State :=
  ((getTeam s id).pendq.filter (fun p => !p.popped)).foldl (fun s p => enqueueTail s p.pod) (popEntries s (fun i _ => decide (i = id)))

/-- The replay log has no room for a completion's own step; the successors' wait each for theirs (R437). -/
def completionBlocked (s : State) : Bool := logBlocked s 1

end Sys2Proof.Machine
end

