-- ==== Sys2Proof/Machine/Launch.lean ====
section
/-! DEFINITION. The launch instructions (R114 to R119), doorbells and companion stores (R103, R112), and the completion of grid
pods (R425) and pending entries (R113). -/

namespace Sys2Proof.Machine

/-- The pod a thread's instruction names: its physical address, or the trap (R114). -/
def threadPod (s : State) (c : Ctx) (va : Nat) : Except Stop Nat :=
  if va % 64 ≠ 0 then .error (.trap Trap.align 0 (placeOf .global va))
  else match translate s (teamOf s c.k).asid va .rw with
    | .error f => .error (.trap Trap.pfault f.code (placeOf .global va))
    | .ok p =>
      if busErr s (p.pa va) then .error (.trap Trap.pfault MFault.busErr.code (placeOf .global va))
      else if linesBad s.poisonLines (p.pa va) 64 then .error (.trap Trap.eccu 6 (placeOf .global va))
      else .ok (p.pa va)

/-- What an access of thread k's launch instruction at a pod, or at a successor list, leaves (R114, R246, R262). -/
def notePod (s : State) (k va : Nat) (need : Need) : State := noteUnit s (teamOf s k).asid (teamClass s (teamOf s k)) va need

/-- The result code of a launch instruction. -/
def launchResult (c : Ctx) (s : State) (code : Nat) : State := postResult s c.k (dests c 1) (some [⟨wd code, false⟩]) .plain

/-- PNEW (R115). -/
def actPnew (c : Ctx) (s : State) : Act := do
  let a ← srcD s c .n64 c.raw.a
  let b ← srcD s c .n64 c.raw.b
  if a.poison || b.poison then poisonTrap
  else
    let pa ← threadPod s c a.bits.toNat
    let s := notePod s c.k a.bits.toNat .rw
    let st := podStatus s pa
    if 1 ≤ st ∧ st ≤ 3 then .ok (launchResult c s resBadState)
    else
      let g := findGrid s (teamOf s c.k).grid
      let cls := match g with | some x => x.cls | none => 0
      let prio := match g with | some x => x.prio | none => 0
      let bs := leBytes 8 b.bits.toNat ++ leBytes 8 0 ++ leBytes 4 1 ++ leBytes 1 c.raw.m ++ leBytes 1 cls ++ leBytes 1 prio ++ leBytes 1 stBuilt ++
        leBytes 4 1 ++ leBytes 4 1 ++ leBytes 4 1 ++ List.replicate 28 0#8
      .ok (launchResult c (unitWrite (forget (forget s (.pod pa)) (.node pa)) c.k pa bs) 0)

/-- The fields PSET writes for a value, or none for a value outside its limits (R116). -/
def psetFields (m v : Nat) : Option (List (Nat × Nat × Nat)) :=
  match m with
  | 0 => if 2 ^ 52 ≤ v then none else some [(0x08, 8, v)]
  | 1 =>
    let x := bits v 20 0
    let y := bits v 41 21
    let z := bits v 62 42
    if 2 ^ 63 ≤ v ∨ x = 0 ∨ y = 0 ∨ z = 0 then none else some [(0x18, 4, x), (0x1C, 4, y), (0x20, 4, z)]
  | 2 => if 2 ^ 48 ≤ v then none else some [(0x24, 2, bits v 15 0), (0x26, 2, bits v 31 16), (0x28, 2, bits v 47 32)]
  | _ => if v % 8 ≠ 0 then none else some [(0x30, 8, bits v 51 0), (0x2C, 2, bits v 63 52)]

/-- PSET (R116). -/
def actPset (c : Ctx) (s : State) : Act := do
  let a ← srcD s c .n64 c.raw.a
  let b ← srcD s c .n64 c.raw.b
  if a.poison || b.poison then poisonTrap
  else
    let pa ← threadPod s c a.bits.toNat
    let s := notePod s c.k a.bits.toNat .rw
    if podStatus s pa ≠ stBuilt ∨ (c.raw.m = 3 ∧ podNsucc s pa ≠ 0) then .ok (launchResult c s resBadState)
    else match psetFields c.raw.m b.bits.toNat with
      | none => .ok (launchResult c s resBadVal)
      | some fs => .ok (launchResult c (fs.foldl (fun s f => podPut s c.k pa f.1 f.2.1 f.2.2) s) 0)

/-- The write of a successor's address into the predecessor's list, for thread k in its team's ASID (R117). -/
def writeEdge (s : State) (k at_ v : Nat) : Option State :=
  match translate s (teamOf s k).asid at_ .w with
  | .error _ => none
  | .ok p => if busErr s (p.pa at_) then none else some (unitWrite (notePod s k at_ .w) k (p.pa at_) (leBytes 8 v))

/-- Why PEDGE adds no edge at the predecessor pa, as a result code (R117). -/
def edgeRefused (s : State) (k pa v : Nat) : Option Nat :=
  if stDone ≤ podStatus s pa then some resAlready
  else if podNsucc s pa = podScap s pa then some resFull
  else if (writeEdge s k (podSucc s pa + 8 * podNsucc s pa) v).isNone then some resListFault
  else none

/-- PEDGE (R117), each of its steps at a pod with its record (R436), for all of which the log must have room (R437). DESIGN CHOICE (log entry
54): A and B are checked and translated as R114 says before they are compared. -/
def actPedge (c : Ctx) (s : State) : Act := do
  let a ← srcD s c .n64 c.raw.a
  let b ← srcD s c .n64 c.raw.b
  if a.poison || b.poison then poisonTrap
  else
    let pa ← threadPod s c a.bits.toNat
    let pb ← threadPod s c b.bits.toNat
    let s := notePod s c.k a.bits.toNat .rw
    if a.bits = b.bits then .ok (launchResult c s resBadVal)
    else
      let s := notePod s c.k b.bits.toNat .rw
      let refused := if podStatus s pb ≠ stBuilt then some resBadState else if podJoin s pb = 0xFFFFFFFF then some resFull else none
      if logBlocked s (if refused.isSome then 1 else if (edgeRefused s c.k pa b.bits.toNat).isSome then 3 else 2) then .error .stall
      else match refused with
        | some r => .ok (launchResult c (podLog s pb) r)
        | none =>
          let s := podLog (podPut (podLog s pb) c.k pb 0x10 4 (podJoin s pb + 1)) pa
          let n := podNsucc s pa
          match edgeRefused s c.k pa b.bits.toNat, writeEdge s c.k (podSucc s pa + 8 * n) b.bits.toNat with
          | none, some s1 => .ok (launchResult c (podPut s1 c.k pa 0x2A 2 (n + 1)) 0)
          | r, _ => .ok (launchResult c (dropJoin s pb none).1 (r.getD resListFault))

/-- PARM (R118), each of its steps at the pod with its record (R436). DESIGN CHOICE (log entry 54): A is checked and translated as R114 says
before B is compared with 7; and where drop_join finds JOIN 0 and returns none, D is WAITING. -/
def actParm (c : Ctx) (s : State) : Act := do
  let a ← srcD s c .n64 c.raw.a
  let b ← src s c .int c.raw.b
  if a.poison || b.poison then poisonTrap
  else
    let pa ← threadPod s c a.bits.toNat
    if 7 < b.bits.toNat then .ok (launchResult c s resBadVal)
    else if logBlocked s (if podStatus s pa ≠ stBuilt then 1 else 2) then .error .stall
    else
      let s := podLog (notePod (releaseAt s c.k 4) c.k a.bits.toNat .rw) pa
      if podStatus s pa ≠ stBuilt then .ok (launchResult c s resBadState)
      else
      let asid := (teamOf s c.k).asid
      let s := podSet (podSet (podSet (armAfter s c.k pa) pa 0x15 1 c.raw.m) pa 0x16 1 b.bits.toNat) pa 0x2E 2 asid
      if failsChecks s pa false then .ok (launchResult c (complete s pa stBadPod) resBadPod)
      else
        let r := dropJoin (armPod s pa a.bits.toNat asid) pa (some (keyTeam c.k))
        .ok (launchResult c r.1 (r.2.getD resWaiting))

/-- The first byte of [va, va + n) that cannot be written, and why (R119). -/
def probeWrite (s : State) (asid : Nat) : Nat → Nat → Option (Nat × MFault)
  | _, 0 => none
  | va, n + 1 =>
    match translate s asid va .w with
    | .error f => some (va, f)
    | .ok _ => probeWrite s asid (va + 1) n

/-- Bytes written through translation by agent a for class k, one by one; none where one cannot be written (R119, R297). -/
def vwriteAll (s : State) (a asid k : Nat) : Nat → List Byte → Option State
  | _, [] => some s
  | va, b :: r =>
    match vwrite s a asid k va drainAcc [b] with
    | .error _ => none
    | .ok s1 => vwriteAll s1 a asid k (va + 1) r

/-- Group g leaves its core for the image at its continuation's frame; a write that fails kills the grid (R119). -/
def swapOut (s : State) (g pa frame asid : Nat) : State :=
  let img := groupImage s g
  let s := noteTwin s g
  let s1 := match vwriteAll s launchAgent asid (teamClass s (getTeam s (g / 32))) frame img with
    | some t => t
    | none => markKilled s (getTeam s (g / 32)).grid 2
  let s2 := (liveOfGroup s1 g).foldl (fun s k => modThread s k (fun t => { t with regs := Regs.initial, homeV := [], lpr := none })) s1
  modGroup s2 g (fun x => { x with swapped := some pa, uregs := [], uview := none })

/-- Threads go on after a continuation's pod, as an acquire at device scope (R105, R119, R382). -/
def resumeAfter (s : State) (ks : List Nat) (pa : Nat) : State :=
  let s := ks.foldl (fun s k => acquired (takeFrom s k (.pod pa)) k) s
  match ks with | [] => s | k :: _ => emptyL1 s (teamOf s k).home

/-- PWAIT, for its group (R119). A pod that fails the checks of arming completes with BADPOD, and the group goes on (DEDUCED: R109
says so of arming, R119 names no such case; log entry 34). -/
def actPwait (c : Ctx) (ks : List Nat) (s : State) : Act := do
  let a ← srcD s c .n64 c.raw.a
  if a.poison then .error (.trap Trap.poison 0 (some (a.bits.toNat, 0xF)))
  else
    let va := a.bits.toNat
    let pa ← threadPod s c va
    let s := notePod s c.k va .rw
    let frame := podField (ks.foldl (fun s k => armAfter s k pa) s) pa 8 8
    let t := teamOf s c.k
    let g := keyGroup c.k
    if podStatus s pa ≠ stBuilt then .error (.trap Trap.engerr resBadState (some (va, 0xF)))
    else if podKind s pa ≠ 1 ∨ frame = 0 ∨ frame % 128 ≠ 0 then .error (.trap Trap.engerr resBadPod (some (va, 0xF)))
    else match probeWrite s t.asid frame (groupImageSize (vregOf t.desc c.form) t.desc.uregs) with
      | some e => .error (.trap Trap.pfault e.2.code (placeOf .global e.1))
      | none =>
        if ks.any (fun k => (getThread s k).pend.any (fun p => p.value.isNone)) || logBlocked s (if podJoin s pa = 1 then 3 else 2) then .error .stall
        else
          let s := ks.foldl (fun s k => deliver s k (fun _ => true)) s
          let s := podLog (ks.foldl (fun s k => armAfter (releaseAt s k 4) k pa) s) pa
          let r := dropJoin (armPod s pa va t.asid) pa none
          if failsChecks s pa true then .ok (complete (podSet s pa 0x2E 2 t.asid) pa stBadPod)
          else if r.2 = some 0 then .ok (complete (resumeAfter (dequeue r.1 pa) ks pa) pa stDone)
          else
            let s := r.1
            match bundleAt s s.focus.1 s.focus.2 with
            | none => .ok s
            | some b =>
              let s := releaseJoins (ks.foldl (fun s k => endUview (arrive s k (fallThrough b)) (keyGroup k)) s) g
              .ok (swapOut (setBundle s s.focus.1 s.focus.2 none) g pa frame t.asid)

/-- PNEW (R115). -/
def execPnew (w : TForm) (s : State) : Host.Outcome State Fault Refusal := .next (issue (.pnew w) actPnew s)
/-- PSET (R116). -/
def execPset (w : TForm) (s : State) : Host.Outcome State Fault Refusal := .next (issue (.pset w) actPset s)
/-- PEDGE (R117). -/
def execPedge (w : TForm) (s : State) : Host.Outcome State Fault Refusal := .next (issue (.pedge w) actPedge s)
/-- PARM (R118). -/
def execParm (w : TForm) (s : State) : Host.Outcome State Fault Refusal := .next (issue (.parm w) actParm s)
/-- PWAIT (R119). -/
def execPwait (w : TForm) (s : State) : Host.Outcome State Fault Refusal := .next (issueConvergent (.pwait w) actPwait s)

/-- DBERR rises by 1, saturating (R111). -/
def countDberr (s : State) : State := { s with dberr := if s.dberr = 0xFFFFFFFF#32 then s.dberr else s.dberr + 1 }

/-- The launch unit, and the walks it makes, come after what the companion has written before a doorbell (R112). -/
def afterCompanion (s : State) : State := follow (follow s launchAgent companionAgent) walkAgent companionAgent

/-- The launch unit acts on a write of value to doorbell n (R112). -/
def ringDoorbell (n width : Nat) (value : DWord) (s : State) : State :=
  let b := (kget 0 s.dbbind n).toNat
  let va := value.toNat
  let s := afterCompanion s
  if b < 2 ^ 31 ∨ width ≠ 64 ∨ 2 ^ 52 ≤ va ∨ va % 64 ≠ 0 then countDberr s
  else match podPhys s (b % 65536) va with
    | none => countDberr s
    | some pa =>
      if podStatus s pa ≠ stBuilt then countDberr s
      else
        let asid := b % 65536
        let s := armAfter (podLog (noteUnit s asid (max (podClass s pa) (b / 2 ^ 19 % 4)) va .rw) pa) companionAgent pa
        let s := podSet s pa 0x15 1 (max (podClass s pa) (b / 2 ^ 19 % 4))
        let s := podSet s pa 0x16 1 (max (podPrio s pa) (b / 2 ^ 16 % 8))
        let s := podSet s pa 0x2E 2 asid
        if failsChecks s pa false then complete s pa stBadPod
        else (dropJoin (armPod s pa va asid) pa none).1

/-- A GRID pod that the placement engine has not taken is killed where it stands, with its KILL record (R428, R434). -/
def killPod (s : State) (pa : Nat) : State :=
  let f := flightOf s pa
  let s := popEntries (dequeue s pa) (fun _ p => decide (p.pod = pa))
  let s := { s with killBusy := s.killBusy.filter (fun p => decide (p ≠ pa)) }
  complete (writeKill s (noPlace f.asid) 5 0 f.va) pa stKilled

/-- The pod that a doorbell write would arm (R112); none where it is dropped. -/
def doorbellPod (s : State) (n width : Nat) (value : DWord) : Option Nat :=
  let b := (kget 0 s.dbbind n).toNat
  if b < 2 ^ 31 ∨ width ≠ 64 ∨ 2 ^ 52 ≤ value.toNat ∨ value.toNat % 64 ≠ 0 then none
  else (podPhys (afterCompanion s) (b % 65536) value.toNat).filter (fun pa => decide (podStatus s pa = stBuilt))

/-- The records of a launch-unit act find no room in the replay log (R437): those of an arming and of the join dropped, or the status set, after
it; of a kill's status; of the next successor. -/
def unitBlocked (s : State) : UnitWait → Bool
  | .doorbell n width v => (doorbellPod s n width v).isSome && logBlocked s 2
  | .kill _ => completionBlocked s
  | .successors asid _ list i n _ => decide (n ≠ 0) && (successorAt s asid list i).isSome && logBlocked s 1

/-- A launch-unit act is made. -/
def unitAct (s : State) : UnitWait → State
  | .doorbell n width v => ringDoorbell n width v s
  | .kill pa => killPod s pa
  | .successors asid k list i n v => dropSuccessors asid k list v i n s

/-- Acts are made in order, as far as the replay log has room; the others wait, behind what they leave to be done (R437). -/
def drainActs : List UnitWait → State → State
  | [], s => s
  | a :: r, s => if unitBlocked s a then { s with unitWaits := s.unitWaits ++ a :: r } else drainActs r (unitAct s a)

/-- The acts that were held up are tried again (R437). -/
def retryActs (s : State) : State := drainActs s.unitWaits { s with unitWaits := [] }

/-- The launch unit takes an act: at once, or behind those that wait (R437). -/
def unitTake (a : UnitWait) (s : State) : State := drainActs (s.unitWaits ++ [a]) { s with unitWaits := [] }

/-- A doorbell write reaches the launch unit: in RETAIN it is held (R112, R447). -/
def takeDoorbell (n width : Nat) (value : DWord) (s : State) : State :=
  if s.pwrCur = 2 then { s with heldDoorbells := s.heldDoorbells ++ [(n + 256 * width, value)] } else unitTake (.doorbell n width value) s

/-- A doorbell write; before bring-up no doorbell can be reached (R112, R448). -/
def execDoorbell (n width : Nat) (value : DWord) (s : State) : Host.Outcome State Fault Refusal :=
  .next (if 256 ≤ n ∨ s.booted = false then s else takeDoorbell n width value s)

/-- The status a grid pod completes with (R425). -/
def gridStatus (g : Grid) : Nat := if g.killed.isSome then stKilled else g.stopped.getD stDone

/-- True when a taken grid's pod can complete (R425). -/
def gridOver (s : State) (g : Grid) : Bool :=
  placementOver g && s.teams.all (fun e => decide (e.2.grid ≠ g.pod)) && s.saved.all (fun t => decide (t.team.grid ≠ g.pod)) &&
    (gridEntries s g.pod).isEmpty && (g.killed.isNone || g.killDone)

/-- A grid pod completes once nothing of its grid is left (R104, R425). -/
def completeGrid (pod : Nat) (s : State) : State :=
  match findGrid s pod with
  | none => s
  | some g =>
    if gridOver s g && !completionBlocked s then
      let s := complete (giveTo s (drainAgent pod) (.node pod)) pod (gridStatus g)
      { s with grids := s.grids.filter (fun x => decide (x.pod ≠ pod)), gridHalts := s.gridHalts.filter (fun p => decide (p ≠ pod)), killBusy := s.killBusy.filter (fun p => decide (p ≠ pod)) }
    else s

/-- POD_COMPLETE (R104, R425). -/
def execPodComplete (pod : Nat) (s : State) : Host.Outcome State Fault Refusal := .next (completeGrid pod s)

/-- A pending-launch entry frees once its pod is popped and 48 cycles have passed (R113). -/
def execPendingEntryRelease (team index : Nat) (s : State) : Host.Outcome State Fault Refusal :=
  .next (match kfind s.teams team with
    | none => s
    | some t => match t.pendq[index]? with
      | none => s
      | some p => if p.popped ∧ p.since + 48 ≤ s.clock then modTeam s team (fun t => { t with pendq := t.pendq.eraseIdx index }) else s)

/-- A store from the companion into device memory, which it reaches once the part is up (R448); owned bytes keep their values (R103). -/
def execCompanionStore (address : Nat) (bytes : List Byte) (s : State) : Host.Outcome State Fault Refusal :=
  .next (if s.booted = false ∨ bytes = [] ∨ isDevice (address + bytes.length - 1) = false then s else storeAt s companionAgent Acc.store (.phys address) bytes)

end Sys2Proof.Machine
end

