-- ==== Sys2Proof/Machine/Place.lean ====
section
/-! DEFINITION. The placement engine (R120 to R132): demand and room, placing teams, and bringing back swapped-out groups (R119). -/

namespace Sys2Proof.Machine

/-- The 128 bytes of a resident descriptor; none where a read fails (R11, R16, R126). -/
def descBytes (s : State) (asid va : Nat) : Option (List Byte) :=
  match vreadBytes s asid va 128 with | .ok b => some b | .error _ => none

/-- The fields of a resident descriptor (R11, R16). -/
def descOf (va : Nat) (b : List Byte) : Desc :=
  { addr := va, flags := imgNat b 0 2, vregd := imgNat b 2 1, vregl := imgNat b 3 1, uregs := imgNat b 4 1, bars := imgNat b 6 2,
    teamx := imgNat b 8 2, teamy := imgNat b 0xA 2, teamz := imgNat b 0xC 2, rays := imgNat b 0xE 2, scratch := imgNat b 0x10 4,
    accum := imgNat b 0x14 4, cluw := imgNat b 0x18 1, cluh := imgNat b 0x19 1, eqpcount := imgNat b 0x1A 2, secver := imgNat b 0x1C 1,
    dimg := imgNat b 0x20 8, dsize := imgNat b 0x28 4, dentry := imgNat b 0x2C 4, limg := imgNat b 0x30 8, lsize := imgNat b 0x38 4,
    lentry := imgNat b 0x3C 4, eqptab := imgNat b 0x40 8, mapoff := imgNat b 0x48 8, mapsize := imgNat b 0x50 4,
    priv := imgNat b 0x54 4, argsize := imgNat b 0x58 4 }

/-- The limits of R11 hold. That each entry PC lies in its image is read as one of them (DEDUCED: R11's column reads "limits and
meaning", R19 names it apart; log entry 31). -/
def descOk (d : Desc) (b : List Byte) : Bool :=
  decide (d.flags < 16 ∧ 1 ≤ d.vregd ∧ d.vregd ≤ 64 ∧ 1 ≤ d.vregl ∧ d.vregl ≤ 64 ∧ d.uregs ≤ 128 ∧ imgNat b 5 1 = 0 ∧ d.bars ≤ 2048 ∧
    1 ≤ d.teamx ∧ 1 ≤ d.teamy ∧ 1 ≤ d.teamz ∧ d.rays ≤ 256 ∧ d.accum ≤ 262144 ∧ 1 ≤ d.cluw ∧ 1 ≤ d.cluh ∧ d.eqpcount ≤ 4096) &&
  decide (imgNat b 0x1D 3 = 0 ∧ d.dsize % 4 = 0 ∧ 4 ≤ d.dsize ∧ d.dentry % 4 = 0 ∧ d.dentry < d.dsize ∧ d.lsize % 12 = 0 ∧ 12 ≤ d.lsize ∧
    d.lentry % 12 = 0 ∧ d.lentry < d.lsize ∧ d.eqptab % 4 = 0 ∧ d.priv % 8 = 0 ∧ d.priv ≤ 2 ^ 31 ∧ imgNat b 0x5C 36 = 0)

/-- START of a descriptor (R11). -/
def startOf (d : Desc) : Form := if d.flags / 8 % 2 = 1 then .l else .d

/-- A team shape: the pod's extents where they are not 0, otherwise the descriptor's (R100). -/
def shapeOf (p : Nat × Nat × Nat) (d : Desc) : Nat × Nat × Nat :=
  (if p.1 = 0 then d.teamx else p.1, if p.2.1 = 0 then d.teamy else p.2.1, if p.2.2 = 0 then d.teamz else p.2.2)

/-- The groups of a team shape. -/
def shapeGroups (d : Nat × Nat × Nat) : Nat := (d.1 * d.2.1 * d.2.2 + 31) / 32

/-- What a class of core holds (R122): team slots, group slots, vector registers, uniform registers, scratch, barrier objects,
accumulator memory, ray slots. -/
structure Budget where
  teams : Nat
  groups : Nat
  vregs : Nat
  uregs : Nat
  scratch : Nat
  bars : Nat
  accum : Nat
  rays : Nat
  deriving DecidableEq, Repr

def budgetOf (c : Form) : Budget :=
  match c with
  | .d => { teams := 32, groups := 64, vregs := 131072, uregs := 8192, scratch := 524288, bars := 2048, accum := 262144, rays := 256 }
  | .l => { teams := 16, groups := 16, vregs := 32768, uregs := 2048, scratch := 262144, bars := 2048, accum := 0, rays := 0 }

/-- The charge of a team of G groups (R125). -/
def chargeOf (d : Desc) (c : Form) (g : Nat) : Budget :=
  { teams := 1, groups := g, vregs := 32 * g * vregOf d c, uregs := g * d.uregs, scratch := scratchSize d, bars := d.bars,
    accum := tileCount d * 4096, rays := d.rays }

def Budget.fits (a b : Budget) : Bool :=
  decide (a.teams ≤ b.teams ∧ a.groups ≤ b.groups ∧ a.vregs ≤ b.vregs ∧ a.uregs ≤ b.uregs ∧ a.scratch ≤ b.scratch ∧ a.bars ≤ b.bars ∧
    a.accum ≤ b.accum ∧ a.rays ≤ b.rays)

/-- The live cores of a class: those not fenced (R131). -/
def liveCore (s : State) (c : Nat) : Bool := !(getCore s c).fenced

/-- A core that may take a new team or group: live, no fence under way, not under test (R131, R421, R422). -/
def openCore (s : State) (c : Nat) : Bool := let x := getCore s c; !x.fenced && !x.fencing && !x.testing

/-- The cores of a class, ascending. -/
def coresOf (c : Form) : List Nat := (List.range 216).filter (fun n => decide (classOfCore n = c))

/-- The allowed cluster shapes (R123). -/
def clusterAllowed (w h : Nat) : Bool := decide (w * h ≤ 12 ∧ w ≤ 18 ∧ h ≤ 12)

/-- The members of the rectangle at origin tile (c0, r0) (R124). -/
def members (c : Form) (w h c0 r0 : Nat) : List Nat :=
  (List.range (w * h)).filterMap (fun i =>
    let n := (c0 + i % w) + 18 * (r0 + i / w)
    if classOfCore n = c then some n else none)

/-- The origins of the rectangles of a shape, ascending by core index (R123). -/
def origins (w h : Nat) : List (Nat × Nat) :=
  (List.range 216).filterMap (fun n =>
    let c := n % 18
    let r := n / 18
    if c % 2 = 0 ∧ r % 2 = 0 ∧ c + w ≤ 18 ∧ r + h ≤ 12 then some (c, r) else none)

/-- The places a cluster of a shape may take, each its members by rank (R124). -/
def rectangles (c : Form) (w h : Nat) : List (List Nat) :=
  if w = 1 ∧ h = 1 then (coresOf c).map (fun n => [n]) else (origins w h).map (fun o => members c w h o.1 o.2)

/-- The teams of a cluster of a shape (R124). -/
def clusterSize (c : Form) (w h : Nat) : Nat := ((rectangles c w h).headD []).length

/-- A team can never fit (R126). -/
def neverFits (s : State) (d : Desc) (b : List Byte) (shape : Nat × Nat × Nat) : Bool :=
  let c := startOf d
  let t := shape.1 * shape.2.1 * shape.2.2
  !descOk d b || decide (t = 0 ∨ (match c with | .d => 1024 | .l => 512) < t) ||
  !(chargeOf d c (shapeGroups shape)).fits (budgetOf c) || !clusterAllowed d.cluw d.cluh || decide (clusterSize c d.cluw d.cluh = 0) ||
  !(rectangles c d.cluw d.cluh).any (fun ms => ms.all (liveCore s))

-- room on a core

/-- The teams homed on a core. -/
def homedOn (s : State) (core : Nat) : List (Nat × Team) := s.teams.filter (fun e => decide (e.2.home = core))

/-- The groups of the resident teams, as keys. -/
def allGroups (s : State) : List Nat := s.teams.flatMap (fun e => (List.range (teamGroups e.2)).map (fun i => e.1 * 32 + i))

/-- True when group g visits a core and is not swapped out. -/
def visitsCore (s : State) (core g : Nat) : Bool :=
  let x := getGroup s g
  decide (x.core = core ∧ (getTeam s (g / 32)).home ≠ core) && x.swapped.isNone

/-- The granted move of group g to a core that is not its home (R222). -/
def movesTo (s : State) (core g : Nat) : Option Move :=
  match (getGroup s g).moving with
  | some m => if m.core = core ∧ (getTeam s (g / 32)).home ≠ core then some m else none
  | none => none

/-- Group slots taken on a core (R132, R235). -/
def usedSlots (s : State) (core : Nat) : List Nat :=
  (allGroups s).filterMap (fun g =>
    if (getTeam s (g / 32)).home = core then some (getGroup s g).homeSlot
    else if visitsCore s core g then some (getGroup s g).slot
    else (movesTo s core g).map (·.slot))

/-- Vector-register ranges taken on a core. -/
def usedVregs (s : State) (core : Nat) : List (Nat × Nat) :=
  (allGroups s).filterMap (fun g =>
    let t := getTeam s (g / 32)
    let x := getGroup s g
    let n := 32 * vregOf t.desc (classOfCore core)
    if t.home = core then (if x.swapped.isSome then none else some (x.vbase, n))
    else if visitsCore s core g then some (x.visitBase, n) else (movesTo s core g).map (fun m => (m.vbase, n)))

/-- Uniform registers taken on a core. -/
def usedUregs (s : State) (core : Nat) : Nat :=
  (allGroups s).foldl (fun n g =>
    let t := getTeam s (g / 32)
    if (t.home = core ∧ (getGroup s g).swapped.isNone) ∨ visitsCore s core g = true ∨ (movesTo s core g).isSome = true then n + t.desc.uregs else n) 0

/-- The lowest start of a free range of n below cap, beside the ranges used (R125). -/
def firstFit (used : List (Nat × Nat)) (cap n : Nat) : Option Nat :=
  let free (a : Nat) : Bool := decide (a + n ≤ cap) && used.all (fun u => decide (u.2 = 0 ∨ n = 0 ∨ a + n ≤ u.1 ∨ u.1 + u.2 ≤ a))
  ((0 :: used.map (fun u => u.1 + u.2)).filter free).foldl (fun (m : Option Nat) a => match m with | none => some a | some b => some (min a b)) none

/-- The free group slots of a core, ascending. -/
def freeSlots (s : State) (core : Nat) : List Nat :=
  let used := usedSlots s core
  (List.range (budgetOf (classOfCore core)).groups).filter (fun i => !decide (i ∈ used))

/-- Room for one more group on a core: its slot and its first vector register (R222). -/
def groupRoom (s : State) (core : Nat) (d : Desc) : Option (Nat × Nat) :=
  let b := budgetOf (classOfCore core)
  match (freeSlots s core).head?, firstFit (usedVregs s core) b.vregs (32 * vregOf d (classOfCore core)) with
  | some slot, some v => if usedUregs s core + d.uregs ≤ b.uregs then some (slot, v) else none
  | none, _ => none
  | some _, none => none

/-- What a team gets on its core: group slots, first vector register, scratch, accumulator memory and ray slots. -/
structure Room where
  slots : List Nat
  vbase : Nat
  scratch : Nat
  acc : Nat
  rays : Nat
  deriving DecidableEq, Repr

/-- Room for a team of G groups on a core (R125). -/
def teamRoom (s : State) (core : Nat) (d : Desc) (g : Nat) : Option Room :=
  let c := classOfCore core
  let b := budgetOf c
  let ch := chargeOf d c g
  let ts := homedOn s core
  let slots := (freeSlots s core).take g
  if b.teams < ts.length + 1 ∨ slots.length < g ∨ b.uregs < usedUregs s core + ch.uregs ∨
    b.bars < ts.foldl (fun n t => n + t.2.desc.bars) 0 + ch.bars then none
  else
    match firstFit (usedVregs s core) b.vregs ch.vregs,
      firstFit (ts.map (fun t => (t.2.scratchBase, scratchSize t.2.desc))) b.scratch ch.scratch,
      firstFit (ts.map (fun t => (t.2.accBase, tileCount t.2.desc * 4096))) b.accum ch.accum,
      firstFit (ts.map (fun t => (t.2.rayBase, t.2.desc.rays))) b.rays ch.rays with
    | some v, some sc, some ac, some ry => some { slots := slots, vbase := v, scratch := sc, acc := ac, rays := ry }
    | none, _, _, _ => none
    | some _, none, _, _ => none
    | some _, some _, none, _ => none
    | some _, some _, some _, none => none

-- restorations

/-- The live D-core of a quad with the most free group slots, the lowest index first (R221, R2); the first D-core of a quad that has
no live one. -/
def bestDcore (s : State) (q : Nat) : Nat :=
  match (dcoresOfQuad q).filter (liveCore s) with
  | [] => (dcoresOfQuad q).headD 0
  | c :: cs => cs.foldl (fun b c => if (freeSlots s b).length < (freeSlots s c).length then c else b) c

/-- The core on which a group of a team runs in a form: the home core, or as a visitor on the other class of its quad (R221, R415). -/
def coreForForm (s : State) (t : Team) (f : Form) : Nat :=
  if classOfCore t.home = f then t.home else match f with | .l => lcoreOfQuad (quadOf t.home) | .d => bestDcore s (quadOf t.home)

/-- The core a swapped-out group returns to: the core it left, where it is live and still of its home's quad; otherwise as a pre-empted
group is restored (R119, R415). -/
def returnCore (s : State) (g : Nat) : Nat :=
  let t := getTeam s (g / 32)
  let c := (getGroup s g).core
  if liveCore s c && decide (c = t.home ∨ (quadOf c = quadOf t.home ∧ classOfCore c ≠ classOfCore t.home)) then c else coreForForm s t (classOfCore c)

/-- Where a swapped-out group goes: its core and whether it is mapped to the other encoding there (R232, R415); none where no live core
allows it. -/
def returnPlace (s : State) (g : Nat) (img : List Byte) : Option (Nat × Bool) :=
  let t := getTeam s (g / 32)
  let c := returnCore s g
  if liveCore s c then some (c, false)
  else
    let c2 := coreForForm s t (match classOfCore c with | .d => .l | .l => .d)
    if imgNat img 6 2 / 2 % 2 = 1 ∧ liveCore s c2 = true then some (c2, true) else none

/-- The slots and ranges a swapped-out group takes on a core: slot, home range, visited range. -/
def returnRoom (s : State) (g core : Nat) : Option (Nat × Nat × Nat) :=
  let t := getTeam s (g / 32)
  let hc := classOfCore t.home
  let hb := budgetOf hc
  match firstFit (usedVregs s t.home) hb.vregs (32 * vregOf t.desc hc) with
  | none => none
  | some hv =>
    if hb.uregs < usedUregs s t.home + t.desc.uregs then none
    else if core = t.home then some ((getGroup s g).homeSlot, hv, 0)
    else (groupRoom s core t.desc).map (fun r => (r.1, hv, r.2))

/-- A restored group that is mapped to the encoding of the core it now stands on (R232): the state map of its equivalence point applies,
and its move status is that of a granted move; none where the group does not stand at the twin PC of an equivalence point. A map that cannot be
read counts as empty (DESIGN CHOICE, log entry 32). -/
def mapRestored (s : State) (g core : Nat) : Option State :=
  let s := modGroup s g (fun x => { x with core := match classOfCore core with | .l => coreForForm s (getTeam s (g / 32)) .d | .d => coreForForm s (getTeam s (g / 32)) .l })
  match twinOf s g with
  | none => none
  | some e =>
    let t := getTeam s (g / 32)
    let m := match readMap s t.asid (t.desc.mapoff + e.map) e.nmap with | .ok m => m | .error _ => []
    let s := noteMap s (groupThread g 0) e
    let s := (liveOfGroup s g).foldl (fun s k => moveThread s k m e (classOfCore core) false) s
    some (noteMove (modGroup s g (fun x => { x with core := core })) g 1)

/-- The continuation at pod brings group g back, when it can (R119). A read of its image that fails kills the team's grid. -/
def tryCont (s : State) (pod g : Nat) : Option State :=
  match kfind s.teams (g / 32) with
  | none => none
  | some t =>
    if decide (t.hold ≠ .none) || t.killed || completionBlocked s then none
    else
      let fl := flightOf s pod
      let n := groupImageSize (vregOf t.desc (classOfCore (getGroup s g).core)) t.desc.uregs
      match vreadBytes s t.asid fl.frame n with
      | .error _ => some (markKilled s t.grid 2)
      | .ok img =>
        match returnPlace s g img with
        | none => some (markKilled s t.grid 2)
        | some (core, mapped) =>
          if openCore s core then
            match returnRoom s g core with
            | none => none
            | some (slot, hv, vv) =>
              let old := s
              let s := loadGroup (noteSpan s t.asid (teamClass s t) fl.frame n) g core slot hv vv img
              match if mapped then mapRestored s g core else some s with
              | none => some (markKilled old t.grid 2)
              | some s => some (complete (releaseJoins (resumeAfter s (liveOfGroup s g) pod) g) pod stDone)
          else none

/-- The cores on which a restoration waits, which no team of a grid may take (R128): for a swapped-out group of a resident team its
team's home core and the core it returns to; for a saved team its home core and the cores its visitors would stand on. A saved team whose home
core is gone (R422) waits for room on any core it can go to: those of its class, and where it has visitors, all (DEDUCED, log entry 27). -/
def reservedCores (s : State) : List Nat :=
  s.waits.flatMap (fun w => match w with
    | .cont _ g => match kfind s.teams (g / 32) with | some t => [t.home, returnCore s g] | none => []
    | .team id => match s.saved.find? (fun t => decide (t.id = id)) with
      | some t =>
        let away := t.cores.filter (fun c => decide (classOfCore c ≠ classOfCore t.team.home))
        if liveCore s t.team.home then t.team.home :: away.map (fun c => coreForForm s t.team (classOfCore c))
        else if away = [] then coresOf t.team.start else List.range 216
      | none => [])

-- placing

/-- The cores a cluster of the grid may take now, one for each of its n teams (R128). -/
def clusterPlan (s : State) (g : Grid) (n : Nat) : Option (List (Nat × Room)) :=
  let c := startOf g.desc
  let gr := shapeGroups g.team
  let ok (core : Nat) : Option (Nat × Room) :=
    if openCore s core && !decide (core ∈ reservedCores s) then (teamRoom s core g.desc gr).map (fun r => (core, r)) else none
  if g.desc.cluw = 1 ∧ g.desc.cluh = 1 then
    let best := (coresOf c).foldl (fun (b : Option (Nat × (Nat × Room))) core =>
      match ok core with
      | none => b
      | some r =>
        let free := (freeSlots s core).length
        match b with | some x => if x.1 < free then some (free, r) else b | none => some (free, r)) none
    best.map (fun b => [b.2])
  else
    (rectangles c g.desc.cluw g.desc.cluh).findSome? (fun ms => (ms.take n).mapM ok)

/-- The teams of the cluster that holds the grid's next team (R124). -/
def clusterTeams (g : Grid) : Nat := min (clusterSize (startOf g.desc) g.desc.cluw g.desc.cluh) (gridTeams g - g.next)

/-- What the grid would place next; nothing for a grid that places no more (R128). -/
def gridPlan (s : State) (g : Grid) : Option (List (Nat × Room)) := if placementOver g then none else clusterPlan s g (clusterTeams g)

/-- SECVER of the grid's descriptor as it stands in memory (R20, R129). Where that byte cannot be read any more, the value read when the
grid was taken stands (DESIGN CHOICE: the spec states nothing for it; log entry 33). -/
def secverNow (s : State) (g : Grid) : Nat := match vread s g.asid (g.desc.addr + 0x1C) 1 with | .ok v => v | .error _ => g.desc.secver

/-- A new team's groups from i on. -/
def placeGroups (core id vbase vreg : Nat) : Nat → List Nat → State → State
  | _, [], s => s
  | i, slot :: r, s =>
    placeGroups core id vbase vreg (i + 1) r
      (setGroup s (id * 32 + i) { Group.initial with core := core, slot := slot, homeSlot := slot, vbase := vbase + 32 * i * vreg })

/-- A new team of the grid on a core: it starts in the state of R130, its first instruction after what its pod waited for (R105). -/
def placeTeam (s : State) (g : Grid) (id linear rank count : Nat) (mates : List Nat) (p : Nat × Room) : State :=
  let c := startOf g.desc
  let pc := wd (match c with | .d => g.desc.dentry | .l => g.desc.lentry)
  let t : Team :=
    { Team.initial with
      grid := g.pod, asid := g.asid, linear := linear, dims := g.team,
      index := (linear % g.dims.1, linear / g.dims.1 % g.dims.2.1, linear / (g.dims.1 * g.dims.2.1)),
      home := p.1, start := c, rank := rank, count := count, mates := mates, desc := g.desc, scratchBase := p.2.scratch, accBase := p.2.acc,
      rayBase := p.2.rays }
  let s := placeGroups p.1 id p.2.vbase (vregOf g.desc c) 0 p.2.slots (setTeam (emptyL1 s p.1) id t)
  (threadsOfTeam s id).foldl (fun s k =>
    acquired (takeFrom (setThread s k { Thread.initial with pc := pc, csp := wd g.desc.priv }) k (.pod g.pod)) k) s

/-- The teams of a cluster, by rank. -/
def placeTeams (g : Grid) (base first count : Nat) (mates : List Nat) : Nat → List (Nat × Room) → State → State
  | _, [], s => s
  | r, p :: ps, s => placeTeams g base first count mates (r + 1) ps (placeTeam s g (base + r) (first + r) r count mates p)

end Sys2Proof.Machine
end

