-- ==== Sys2Proof/Machine/Migrate.lean ====
section
/-! DEFINITION. Moves between core classes (R216 to R232). -/

namespace Sys2Proof.Machine

/-- The core a move of group g leads to (R221). -/
def moveTarget (s : State) (g : Nat) : Nat :=
  let t := getTeam s (g / 32)
  let c := (getGroup s g).core
  match classOfCore c with
  | .d => lcoreOfQuad (quadOf c)
  | .l => match classOfCore t.home with | .d => t.home | .l => bestDcore s (quadOf c)

/-- The scheduler's decision on a move of group g, its code, and the target's slot and registers (R222): 1 is a grant. -/
def decideMove (s : State) (g : Nat) : Nat × Nat × Nat :=
  let t := getTeam s (g / 32)
  let c := moveTarget s g
  let co := getCore s c
  let asked : Bool := co.halting || (getCore s (getGroup s g).core).halting
  if co.fenced || co.fencing then (2, 0, 0)
  else if c = t.home then (if asked then (5, 0, 0) else (1, (getGroup s g).homeSlot, 0))
  else if freeSlots s c = [] then (3, 0, 0)
  else match groupRoom s c t.desc with
    | none => (4, 0, 0)
    | some (slot, v) => if asked then (5, 0, 0) else (1, slot, v)

/-- The records of a decision on group g (R434, R436); the location of a move's log record is a free value (log entry 16). -/
def noteDecision (s : State) (g code target : Nat) (auto : Bool) (pc : Word) : State :=
  match liveOfGroup s g with
  | [] => s
  | k :: r =>
    let s := trace s 2 5 (traceAtThread s k (groupMask (k :: r)) pc) (leBytes 1 code ++ leBytes 1 target ++ leBytes 1 (b2n auto))
    if logOn s then
      let d := draw s
      logAct d.2 4 { source := 0, core := (getGroup s g).core, asid := (getTeam s (g / 32)).asid, thread := keyLin k } (Config.count d.1).toNat
    else s

/-- The equivalence point whose word begins what stands at pc in thread k's code (R217, R220); an error is the trap. -/
def eqpAt (s : State) (k : Nat) (f : Form) (pc : Word) : Except Stop EqpEntry :=
  let failed {α : Type} (e : MFault × Nat) : Except Stop α := let t := fetchTrap e; .error (.trap t.1 t.2.1 t.2.2)
  let look (at_ : Word) : Except Stop EqpEntry :=
    match fetchWord s k f at_ with
    | .error e => failed (e, baseOf s k f + at_.toNat)
    | .ok w =>
      if opOf w ≠ 0xC5 then trapOf Trap.migerr 3
      else match lookupEqp s k (w.toNat % 4096) with
        | .error e => failed e
        | .ok none => trapOf Trap.migerr 1
        | .ok (some e) => if (match f with | .d => e.dpc | .l => e.lpc) ≠ at_ then trapOf Trap.migerr 1 else .ok e
  match f with
  | .l => look pc
  | .d => match fetchWord s k f pc with
    | .error e => failed (e, baseOf s k f + pc.toNat)
    | .ok w => if opOf w = 0xE0 then look (pc + 4) else trapOf Trap.migerr 3

/-- The state map of an entry for thread k's team (R13). -/
def mapOf (s : State) (k : Nat) (e : EqpEntry) : Except MFault (List (Nat × Nat)) :=
  let t := teamOf s k
  readMap s t.asid (t.desc.mapoff + e.map) e.nmap

/-- Asks for a move of group g at an equivalence point: the decision is recorded, and a grant charges the target (R222, R227). -/
def requestMove (s : State) (g : Nat) (e : EqpEntry) (pairs : List (Nat × Nat)) (auto : Bool) (pc : Word) : State × Bool :=
  let d := decideMove s g
  let c := moveTarget s g
  let s := noteDecision s g d.1 c auto pc
  if d.1 = 1 then
    let from_ := (getGroup s g).core
    let s := modGroup (noteMove s g 1) g (fun x => { x with moving := some { core := c, slot := d.2.1, vbase := d.2.2, entry := e, pairs := pairs, auto := auto } })
    (bump (bump s from_ 11 1) c 11 1, true)
  else (noteMove s g d.1, false)

/-- MIGR, for its group (R220). DESIGN CHOICE (log entry 32): a state map that cannot be read traps PFAULT. -/
def actMigr (c : Ctx) (ks : List Nat) (s : State) : Act := do
  if ks.any (fun k => (getThread s k).intrap) then trapOf Trap.migerr 5
  else if ks.any (fun k => decide ((getThread s k).csp.toNat ≠ (teamOf s k).desc.priv)) then trapOf Trap.migerr 2
  else match bundleAt s s.focus.1 s.focus.2 with
    | none => .ok s
    | some b =>
      let e ← eqpAt s c.k c.form (fallThrough b)
      match mapOf s c.k e with
      | .error f => let t := fetchTrap (f, (teamOf s c.k).desc.mapoff + e.map); .error (.trap t.1 t.2.1 t.2.2)
      | .ok pairs =>
        if logBlocked s 1 then .error .stall
        else
          let r := requestMove (noteMap s c.k e) (keyGroup c.k) e pairs false b.pc
          if r.2 then .ok (standStill r.1 r.1.focus.1 r.1.focus.2 b)
          else .ok (ks.foldl (fun s k => writeP s k 7 PVal.zero) r.1)

/-- MIGR (R220). -/
def execMigr (w : TForm) (s : State) : Host.Outcome State Fault Refusal := .next (issueConvergent (.migr w) actMigr s)

/-- Makes a granted move (R216, R223), once every pending result of the group's live threads has a value. -/
def makeMove (s : State) (g : Nat) (m : Move) : State :=
  let to_ := classOfCore m.core
  let home := decide ((getTeam s (g / 32)).home = m.core)
  let ks := liveOfGroup s g
  let s := ks.foldl (fun s k =>
    let s := moveThread (deliver s k (fun _ => true)) k m.pairs m.entry to_ home
    if m.auto then s else writeP s k 7 ⟨true, false⟩) s
  modGroup s g (fun x => { x with core := m.core, slot := m.slot, visitBase := if home then 0 else m.vbase, moving := none, lowPicks := 0 })

/-- GROUP_MOVE (R223). -/
def execGroupMove (group : Nat) (s : State) : Host.Outcome State Fault Refusal :=
  .next (match (getGroup s group).moving with
    | none => s
    | some m =>
      if (getTeam s (group / 32)).killed || (liveOfGroup s group).any (fun k => (getThread s k).pend.any (fun p => p.value.isNone)) then s
      else makeMove s group m)

end Sys2Proof.Machine
end

