-- ==== Sys2Proof/Machine/Issue.lean ====
section
/-! DEFINITION. The pickers (R137 to R144, R226, R227), results that arrive (R147) and convergence mismatch (R204). -/

namespace Sys2Proof.Machine

/-- The code a standing thread would enter: its words, the PC of the first, and the position in a sequence (R41, R43). -/
structure Entry where
  base : Word
  code : List Word
  seq : Seq
  deriving DecidableEq, Repr

/-- The position of a thread that enters at pc what begins there: at a packet, or at a RUNH with its XMASK (R43). -/
def freshSeq (f : Form) (pc : Word) (xmask : Nat) : Seq :=
  match f with
  | .l => { head := wd (pc.toNat / 12 * 12), packet := 0, xmask := 0, begun := false }
  | .d => { head := pc, packet := 0, xmask := xmask, begun := false }

/-- What stands at thread k's PC; an error is a failed fetch. DESIGN CHOICE (log entry 30): a packet is fetched whole, the slots before the
target's among it (R42), and so is a run whose LEN is legal; a fetch that faults is found before any word is checked, so PFAULT comes
before ILLENC (R43). -/
def codeEntry (s : State) (k : Nat) : Except (MFault × Nat) Entry :=
  let t := getThread s k
  match classOf s k with
  | .l =>
    let q := t.seq.getD (freshSeq .l t.pc 0)
    let base := wd (t.pc.toNat / 12 * 12)
    match fetchWords s k .l base 3 with
    | .error e => .error e
    | .ok ws => .ok { base := base, code := ws, seq := q }
  | .d =>
    let q := t.seq.getD (freshSeq .d t.pc 0xFFFF)
    match fetchWord s k .d q.head with
    | .error e => .error (e, baseOf s k .d + q.head.toNat)
    | .ok w =>
      match decodeWords [w] with
      | .ok (.runh r, _) =>
        let q := t.seq.getD (freshSeq .d t.pc r.xmask.toNat)
        if !legal .d (.runh r) then .ok { base := q.head, code := [w], seq := q }
        else match fetchWords s k .d q.head (r.len.toNat + 2) with
          | .error e => .error e
          | .ok ws => .ok { base := q.head, code := ws, seq := q }
      | .ok _ => .ok { base := q.head, code := [w], seq := q }
      | .error _ => .ok { base := q.head, code := [w], seq := q }

/-- The instructions of ws from PC pc on, up to the first word that is none. -/
def instrsFrom : Nat → Word → List Word → List (Word × Instr)
  | 0, _, _ => []
  | n + 1, pc, ws =>
    match decodeWords ws with
    | .error _ => []
    | .ok (i, _) => (pc, i) :: instrsFrom n (pc + wd (4 * lenOf i)) (ws.drop (lenOf i))

/-- The virtual addresses of an entry's words. -/
def entryWords (s : State) (k : Nat) (e : Entry) : List Nat :=
  (List.range e.code.length).map (fun i => baseOf s k (classOf s k) + e.base.toNat + 4 * i)

/-- The words of an entry are in the instruction buffer of the core that thread k runs on (R138). -/
def entryHeld (s : State) (k : Nat) (e : Entry) : Bool :=
  (entryWords s k e).all (fun va => (codeLine (getCore s (groupOf s k).core) (teamOf s k).asid va).isSome)

/-- The core takes in what thread k would enter, where it can be fetched (R138, R418, log entry 42). -/
def fetchEntry (s : State) (k : Nat) : State :=
  match codeEntry s k with
  | .error _ => s
  | .ok e => if entryHeld s k e then s else (entryWords s k e).foldl (fun s va => fillCode s (groupOf s k).core (teamOf s k).asid (teamClass s (teamOf s k)) va) s

/-- The instructions of an entry from PC pc on. -/
def Entry.instrs (e : Entry) (pc : Word) : List (Word × Instr) := instrsFrom 32 pc (e.code.drop ((pc - e.base).toNat / 4))

/-- No pending result holds thread k back from an entry (R138). -/
def pendClear (s : State) (k : Nat) (e : Entry) : Bool :=
  let t := getThread s k
  let is := (e.instrs t.pc).map (·.2)
  let held := match classOf s k with | .l => t.pend | .d => t.pend.filter (·.awaited)
  held.all (fun p => is.all (fun i => decide (latency i = .frame) || !p.touches (touched s k i)))

/-- A group-convergent instruction that an entry reaches: its PC and words, whether it is the first instruction that would execute, and the
packets before its own. -/
structure Conv where
  pc : Word
  words : List Word
  first : Bool
  packet : Nat
  deriving DecidableEq, Repr

/-- A group-convergent instruction stands where the rules put it: a collective in slot 0 of an unheld packet, or first in its run; MIGR and
PWAIT last (R34, R203). One that does not is an encoding trap of its packet or run, for which no thread gathers. -/
def placed (s : State) (k : Nat) (e : Entry) (pc : Word) (i : Instr) : Bool :=
  match classOf s k with
  | .l => (fateL (lHome s k) (decide (0 < e.seq.packet)) e.seq.packet (slotOf pc) i).isNone
  | .d => (!isCollective i || decide (pc = e.base + 4)) && (!isControl i || decide (pc + wd (4 * lenOf i) = e.base + wd (4 * (e.code.length - 1))))

/-- The group-convergent instruction that thread k's entry reaches, in its packet, hold sequence or run, at most fuel packets on (R142);
a packet holds into the next by its last instruction, be it a PAD (R32, R35). -/
def convergesAt (s : State) (k : Nat) : Nat → Word → Entry → Option Conv
  | 0, _, _ => none
  | fuel + 1, pc, e =>
    let all := e.instrs pc
    let is := all.filter (fun x => decide (latency x.2 ≠ .frame))
    match is.find? (fun x => isConvergent x.2) with
    | some x => if !placed s k e x.1 x.2 then none else some { pc := x.1, words := e.code.drop ((x.1 - e.base).toNat / 4), first := decide ((is.head?.map (·.1)) = some x.1), packet := 0 }
    | none =>
      match classOf s k, all.getLast? with
      | .l, some x =>
        if instrK x.2 && decide (slotOf x.1 + lenOf x.2 = 3) then
          match fetchWords s k .l (nextPacket pc) 3 with
          | .error _ => none
          | .ok ws => (convergesAt s k fuel (nextPacket pc) { e with base := nextPacket pc, code := ws, seq := { e.seq with packet := e.seq.packet + 1 } }).map
              (fun y => { y with first := is.isEmpty && y.first, packet := y.packet + 1 })
        else none
      | .l, none => none
      | .d, _ => none

/-- The group-convergent instruction that thread k reaches from where it stands (R142). -/
def convOf (s : State) (k : Nat) : Option Conv :=
  match codeEntry s k with
  | .error _ => none
  | .ok e => convergesAt s k 8 (getThread s k).pc e

/-- The PC at which thread k's group must gather (R142): that of the instruction where it comes first, else the entry that reaches it; none
for a thread that goes on to it alone, back inside its sequence or at an entry that its group has passed. -/
def gatherAt (s : State) (k : Nat) (v : Conv) : Option Word :=
  let t := getThread s k
  if v.first then some v.pc
  else if t.seq.isSome then none
  else if (liveOfGroup s (keyGroup k)).any (fun j => decide (j ≠ k) && (getThread s j).seq.isSome && (convOf s j).any (fun w => decide (w.pc = v.pc))) then
    none
  else some t.pc

/-- A thread bound to a picker, as it stands at a pick: whether its own state lets it be ready, and where its group must gather
(R138, R142). -/
structure Standing where
  k : Nat
  able : Bool
  conv : Option Word
  overdue : Option Nat
  age : Nat

/-- How thread k stands. -/
def standingOf (s : State) (k : Nat) : Standing :=
  let t := getThread s k
  match codeEntry s k with
  | .error _ => { k := k, able := decide (t.wait = .none), conv := none, overdue := t.overdue, age := t.age }
  | .ok e =>
    { k := k, able := decide (t.wait = .none) && entryHeld s k e && pendClear s k e, conv := (convergesAt s k 8 t.pc e).bind (gatherAt s k),
      overdue := t.overdue, age := t.age }

/-- Two threads stand at one key (R137). -/
def sameKey (s : State) (a b : Nat) : Bool :=
  let ta := teamOf s a
  let tb := teamOf s b
  let x := getThread s a
  let y := getThread s b
  decide (ta.asid = tb.asid ∧ ta.desc.addr = tb.desc.addr ∧ x.pc = y.pc)

/-- The groups bound to a picker: not swapped out, not moving (R137). -/
def groupsBound (s : State) (core picker : Nat) : List Nat :=
  (allGroups s).filter (fun g =>
    let x := getGroup s g
    decide (x.core = core ∧ pickerOf s g = picker) && x.swapped.isNone && x.moving.isNone && !(getTeam s (g / 32)).killed)

/-- The groups that a picker serves now: those bound to it that are not stopped (R138). -/
def groupsOn (s : State) (core picker : Nat) : List Nat :=
  (groupsBound s core picker).filter (fun g => decide ((getTeam s (g / 32)).hold = .none))

/-- The ready threads among those standing (R138, R142). -/
def readyOf (s : State) (xs : List Standing) : List Standing :=
  xs.filter (fun x => x.able && (x.conv.isNone || (liveOfGroup s (keyGroup x.k)).all (fun j =>
    xs.any (fun y => y.able && decide (y.k = j ∧ y.conv = x.conv)))))

/-- Threads of a picker whose age has reached 64 become overdue together (R140). -/
def promoteOverdue (s : State) (ks : List Nat) : State :=
  let due := ks.filter (fun k => let t := getThread s k; decide (64 ≤ t.age ∧ t.overdue = none) && !t.exited)
  if due = [] then s
  else due.foldl (fun s' k => modThread s' k (fun t => { t with overdue := some s.fresh })) { s with fresh := s.fresh + 1 }

/-- The order of candidates: overdue first, then by age, then in bundle order (R139). -/
def candBefore (s : State) (a b : Standing) : Bool :=
  match a.overdue, b.overdue with
  | some x, some y => if x ≠ y then decide (x < y) else if a.age ≠ b.age then decide (b.age < a.age) else before s a.k b.k
  | some _, none => true
  | none, some _ => false
  | none, none => if a.age ≠ b.age then decide (b.age < a.age) else before s a.k b.k

/-- Inserts a candidate in order. -/
def insertCand (s : State) (x : Standing) : List Standing → List Standing
  | [] => [x]
  | y :: r => if candBefore s x y then x :: y :: r else y :: insertCand s x r

/-- Candidates in order. -/
def sortCand (s : State) : List Standing → List Standing
  | [] => []
  | x :: r => insertCand s x (sortCand s r)

/-- Key a is taken rather than key b: more ready threads, then the lower PC, then the lower resident descriptor (R139). -/
def keyBetter (s : State) (rdy : List Standing) (a b : Standing) : Bool :=
  let n (x : Standing) : Nat := (rdy.filter (fun y => sameKey s x.k y.k)).length
  let pc (x : Standing) : Nat := (getThread s x.k).pc.toNat
  let d (x : Standing) : Nat := (teamOf s x.k).desc.addr
  if n a ≠ n b then decide (n b < n a) else if pc a ≠ pc b then decide (pc a < pc b) else decide (d a < d b)

/-- The thread of rdy whose key is taken (R139). -/
def chooseKey (s : State) (rdy : List Standing) : Option Standing :=
  let od := rdy.filter (fun x => x.overdue.isSome)
  if od = [] then
    rdy.foldl (fun (b : Option Standing) x => match b with | none => some x | some y => if keyBetter s rdy x y then some x else some y) none
  else
    -- age breaks no tie here: bundle order does
    (sortCand s (od.map (fun x => { x with age := 0 }))).head?

/-- The bundle's threads: the first 32 candidates at the key that wait for no group, or the live threads of one group (R139, R142). -/
def chooseThreads (s : State) (rdy : List Standing) (x : Standing) : List Nat :=
  let cand := sortCand s (rdy.filter (fun y => sameKey s x.k y.k))
  match cand with
  | [] => []
  | y :: _ =>
    if y.conv.isSome then bundleOrder s (liveOfGroup s (keyGroup y.k))
    else bundleOrder s (((cand.filter (fun z => z.conv.isNone)).take 32).map (·.k))

/-- The move that a group in the chosen bundle is offered in place of its EQP, if any (R227). DESIGN CHOICE (log entry 32): none where the
table or the state map cannot be read. -/
def offerOf (s : State) (core picker : Nat) (ks : List Nat) (g : Nat) : Option (EqpEntry × List (Nat × Nat) × Word) :=
  let x := getGroup s g
  let t := getTeam s (g / 32)
  let live := liveOfGroup s g
  let f := classOfCore core
  let due := match f with
    | .d => decide (t.desc.flags / 2 % 2 = 1 ∧ x.lowPicks = 256)
    | .l => decide (t.desc.flags / 4 % 2 = 1 ∧ live.length = 32 ∧ kget 0 (getCore s core).busyPicks picker = 256)
  match live with
  | [] => none
  | k :: _ =>
    if due && !x.declined && live.all (fun j => decide (j ∈ ks ∧ (getThread s j).csp.toNat = t.desc.priv ∧ (getThread s j).intrap = false ∧ (getThread s j).seq = none)) then
      match eqpAt s k f (getThread s k).pc with
      | .error _ => none
      | .ok e => match mapOf s k e with
        | .error _ => none
        | .ok m => some (e, m, (getThread s k).pc)
    else none

/-- What each pick counts for threads and groups that it does not take: the picks of a join wait, the pick that a YIELD sits out, and
LOWPICKS, for every group bound to the picker (R144, R179, R226). -/
def countPick (s : State) (core : Nat) (gs ks : List Nat) : State :=
  let s := ks.foldl (fun s k =>
    match (getThread s k).wait with
    | .yielded => wakeJoining s k
    | .join n => modThread s k (fun t => { t with wait := .join (n + 1) })
    | .none => s | .barw _ _ => s | .halted => s | .entering => s) s
  if classOfCore core = .d then
    gs.foldl (fun s g => if (liveOfGroup s g).length < 8 then modGroup s g (fun x => { x with lowPicks := min 256 (x.lowPicks + 1) }) else s) s
  else s

/-- A join wait that has lasted 32 picks ends (R144). -/
def endJoin (s : State) (k : Nat) : State :=
  match (getThread s k).wait with
  | .join n => if 32 ≤ n then modThread s k (fun t => { t with wait := .none, age := 0, overdue := none }) else s
  | .none => s | .barw _ _ => s | .halted => s | .yielded => s | .entering => s

/-- The words of a run from where the bundle re-enters it are checked as at the run's entry: its temporaries hold what the thread brings
back, and the LONG instructions before that place have left their destinations (R34, R37, R39, R43, R44). -/
def reenterRun (s : State) (core picker k : Nat) (b : Bundle) : State :=
  let pos := (b.pc - b.seq.head).toNat / 4
  let held := ((getThread s k).regs.x.map (·.1))
  let before_ := (instrsFrom 24 (b.seq.head + 4) (b.code.drop 1)).filter (fun x => decide ((x.1 - b.seq.head).toNat < 4 * pos ∧ latency x.2 = .long))
  match checkD (lHome s k) b.seq.xmask 26 pos (decide (pos = 1)) held (before_.flatMap (fun x => regWrites x.2)) (codeFrom b b.pc) with
  | none => s
  | some (p, n) => trapAll s core picker b (b.seq.head + wd (4 * p)) n

/-- The words of the packets that a hold sequence goes on into from the packet whose words from pc on are ws, at most n of them and up to one
that cannot be fetched: the bundle holds them from its entry on (R32, R281). -/
def aheadWords (s : State) (k : Nat) : Nat → Word → List Word → List Word
  | 0, _, _ => []
  | n + 1, pc, ws =>
    match (instrsFrom 3 pc ws).getLast? with
    | none => []
    | some x =>
      if instrK x.2 && decide (slotOf x.1 + lenOf x.2 = 3) then
        match fetchWords s k .l (nextPacket pc) 3 with
        | .error _ => []
        | .ok w => w ++ aheadWords s k n (nextPacket pc) w
      else []

/-- Threads of the bundle take an encoding trap of their own at its PC, and leave it. -/
def trapSome (s : State) (core picker : Nat) (b : Bundle) (ks : List Nat) (at_ : Word) (n : Nat) : State :=
  ks.foldl (fun s k => leave (enterTrap s k n 0 none (trapAt b at_ at_ (getThread s k).seq)) core picker k) s

/-- Threads at one key that stand at different places of a sequence: those that came without the position of a run inside it do not stand at a RUNH,
and those for which the packet's place in a sequence breaks a rule trap alone; the others go on, in the sequence of the one that is
farthest on (R32, R41, R43, R137; DEDUCED, log entry 30). -/
def sortOut (s : State) (core picker : Nat) (b : Bundle) : State :=
  let qs := b.threads.map (fun k => (k, (getThread s k).seq))
  if qs.all (fun x => decide (some x.2 = (qs.head?.map (·.2)))) then s
  else
    match b.form with
    | .d => trapSome s core picker b ((qs.filter (fun x => !x.2.any (fun q => decide (q.head = b.seq.head ∧ q.xmask = b.seq.xmask)))).map (·.1)) b.pc Trap.illenc
    | .l => qs.foldl (fun s x =>
        let q := x.2.getD (freshSeq .l b.pc 0)
        match checkL (lHome s x.1) (decide (0 < q.packet)) q.packet 3 (slotOf b.pc) [] (codeFrom b b.pc) with
        | none => s
        | some (p, n) => trapSome s core picker b [x.1] (b.pc + wd (4 * (p - slotOf b.pc))) n) s

/-- Of threads that enter one bundle, the one whose position in a sequence the bundle takes. -/
def farthest (s : State) (k : Nat) (ks : List Nat) : Nat :=
  ks.foldl (fun b j => match (getThread s b).seq, (getThread s j).seq with
    | none, some _ => j
    | some x, some y => if x.packet < y.packet then j else b
    | some _, none => b
    | none, none => b) k

/-- A bundle of threads, the first of them first, enters what stands at their PC (R41 to R43). -/
def enterBundle (s : State) (core picker first : Nat) (ks : List Nat) : State :=
  let k := farthest s first ks
  let t := getThread s k
  let f := classOfCore core
  let b0 : Bundle :=
    { threads := ks, form := f, pc := t.pc, base := t.pc, code := [], seq := t.seq.getD (freshSeq f t.pc 0xFFFF),
      set := none, rest := none, probe := false, arrivals := [], ahead := [], early := none }
  match codeEntry s k with
  | .error e => let p := fetchTrap e; trapHere (setBundle s core picker (some b0)) core picker b0 p.1 p.2.1 p.2.2
  | .ok e =>
    let ahead := match f with | .l => aheadWords s k 7 t.pc (e.code.drop ((t.pc - e.base).toNat / 4)) | .d => []
    let b := { b0 with base := e.base, code := e.code, seq := e.seq, ahead := ahead }
    let s := sortOut (setBundle s core picker (some b)) core picker b
    match bundleAt s core picker with
    | none => s
    | some b =>
    match f with
    | .l =>
      let q := (getThread s (farthest s (b.threads.headD k) b.threads)).seq.getD (freshSeq .l b.pc 0)
      checkPacket s core picker { b with seq := q } (decide (0 < q.packet))
    | .d =>
      match decodeWords e.code with
      | .ok (.runh _, _) => if b.pc = b.seq.head then s else reenterRun s core picker k b
      | .ok _ => trapAll s core picker b b.pc Trap.illenc
      | .error (.illop _ _) => trapAll s core picker b b.pc Trap.illop
      | .error .short => trapAll s core picker b b.pc (shortFate (lHome s k) e.code)

/-- The pick itself: the ready threads rdy at a key form a bundle, but for the groups that are offered a move, which the scheduler takes in
the order of their slots (R139, R222, R226, R227). -/
def takePick (s : State) (core picker : Nat) (ks : List Nat) (rdy : List Standing) (x : Standing) : State :=
  let chosen := chooseThreads s rdy x
  let offers := (sortBy (fun a b => decide ((getGroup s a).slot ≤ (getGroup s b).slot)) (dedup (chosen.map keyGroup))).filterMap
    (fun g => (offerOf s core picker chosen g).map (fun o => (g, o)))
  if offers ≠ [] ∧ logBlocked s (min (ringCap s.logRing - 1) offers.length) = true then s
  else
    let s := countPick s core (groupsBound s core picker) ks
    let s := rdy.foldl (fun s y =>
      modThread s y.k (fun t => if y.k ∈ chosen then { t with age := 0, overdue := none } else { t with age := t.age + 1 })) s
    let out := decide (classOfCore core = .l ∧ chosen.length < rdy.length)
    let s := modCore s core (fun c =>
      let n := if out then min 256 (kget 0 c.busyPicks picker + 1) else 0
      { c with busyPicks := kset 0 c.busyPicks picker n })
    let s := (dedup (chosen.map keyGroup)).foldl (fun s g => modGroup s g (fun y => { y with declined := false })) s
    let s := offers.foldl (fun s o =>
      let r := requestMove (noteMap s (groupThread o.1 0) o.2.1) o.1 o.2.1 o.2.2.1 true o.2.2.2
      if r.2 then r.1 else modGroup r.1 o.1 (fun y => { y with declined := true })) s
    let rest := chosen.filter (fun k => offers.all (fun o => decide (o.1 ≠ keyGroup k)))
    match rest with
    | [] => s
    | k :: _ => enterBundle s core picker k rest

/-- A pick of a picker that has no bundle (R139). The core takes in the words of the threads that stand there: they are ready at the next. -/
def pickTurn (s : State) (core picker : Nat) : State :=
  let gs := groupsOn s core picker
  let ks := bundleOrder s (gs.flatMap (liveOfGroup s))
  let s := promoteOverdue s ks
  let s := ks.foldl endJoin s
  let rdy := readyOf s (ks.map (standingOf s))
  let s := (ks.filter (fun k => decide ((getThread s k).wait = .none))).foldl fetchEntry s
  match chooseKey s rdy with
  | none => modCore (countPick s core (groupsBound s core picker) ks) core (fun c => { c with busyPicks := kset 0 c.busyPicks picker 0 })
  | some x => takePick s core picker ks rdy x

/-- PICK (R139): not while a bundle is in progress, nor while the core is asked to halt (R151). -/
def execPick (core picker : Nat) (s : State) : Host.Outcome State Fault Refusal :=
  .next (if 216 ≤ core ∨ pickersOf (classOfCore core) ≤ picker ∨ (bundleAt s core picker).isSome = true ∨ haltingOn s core = true then s else pickTurn s core picker)

/-- OVERDUE: the threads of a picker that reach age 64 at one pick become overdue together, thread among them (R140). -/
def execOverdue (thread : Nat) (s : State) : Host.Outcome State Fault Refusal :=
  .next (if (kfind s.threads thread).isNone ∨ (getThread s thread).age < 64 then s
    else
      let g := keyGroup thread
      let gs := groupsOn s (getGroup s g).core (pickerOf s g)
      if g ∈ gs then promoteOverdue s (gs.flatMap (liveOfGroup s)) else s)

/-- JOIN_WAIT_TIMEOUT (R144). -/
def execJoinWaitTimeout (thread : Nat) (s : State) : Host.Outcome State Fault Refusal :=
  .next (if (kfind s.threads thread).isNone then s else endJoin s thread)

/-- RESULT_ARRIVAL: the result at index is written when its unit has its value; a special-function result follows those before it, of the
thread and of its group (R147, R197, R402). A thread being entered into its handler is ready once none is left (R400). -/
def execResultArrival (thread index : Nat) (s : State) : Host.Outcome State Fault Refusal :=
  .next (match kfind s.threads thread with
    | none => s
    | some t => match t.pend[index]? with
      | none => s
      | some p =>
        if p.value.isNone || (p.sfuOp.isSome && (t.pend.take index).any (·.sfuOp.isSome)) || sfuHeld s thread p then s
        else
          enteredHandler (deliver s thread (fun q => decide (q.tag = p.tag))) thread)

/-- Where a live thread is blocked at a group-convergent instruction: the PC where its group must gather, the instruction, and the position in
its sequence that the instruction has (R142, R204); none when it is not so blocked. -/
def blockedAt (s : State) (k : Nat) : Option (Word × Conv × Option Seq) :=
  let t := getThread s k
  if t.wait ≠ .none then none
  else match codeEntry s k with
    | .error _ => none
    | .ok e => match convergesAt s k 8 t.pc e with
      | none => none
      | some v => (gatherAt s k v).map (fun at_ =>
          (at_, v, if v.first then t.seq else some { e.seq with packet := e.seq.packet + v.packet, begun := false }))

/-- A mismatched group: every live thread traps BARERR at the instruction where it is blocked, which its record names and at which it
resumes (R204). A group with a thread in its handler is not mismatched (R203). -/
def mismatch (s : State) (g : Nat) : State :=
  let ks := liveOfGroup s g
  let x := getGroup s g
  let p := pickerOf s g
  if (kfind s.groups g).isNone ∨ (bundleAt s x.core p).any (fun b => b.threads.any (fun k => decide (keyGroup k = g))) = true ∨ ¬ g ∈ groupsOn s x.core p then s
  else
    match ks with
    | [] => s
    | k :: _ =>
      let w := ks.map (fun j => (j, blockedAt s j))
      if ks.any (fun j => (getThread s j).intrap) || w.any (fun e => e.2.isNone) ||
          w.all (fun e => decide (e.2.map (·.1) = (blockedAt s k).map (·.1))) then s
      else
        w.foldl (fun s e =>
          match e.2 with
          | none => s
          | some (_, v, q) =>
            enterTrap s e.1 Trap.barerr 0x10 none
              { pc := v.pc, word := v.words.headD 0, word2 := secondWord v.words, resume := v.pc, seq := q }) s

/-- CONVERGENCE_MISMATCH (R204). -/
def execConvergenceMismatch (group : Nat) (s : State) : Host.Outcome State Fault Refusal := .next (mismatch s group)

end Sys2Proof.Machine
end

