-- ==== Sys2Proof/Machine/ErrLog.lean ====
section
/-! DEFINITION. Hardware errors as they are recorded (R419, R423). -/

namespace Sys2Proof.Machine

/-- The core that holds the place of an error, if one does. -/
def placeCore (s : State) (p : ErrPlace) : Option Nat :=
  match p with
  | .deviceLine _ => none
  | .marrowLine _ => none
  | .carveLine _ => none
  | .scratchWord team _ => some (getTeam s team).home
  | .threadRegister thread _ => some (groupOf s thread).core
  | .uniformRegister group _ => some (getGroup s group).core
  | .accElement team _ => some (getTeam s team).home
  | .innerElement team _ => some (getTeam s team).home
  | .stateStructure core _ _ => some core
  | .redBuffer core _ => some core
  | .cleanCopy core => some core
  | .other core => some core

/-- The slice of a place outside the cores (R246); that of a carved line is a fixed function of its carve address, which R247 does not
state (log entry 42). -/
def placeSlice (p : ErrPlace) : Nat :=
  match p with
  | .deviceLine l => sliceOf l
  | .marrowLine l => sliceOf l
  | .carveLine l => Config.carveSlice l % 54
  | .scratchWord _ _ => 0
  | .threadRegister _ _ => 0
  | .uniformRegister _ _ => 0
  | .accElement _ _ => 0
  | .innerElement _ _ => 0
  | .stateStructure _ _ _ => 0
  | .redBuffer _ _ => 0
  | .cleanCopy _ => 0
  | .other _ => 0

/-- A scratch word that holds a barrier object (R236). -/
def barrierWord (s : State) (team word : Nat) : Bool := decide (dataSize (getTeam s team).desc ≤ 4 * word)

/-- The class of an error: 0 CE, 1 data, 2 accumulator, 3 state (R419, R423). -/
def errClass (s : State) (e : HwError) : Nat :=
  if e.corrected then 0
  else match e.place with
    | .deviceLine _ => 1
    | .marrowLine _ => 1
    | .carveLine _ => 1
    | .scratchWord team word => if barrierWord s team word then 3 else 1
    | .threadRegister _ _ => 1
    | .uniformRegister _ _ => 1
    | .accElement _ _ => 2
    | .innerElement _ _ => 2
    | .stateStructure _ _ _ => 3
    | .redBuffer _ _ => 3
    | .cleanCopy _ => 0
    | .other _ => 0

/-- Writes an error record with an outcome: 0 pending, 1 TRANSIENT, 2 LASTING, 3 fenced (R423). -/
def errRecord (outcome : Nat) (s : State) (x : Seen) : State :=
  let unit := x.core.getD (placeSlice x.error.place)
  let r := ringWrite s s.errRing 32
    [leBytes 8 x.clock ++ leBytes 2 x.error.structureCode.toNat ++ leBytes 2 unit ++ leBytes 1 (errClass s x.error) ++ leBytes 1 outcome ++
      leBytes 2 x.error.asid.toNat ++ leBytes 8 x.error.address.toNat ++ leBytes 8 0]
  { r.1 with errRing := r.2 }

end Sys2Proof.Machine
end

