-- ==== Sys2Proof/Machine/Codebook.lean ====
section
/-! DEFINITION. The codebook table (R64 to R68). -/

namespace Sys2Proof.Machine

/-- The number of n-tuples over 1, 3, 5, 7 whose squares sum to s (R66). -/
def tupleCount : Nat → Nat → Nat
  | 0, s => if s = 0 then 1 else 0
  | n + 1, s => ([1, 3, 5, 7].map (fun a => if a * a ≤ s then tupleCount n (s - a * a) else 0)).foldl (· + ·) 0

/-- The i-th n-tuple of square sum s in lexicographic order, its first component at nibble pos (R66). -/
def tupleWord : Nat → Nat → Nat → Nat → Nat
  | 0, _, _, _ => 0
  | n + 1, s, i, pos =>
    let pick := [1, 3, 5, 7].foldl (fun (st : Nat × Option Nat) a =>
      match st.2 with
      | some _ => st
      | none =>
        let c := if a * a ≤ s then tupleCount n (s - a * a) else 0
        if st.1 < c then (st.1, some a) else (st.1 - c, none)) (i, none)
    match pick.2 with
    | none => 0
    | some a => a * 16 ^ pos + tupleWord n (s - a * a) pick.1 (pos + 1)

/-- Row n of the reset codebook table (R66). -/
def resetRow (n : Nat) : Word :=
  let r := [8, 16, 24, 32, 40, 48, 56].foldl (fun (st : Nat × Option Nat) s =>
    match st.2 with
    | some _ => st
    | none => let c := tupleCount 8 s; if st.1 < c then (st.1, some s) else (st.1 - c, none)) (n, none)
  match r.2 with | none => 0 | some s => wd (tupleWord 8 s r.1 0)

/-- Word n of a codebook table, held as its differences from the reset table (R66, R68). -/
def codeWord (cb : KMap Word) (n : Nat) : Word := (kfind cb n).getD (resetRow n)

/-- cb2_decode (R65). -/
def cb2Decode (cb : KMap Word) (index : Nat) (scale : Xr) (k : Nat) : Xr :=
  let h := (codeWord cb (index / 128)).toNat / 16 ^ k % 16
  let neg := if k < 7 then decide (index / 2 ^ k % 2 = 1)
    else (List.range 7).foldl (fun x i => x != decide (index / 2 ^ i % 2 = 1)) false
  let m := Xr.mul (.fin false h 2) scale
  if neg then Xr.neg m else m

end Sys2Proof.Machine
end

