-- ==== Sys2Proof/Machine/Csr.lean ====
section
/-! DEFINITION. Control and status registers as a thread reads and writes them (R440), and TLBI (R259). -/

namespace Sys2Proof.Machine

/-- MARCFG as it reads (R247). -/
def marcfgWord (s : State) : Word := wd (s.marcfgActive * 16 + b2n (decide (s.marcfgReq ≠ s.marcfgActive)) * 8 + s.marcfgReq)

/-- LREV (R17). -/
def lrev : Word := 0x00030101#32

/-- MXSTAT of a team as it reads (R310). -/
def mxstatWord (s : State) (id : Nat) : Word :=
  let t := getTeam s id
  let c := getCore s t.home
  t.mxstat ||| wd (b2n (decide (c.mxOwner = some id)) * 2 ^ 30 + (c.mxq.filter (fun q => decide (q.team = id))).length % 32 * 2 ^ 11)

/-- CLUSTER of a team (R133). -/
def clusterWord (t : Team) : Word := wd (t.rank % 16 * 2 ^ 24 + t.count % 16 * 2 ^ 20 + t.desc.cluh % 256 * 256 + t.desc.cluw % 256)

/-- What CSR n reads for thread k at an instruction at pc (R440). -/
def csrRead (s : State) (k : Nat) (pc : Word) (n : Nat) : Word :=
  let t := getThread s k
  let tm := teamOf s k
  let f := classOf s k
  match n with
  | 0x000 => 32
  | 0x001 => wd (lanesOf f)
  | 0x002 => match f with | .d => 0 | .l => 1
  | 0x003 => wd tm.home
  | 0x004 => wd (quadOf tm.home)
  | 0x005 => clusterWord tm
  | 0x006 => lrev
  | 0x007 => wd s.secCount
  | 0x008 => wd s.clock
  | 0x009 => t.clockHi
  | 0x010 => t.fpctl
  | 0x012 => t.csp
  | 0x014 => t.psnlo
  | 0x015 => t.psnhi
  | 0x016 => t.psnpc
  | 0x017 => t.psninfo
  | 0x018 => tm.trapvec
  | 0x020 => pc
  | 0x021 => pctOf t.eqp f
  | 0x022 => eqnOf t.eqp
  | 0x023 => eqofsOf t.eqp f pc
  | 0x024 => wd (migst s (keyGroup k))
  | 0x030 => tm.engst
  | 0x031 => tm.engalo
  | 0x032 => tm.engahi
  | 0x038 => mxstatWord s (keyTeam k)
  | 0x039 => tm.ovf.lo
  | 0x03A => tm.ovf.hi
  | 0x040 => s.mclass
  | 0x041 => marcfgWord s
  | 0x042 => s.rlmode
  | 0x050 => tm.raysplLo
  | 0x051 => tm.raysplHi
  | 0x054 => t.marchcfg
  | 0x060 => kget 0 t.frec 0 ||| (if t.intrap then 0x8000#32 else 0)
  | _ => kget 0 t.frec (n - 0x060)

/-- CSR n written by thread k (R440): fields by their access codes; a register with no writable field is unchanged. MCLASS, MARCFG and
RLMODE are written in the memory block only. -/
def csrWrite (s : State) (k n : Nat) (v : Word) : State :=
  let id := keyTeam k
  match n with
  | 0x010 => modThread s k (fun t => { t with fpctl := v &&& 0x3FF#32 })
  | 0x012 => modThread s k (fun t => { t with csp := v &&& 0xFFFFFFF8#32 })
  | 0x017 => if v.getLsbD 31 then modThread s k (fun t => { t with psninfo := 0, psnlo := 0, psnhi := 0, psnpc := 0 }) else s
  | 0x018 => modTeam s id (fun t => { t with trapvec := v })
  | 0x030 => if v.getLsbD 31 then modTeam s id (fun t => { t with engst := 0, engalo := 0, engahi := 0 }) else s
  | 0x038 => if v.getLsbD 31 then modTeam s id (fun t => { t with mxstat := 0 }) else s
  | 0x039 => modTeam s id (fun t => { t with ovf := t.ovf &&& ~~~(v.setWidth 64) })
  | 0x03A => modTeam s id (fun t => { t with ovf := t.ovf &&& ~~~(v.setWidth 64 <<< 32) })
  | 0x050 => modTeam s id (fun t => { t with raysplLo := v &&& 0xFFFFFC01#32 })
  | 0x051 => modTeam s id (fun t => { t with raysplHi := v &&& 0x000FFFFF#32 })
  | 0x054 => modThread s k (fun t => { t with marchcfg := v &&& 0xFF01#32 })
  | 0x06E => modThread s k (fun t => { t with frec := kset 0 t.frec 14 v, rpcWritten := true })
  | _ => s

/-- CSRR; a read of CLOCK latches its high word (R430, R440). -/
def actCsrr (c : Ctx) (s : State) : Act :=
  let n := c.raw.imm % 4096
  let v := csrRead s c.k c.pc n
  let s := if n = 0x008 then modThread s c.k (fun t => { t with clockHi := wd (s.clock / 2 ^ 32) }) else s
  .ok (postResult s c.k (dests c 1) (some [⟨v, false⟩]) .plain)

/-- CSRW (R440). -/
def actCsrw (c : Ctx) (s : State) : Act := do
  let v ← src s c .int c.raw.d
  if v.poison then poisonTrap else .ok (csrWrite s c.k (c.raw.imm % 4096) v.bits)

/-- CSRR (R440). -/
def execCsrr (w : WForm) (s : State) : Host.Outcome State Fault Refusal := .next (issue (.csrr w) actCsrr s)
/-- CSRW (R440). -/
def execCsrw (w : WForm) (s : State) : Host.Outcome State Fault Refusal := .next (issue (.csrw w) actCsrw s)

/-- TLBI of one page, after a release at device scope (R259). -/
def actTlbiPage (c : Ctx) (s : State) : Act := do
  let a ← srcD s c .n64 c.raw.a
  if a.poison then poisonTrap else .ok (dropTranslations (releaseAt s c.k 4) (some (teamOf s c.k).asid) (some a.bits.toNat))

/-- TLBI of an ASID, after a release at device scope (R259). -/
def actTlbiAsid (c : Ctx) (s : State) : Act := .ok (dropTranslations (releaseAt s c.k 4) (some (teamOf s c.k).asid) none)

/-- TLBI.PAGE (R259). -/
def execTlbiPage (w : TForm) (s : State) : Host.Outcome State Fault Refusal := .next (issue (.tlbiPage w) actTlbiPage s)
/-- TLBI.ASID (R259). -/
def execTlbiAsid (w : TForm) (s : State) : Host.Outcome State Fault Refusal := .next (issue (.tlbiAsid w) actTlbiAsid s)

end Sys2Proof.Machine
end

