-- ==== Sys2Proof/Machine/Restore.lean ====
section
/-! DEFINITION. The team image (R410, R414), bringing saved teams back (R415), and what the placement engine does next (R127, R128). -/

namespace Sys2Proof.Machine

/-- Bytes padded to a multiple of 128. -/
def padLine (b : List Byte) : List Byte := padTo (roundUp b.length 128) b

/-- The groups of a team that are not swapped out. -/
def presentGroups (s : State) (id : Nat) : List Nat :=
  ((List.range (teamGroups (getTeam s id))).map (fun i => id * 32 + i)).filter (fun g => (getGroup s g).swapped.isNone)

/-- The words of a table from key k on, n of them. -/
def wordsFrom (m : KMap Word) (k n : Nat) : List Byte := (List.range n).flatMap (fun i => leBytes 4 (kget 0 m (k + i)).toNat)

/-- A ray slot's 1,024 bytes (R321): the slot image, the instance path, and the stack entries the engine holds; one that has been spilled
or evicted holds its slot image alone (R414). -/
def slotImage (x : Slot) : List Byte :=
  let img := (List.range 32).flatMap (fun i => leBytes 4 (kget 0 x.img i).toNat)
  let path := (List.range 4).flatMap (fun i => leBytes 8 (((x.lvls[i]?).map Lvl.addr).getD 0))
  let entry (e : StackEntry) : List Byte := leBytes 8 e.ref.toNat ++ leBytes 4 e.t.toNat ++ leBytes 4 e.w.toNat
  if x.evictedAt.isSome then padTo 1024 img
  else padTo 1024 (img ++ path ++ List.replicate (16 * x.spilled) 0#8 ++ x.stack.reverse.flatMap entry)

/-- The matrix section of a team that owns its core's arrays (R414). -/
def matrixSection (c : Core) : List Byte :=
  leBytes 4 c.mxCfg.toNat ++ (List.range 8192).flatMap (fun i => leBytes 4 (toF32 .rn (kget Xr.zero c.planes i)).toNat) ++
    (List.range 512).flatMap (fun n => leBytes 4 (codeWord c.codebook n).toNat)

/-- The team owns its home core's matrix arrays (R302). -/
def ownsMatrix (s : State) (id : Nat) : Bool := decide ((getCore s (getTeam s id).home).mxOwner = some id)

/-- The team image (R414). -/
def teamImage (s : State) (id : Nat) : List Byte :=
  let t := getTeam s id
  let nt := tileCount t.desc
  let gs := presentGroups s id
  let own := ownsMatrix s id
  let groups := gs.flatMap (fun g => padLine (groupImage s g))
  let scratch := padLine (bytesAt t.scratch 0 (scratchSize t.desc))
  let acc := padLine (wordsFrom t.acc 0 (1024 * nt) ++ wordsFrom t.inner 0 (1024 * nt) ++
    (List.range nt).flatMap (fun i => leBytes 4 (kget 0 t.steps i)))
  let matrix := if own then padLine (matrixSection (getCore s t.home)) else []
  let rays := (List.range t.desc.rays).flatMap (fun n => slotImage ((kfind t.slots n).getD Slot.initial))
  let tids := bytesAt t.tids 0 8192
  let o1 := 512
  let o2 := o1 + groups.length
  let o3 := o2 + scratch.length
  let o4 := o3 + acc.length
  let o5 := o4 + matrix.length
  let o6 := o5 + rays.length
  let size := o6 + tids.length
  leBytes 4 0x58544354 ++ leBytes 4 size ++ leBytes 8 (teamPodVa s t) ++ leBytes 4 t.index.1 ++ leBytes 4 t.index.2.1 ++
  leBytes 4 t.index.2.2 ++ leBytes 1 t.home ++ leBytes 1 (match t.start with | .d => 0 | .l => 1) ++ leBytes 2 gs.length ++
  leBytes 4 o1 ++ leBytes 4 o2 ++ leBytes 4 o3 ++ leBytes 4 (if own then o4 else 0) ++ leBytes 4 o5 ++ leBytes 4 o6 ++ leBytes 8 0 ++
  leBytes 4 t.trapvec.toNat ++ leBytes 4 t.raysplLo.toNat ++ leBytes 4 t.raysplHi.toNat ++ leBytes 4 t.engst.toNat ++
  leBytes 4 t.engalo.toNat ++ leBytes 4 t.engahi.toNat ++ leBytes 4 (mxstatWord s id).toNat ++ leBytes 8 t.ovf.toNat ++
  List.replicate 412 0#8 ++ groups ++ scratch ++ acc ++ matrix ++ rays ++ tids

/-- A table of n words read from bytes at an offset; words of 0 are unlisted. -/
def wordsInto (b : List Byte) (o n : Nat) : KMap Word := wordTable ((List.range n).map (fun i => imgWord b (o + 4 * i)))

/-- The group images of a team image, by group. -/
def groupImages (b : List Byte) : Nat → List (Nat × List Byte)
  | 0 => []
  | n + 1 =>
    let size := imgNat b 0x30 4
    (imgNat b 0x0C 2, b.take size) :: groupImages (b.drop (roundUp size 128)) n

/-- A ray slot from its 1,024 bytes (R415). -/
def slotFrom (x : Slot) (b : List Byte) : Slot :=
  let y := { x with img := wordsInto b 0 32 }
  let entry (i : Nat) : StackEntry :=
    let o := 0xA0 + 16 * (x.spilled + i)
    { ref := BitVec.ofNat 64 (imgNat b o 8), t := imgWord b (o + 8), w := imgWord b (o + 12) }
  if x.evictedAt.isSome then y else { y with stack := (List.range x.stack.length).reverse.map entry }

/-- A team's own state from its image (R414, R415); its ray calls go on as they stood (R324). -/
def teamFrom (t : Team) (b : List Byte) : Team :=
  let nt := tileCount t.desc
  let o (i : Nat) : Nat := imgNat b (0x20 + 4 * i) 4
  let r (i : Nat) : Word := imgWord b (0x40 + 4 * i)
  { t with
    scratch := ksetList 0 [] 0 ((b.drop (o 1)).take (scratchSize t.desc)),
    acc := wordsInto b (o 2) (1024 * nt), inner := wordsInto b (o 2 + 4096 * nt) (1024 * nt),
    steps := (List.range nt).foldl (fun m i => kset 0 m i (imgNat b (o 2 + 8192 * nt + 4 * i) 4)) [],
    slots := t.slots.map (fun e => (e.1, slotFrom e.2 (b.drop (o 4 + 1024 * e.1)))),
    tids := ksetList 0 [] 0 ((b.drop (o 5)).take 8192),
    trapvec := r 0, raysplLo := r 1, raysplHi := r 2, engst := r 3, engalo := r 4, engahi := r 5,
    mxstat := r 6 &&& ~~~(0x4000F800#32), ovf := Word.pair (r 7) (r 8) }

/-- A core's matrix arrays from a team image that has the section (R415). -/
def matrixFrom (c : Core) (id : Nat) (b : List Byte) : Core :=
  let o := imgNat b 0x2C 4
  { c with
    mxOwner := some id, mxCfg := imgWord b o,
    planes := (List.range 8192).foldl (fun m i => kset Xr.zero m i (f32 (imgWord b (o + 4 + 4 * i)))) [],
    codebook := (List.range 512).foldl (fun m n =>
      let w := imgWord b (o + 4 + 32768 + 4 * n)
      if w = resetRow n then m else kput m n w) [] }

/-- Why a team is not restored now. -/
inductive NotYet where
  /-- it has no room where it must go -/
  | waits
  /-- a group is allowed on no live core, or its image cannot be read (R415) -/
  | lost
  deriving DecidableEq, Repr

/-- What the part knows of a saved team's threads besides their records: the results they are owed (R324), what holds them (R138, R417), the join
PCs they have reached (R144), and where a handler stands (R416). -/
def recallThreads (sv : SavedTeam) (g : Nat) (img : List Byte) (s : State) : State :=
  (liveOfGroup s g).foldl (fun s k => modThread s k (fun t =>
    let own := kfind sv.inside k
    { t with
      pend := awaitedFrom (recordIn img (keyLin k % 32)) (kget [] sv.pend k), joined := kget [] sv.reached k,
      wait := if k ∈ sv.halts then .halted else if k ∈ sv.entering ∧ (kget [] sv.pend k) ≠ [] then .entering else t.wait,
      seq := match own with | some x => some x.1 | none => t.seq,
      regs := match own with | some x => { t.regs with x := x.2 } | none => t.regs })) s

/-- Brings the groups of a team back from their images on its home core, or as visitors (R415 steps 2 and 3). -/
def restoreGroups (sv : SavedTeam) (room : Room) (slots : List Nat) : List (Nat × List Byte) → State → Except NotYet State
  | [], s => .ok s
  | (i, img) :: r, s =>
    let t := getTeam s sv.id
    let hc := classOfCore t.home
    let g := sv.id * 32 + i
    let f : Form := if imgNat img 6 2 % 2 = 1 then .l else .d
    let twin := decide (imgNat img 6 2 / 2 % 2 = 1)
    let other : Form := match f with | .d => .l | .l => .d
    let first := coreForForm s t f
    let second := coreForForm s t other
    let place : Option (Nat × Bool) := if liveCore s first then some (first, false) else if twin && liveCore s second then some (second, true) else none
    let hv := room.vbase + 32 * i * vregOf t.desc hc
    let hs := slots.getD i 0
    match place with
    | none => .error .lost
    | some (core, mapped) =>
      let go (slot vv : Nat) : Except NotYet State :=
        let s := setGroup s g { Group.initial with core := core, slot := slot, homeSlot := hs, vbase := hv }
        let s := recallThreads sv g img (loadGroup s g core slot hv vv img)
        match if mapped then mapRestored s g core else some s with
        | some s => restoreGroups sv room slots r (releaseJoins s g)
        | none => .error .lost
      if core = t.home then go hs 0
      else if openCore s core then
        match groupRoom s core t.desc with
        | none => .error .waits
        | some (slot, v) => go slot v
      else .error .waits

/-- A saved team brought back on a core (R415). -/
def restoreOn (s : State) (sv : SavedTeam) (core : Nat) (room : Room) : Except NotYet State :=
  let pa := poolBase s + sv.off
  if busErr s pa || busErr s (pa + sv.size - 1) || linesBad s.poisonLines pa sv.size then .error .lost
  else
    let b := bytesAt s.mem pa sv.size
    let t := teamFrom { sv.team with home := core, scratchBase := room.scratch, accBase := room.acc, rayBase := room.rays,
                                     hold := if sv.held then .halted else .none } b
    let imgs := groupImages (b.drop (imgNat b 0x20 4)) (imgNat b 0x1E 2)
    let n := teamGroups t
    let old := (List.range n).map (fun i => match imgs.find? (fun e => decide (e.1 = i)) with
      | some e => imgNat e.2 0x0E 1
      | none => (getGroup s (sv.id * 32 + i)).homeSlot)
    let free := freeSlots s core
    let slots := if core = sv.team.home ∧ old.all (fun x => decide (x ∈ free)) ∧ (dedup old).length = n then old else room.slots
    let matrix := decide (imgNat b 0x2C 4 ≠ 0)
    let s := { setTeam s sv.id t with saved := s.saved.filter (fun x => decide (x.id ≠ sv.id)), waits := s.waits.filter (fun w => decide (w ≠ .team sv.id)) }
    let s := if matrix then modCore s core (fun c => matrixFrom c sv.id b) else s
    let s := ((List.range n).map (fun i => sv.id * 32 + i)).foldl (fun s g =>
      if (kfind s.groups g).isSome then modGroup s g (fun x => { x with homeSlot := slots.getD (g % 32) 0 }) else s) s
    match restoreGroups sv room slots imgs s with
    | .error e => .error e
    -- the groups' first accesses come after an acquire at device scope (R382)
    | .ok s => .ok (emptyL1 s core)

/-- Room for a saved team on a core (R125, R415 step 1): one that owned the matrix arrays needs a D-core whose arrays are unowned. -/
def roomFor (s : State) (sv : SavedTeam) (core : Nat) : Option Room :=
  let own := decide (rdMem s (poolBase s + sv.off + 0x2C) 4 ≠ 0)
  if openCore s core && (!own || (decide (classOfCore core = .d) && (getCore s core).mxOwner.isNone)) then
    teamRoom s core sv.team.desc (teamGroups sv.team)
  else none

/-- The core another than its home that a saved team goes to (R128 step 4). -/
def otherCore (s : State) (sv : SavedTeam) : Option (Nat × Room) :=
  let best := (coresOf sv.team.start).foldl (fun (b : Option (Nat × (Nat × Room))) core =>
    match roomFor s sv core with
    | none => b
    | some r =>
      let free := (freeSlots s core).length
      match b with | some x => if x.1 < free then some (free, (core, r)) else b | none => some (free, (core, r))) none
  best.map (·.2)

/-- The saved teams of a cluster that all wait to be restored, by rank; none where one of them does not. -/
def waitingMates (s : State) (sv : SavedTeam) : Option (List SavedTeam) :=
  let ms := sv.team.mates.filterMap (fun m => if .team m ∈ s.waits then s.saved.find? (fun x => decide (x.id = m)) else none)
  if ms.length = sv.team.count ∧ 1 < sv.team.count then some ms else none

/-- Brings several saved teams back, each on a core of its own. -/
def restoreAll : List (SavedTeam × Nat × Room) → State → Except NotYet State
  | [], s => .ok s
  | (sv, core, room) :: r, s =>
    match restoreOn s sv core room with
    | .error e => .error e
    | .ok s1 => restoreAll r s1

/-- The saved team id comes back, if it can: on its home core; else with its whole cluster on a rectangle, or alone on another core. One
that is lost has its grid killed (R415). -/
def tryTeam (s : State) (id : Nat) : Option State :=
  match s.saved.find? (fun x => decide (x.id = id)) with
  | none => none
  | some sv =>
    if !sv.released || (findGrid s sv.team.grid).any (fun g => g.killed.isSome) then none
    else
      let done (r : Except NotYet State) : Option State :=
        match r with
        | .ok s1 => some s1
        | .error .waits => none
        | .error .lost => some { markKilled s sv.team.grid 2 with waits := s.waits.filter (fun w => decide (w ≠ .team id)) }
      match roomFor s sv sv.team.home with
      | some r => done (restoreOn s sv sv.team.home r)
      | none =>
        match waitingMates s sv with
        | some ms =>
          let d := sv.team.desc
          let plan := (rectangles sv.team.start d.cluw d.cluh).findSome? (fun cs =>
            if cs.length < ms.length then none
            else (ms.zip cs).mapM (fun p => (roomFor s p.1 p.2).map (fun r => (p.1, p.2, r))))
          match plan with
          | none => none
          | some ps => done (restoreAll ps s)
        | none =>
          match otherCore s sv with
          | none => none
          | some (core, r) => done (restoreOn s sv core r)

/-- A restoration that can be made now, by its place in the list (R128). -/
def contReady (s : State) (w : Restore) : Option State :=
  match w with | .cont pod g => tryCont s pod g | .team id => tryTeam s id

/-- The part places nothing: before bring-up, in RETAIN, and while a halt is being made (R129, R447). -/
def placing (s : State) : Bool := decide (s.pwrCur ≠ 2)

/-- Places the next team or cluster of a grid, when no grid taken before it can place and nothing waiting can be restored (R128, R129). -/
def placeNext (pod : Nat) (s : State) : State :=
  match findGrid s pod with
  | none => s
  | some g =>
    let earlier := s.grids.takeWhile (fun x => decide (x.pod ≠ pod))
    if !placing s || placementOver g || earlier.any (fun x => (gridPlan s x).isSome) || s.waits.any (fun w => (contReady s w).isSome) then s
    else if secverNow s g < s.secCount then modGrid s pod (fun g => { g with stopped := some stSecver })
    else
      match gridPlan s g with
      | none => s
      | some ps =>
        let n := ps.length
        let ids := (List.range n).map (fun i => s.nextTeam + i)
        let s := noteUnit s g.asid g.cls (g.desc.addr + 0x1C) .r
        let s := placeTeams g s.nextTeam g.next n ids 0 ps s
        modGrid { s with nextTeam := s.nextTeam + n } pod (fun g => { g with next := g.next + n })

/-- TEAM_PLACEMENT (R128 to R130). -/
def execTeamPlacement (grid : Nat) (s : State) : Host.Outcome State Fault Refusal := .next (placeNext grid s)

/-- True when the restoration at index is the next the placement engine tries with success (R128). -/
def restoreNext (s : State) (index : Nat) : Bool := placing s && !(s.waits.take index).any (fun w => (contReady s w).isSome)

/-- CONT_RESUME: the continuation at index, when no restoration before it can be made (R119, R128). -/
def execContResume (index : Nat) (s : State) : Host.Outcome State Fault Refusal :=
  .next (match s.waits[index]? with
    | some (.cont pod g) =>
      if restoreNext s index then (match tryCont s pod g with | none => s | some t => { t with waits := t.waits.eraseIdx index }) else s
    | some (.team _) => s
    | none => s)

/-- TEAM_RESTORE: the saved team at index, when no restoration before it can be made (R128, R415). -/
def execTeamRestore (index : Nat) (s : State) : Host.Outcome State Fault Refusal :=
  .next (match s.waits[index]? with
    | some (.team id) => if restoreNext s index then (tryTeam s id).getD s else s
    | some (.cont _ _) => s
    | none => s)

/-- take_grid: a GRID pod popped by the placement engine becomes active, or completes at once (R20, R127). -/
def takeGrid (s : State) (pa : Nat) : State :=
  let f := flightOf s pa
  match descBytes s f.asid f.code with
  | none => complete s pa stNoFit
  | some b =>
    let d := descOf f.code b
    let s := noteSpan s f.asid (podClass s pa) f.code 128
    if d.secver < s.secCount then complete s pa stSecver
    else if neverFits s d b (shapeOf f.team d) then complete s pa stNoFit
    else
      { s with grids := s.grids ++ [{ pod := pa, va := f.va, asid := f.asid, cls := podClass s pa, prio := podPrio s pa, frame := f.frame,
                                      dims := f.dims, desc := d, team := shapeOf f.team d, next := 0, stopped := none, killed := none,
                                      killDone := false }] }

/-- Active grids hold at most 16 pods that still have teams to place (R127). -/
def activeFull (s : State) : Bool := decide (16 ≤ (s.grids.filter (fun g => !placementOver g)).length)

/-- The group that a continuation pod holds swapped out (R119). -/
def swappedGroup (s : State) (pa : Nat) : Option Nat := (s.groups.find? (fun e => decide (e.2.swapped = some pa))).map (·.1)

/-- The placement engine pops a pod (R108, R127). -/
def popPlacement (s : State) : State :=
  match choosePop s 0 (fun pa => !activeFull s || decide (podKind s pa = 1)) with
  | none => s
  | some (pa, w) =>
    if !placing s || completionBlocked s then s
    else
      let s := takePod { s with wrrPlace := w } pa
      if podKind s pa = 1 then
        match swappedGroup s pa with
        | some g => { s with waits := s.waits ++ [.cont pa g] }
        | none => complete s pa stKilled
      else takeGrid s pa

end Sys2Proof.Machine
end

