-- ==== Sys2Proof/Machine/Tensor.lean ====
section
/-! DEFINITION. Tensor identifiers (R75 to R78), and the values of tensor elements (R62 to R65, R195). -/

namespace Sys2Proof.Machine

/-- A tensor-identifier entry (R75): extents and strides of eight dimensions; dimension 0's stride is the unit. -/
structure Tid where
  base : Nat
  sbase : Nat
  fmt : Nat
  rank : Nat
  space : Nat
  flags : Nat
  pslot : Nat
  size : List Nat
  stride : List Int
  deriving DecidableEq, Repr

/-- The element unit of a format (R76). -/
def unitOf (fmt : Nat) : Nat :=
  match fmt with | 0 => 4 | 1 => 2 | 2 => 2 | 0xA => 2 | 0xB => 4 | 0xC => 4 | _ => 1

/-- SIZE0 is a multiple of this (R76); one element unit holds that many over `perUnit`. -/
def sizeMult (fmt : Nat) : Nat := match fmt with | 8 => 32 | 9 => 32 | 0xA => 64 | _ => 1

/-- A blocked format (R63, R64). -/
def blocked (fmt : Nat) : Bool := decide (fmt = 8 ∨ fmt = 9 ∨ fmt = 0xA)

/-- Weights in one element unit (R76). -/
def perUnit (fmt : Nat) : Nat := if fmt = 0xA then 8 else 1
/-- Elements that share a scale, and the bytes of a scale (R77). -/
def perScale (fmt : Nat) : Nat := if fmt = 0xA then 64 else 32
def scaleUnit (fmt : Nat) : Nat := if fmt = 0xA then 2 else 1

/-- The entry in the 128 bytes of an image. -/
def tidOf (m : KMap Byte) : Tid :=
  let fmt := leAt m 0x10 1
  { base := leAt m 0 8, sbase := leAt m 8 8, fmt := fmt, rank := leAt m 0x11 1, space := leAt m 0x12 1, flags := leAt m 0x13 1,
    pslot := leAt m 0x14 2, size := (List.range 8).map (fun d => leAt m (0x18 + 4 * d) 4),
    stride := (unitOf fmt : Int) :: (List.range 7).map (fun d => (BitVec.ofNat 64 (leAt m (0x38 + 8 * d) 8)).toInt) }

def Tid.valid (t : Tid) : Bool := decide (t.flags % 2 = 1)
def Tid.pub (t : Tid) : Bool := decide (t.flags / 2 % 2 = 1)

/-- The code of TIDW's check of an image (R296). -/
def tidCheck (slots : Nat) (m : KMap Byte) : Nat :=
  let t := tidOf m
  let u := unitOf t.fmt
  let sz (d : Nat) : Nat := t.size.getD d 0
  let st (d : Nat) : Int := t.stride.getD d 0
  if 0xC < t.fmt ∨ sz 0 % sizeMult t.fmt ≠ 0 then 1
  else if t.rank = 0 ∨ 8 < t.rank ∨ (List.range 8).any (fun d => decide (sz d = 0 ∨ (t.rank ≤ d ∧ sz d ≠ 1))) = true ∨
    (List.range 8).any (fun d => decide (1 ≤ d ∧ ((t.rank ≤ d ∧ st d ≠ 0) ∨ st d % (u : Int) ≠ 0))) = true then 2
  else if t.base % u ≠ 0 ∨ (t.fmt = 0xA ∧ t.sbase % 2 ≠ 0) ∨ (blocked t.fmt = false ∧ t.sbase ≠ 0) then 3
  else if 3 < t.space ∨ (t.pub = true ∧ t.space ≠ 0) ∨ (t.pub = true ∧ slots ≤ t.pslot) then 4
  else if leAt m 0x16 2 ≠ 0 ∨ leAt m 0x70 16 ≠ 0 ∨ 4 ≤ t.flags ∨ (t.pub = false ∧ t.pslot ≠ 0) then 5
  else 0

/-- The element units along dimension 0. -/
def Tid.units (t : Tid) : Nat := t.size.getD 0 1 / perUnit t.fmt
/-- The extents in element units. -/
def Tid.box (t : Tid) : List Nat := t.units :: t.size.drop 1
/-- The product of extents. -/
def volume (l : List Nat) : Nat := l.foldl (· * ·) 1
/-- The scales of a blocked tensor (R77). -/
def Tid.scales (t : Tid) : Nat := if blocked t.fmt then volume t.size / perScale t.fmt else 0
/-- The bytes of a whole tensor: elements and scales (R288). -/
def Tid.bytes (t : Tid) : Nat := volume t.box * unitOf t.fmt + t.scales * scaleUnit t.fmt

/-- The index of linear position n in a box, dimension 0 fastest (R121's order). -/
def unrank : List Nat → Nat → List Nat
  | [], _ => []
  | b :: r, n => n % b :: unrank r (n / b)

/-- elem_addr of an index in element units (R77). -/
def Tid.addr (t : Tid) (i : List Nat) : Int := (t.base : Int) + ((i.zip t.stride).map (fun p => (p.1 : Int) * p.2)).foldl (· + ·) 0

/-- The linear position of an index in a box, dimension 0 fastest. -/
def rankIn : List Nat → List Nat → Nat
  | b :: bs, i :: is_ => i + b * rankIn bs is_
  | [], _ => 0
  | _ :: _, [] => 0

/-- scale_addr of an index in element units (R77). -/
def Tid.scaleAddr (t : Tid) (i : List Nat) : Int :=
  let n := perScale t.fmt
  let w := (t.size.getD 0 1 / n) :: t.size.drop 1
  let j := (i.headD 0 * perUnit t.fmt / n) :: i.drop 1
  (t.sbase : Int) + scaleUnit t.fmt * rankIn w j

/-- The exact value of an element's bits in an unblocked format, after FZI (R61, R62, R195). -/
def elemValue (fmt : Nat) (fp : Word) (v : Nat) : Xr :=
  match fmt with
  | 0 => readFmt .f32 (fziOf fp .f32) v
  | 1 => readFmt .f16 (fziOf fp .f16) v
  | 2 => readFmt .bf16 (fziOf fp .bf16) v
  | 3 => readFmt .f8a (fziOf fp .f8a) v
  | 4 => readFmt .f8b (fziOf fp .f8b) v
  | 5 => Xr.ofInt (BitVec.ofNat 8 v).toInt
  | 6 => Xr.ofInt v
  | 7 => sx8Value v
  | 0xB => Xr.ofInt (BitVec.ofNat 32 v).toInt
  | _ => Xr.ofInt v

/-- The value of a B8A or B8B element (R63). -/
def b8Value (fmt : Nat) (fp : Word) (e scale : Nat) : Xr :=
  let x := if fmt = 8 then readFmt .f8a (fziOf fp .f8a) e else readFmt .f8b (fziOf fp .f8b) e
  if scale = 255 then .nan else Xr.mul x (sx8Value scale)

/-- convert(FMT, x, M): the bits of a value in an unblocked format (R195). -/
def elemBits (fmt : Nat) (fp : Word) (m : Rm) (x : Xr) : Nat :=
  match fmt with
  | 0 => roundTo .f32 (fzoOf fp .f32) m x
  | 1 => roundTo .f16 (fzoOf fp .f16) m x
  | 2 => roundTo .bf16 (fzoOf fp .bf16) m x
  | 3 => roundTo .f8a (fzoOf fp .f8a) m x
  | 4 => roundTo .f8b (fzoOf fp .f8b) m x
  | 5 => (BitVec.ofInt 8 (toIntSat m (-128) 127 x)).toNat
  | 6 => (BitVec.ofInt 8 (toIntSat m 0 255 x)).toNat
  | 7 => toSx8 m x
  | 0xB => (BitVec.ofInt 32 (toIntSat m (-2 ^ 31) (2 ^ 31 - 1) x)).toNat
  | _ => (BitVec.ofInt 32 (toIntSat m 0 (2 ^ 32 - 1) x)).toNat

-- bounds (R283)

/-- The least and the greatest offset of the elements of a box with strides. -/
def spanOf : List (Nat × Int) → Int × Int
  | [] => (0, 0)
  | (n, st) :: r =>
    let x := spanOf r
    let d := ((n : Int) - 1) * st
    (x.1 + min 0 d, x.2 + max 0 d)

/-- Every element, of w bytes, of a box at base lies in one of the ranges of a list. -/
def boxInside (ranges : List (Nat × Nat)) (w : Nat) : List (Nat × Int) → Int → Bool
  | [], base => ranges.any (fun r => decide ((r.1 : Int) ≤ base ∧ base + w ≤ r.2))
  | (n, st) :: rest, base =>
    let x := spanOf ((n, st) :: rest)
    if ranges.any (fun r => decide ((r.1 : Int) ≤ base + x.1 ∧ base + x.2 + w ≤ r.2)) then true
    else if base + x.1 < 0 ∨ 2 ^ 32 < base + x.2 then false
    else (List.range n).all (fun i => boxInside ranges w rest (base + i * st))

/-- The valid offsets of a space for a team: scratch, cluster (R236, R237) or carve (R238). -/
def spaceRanges (s : State) (team : Option Nat) (asid space : Nat) : List (Nat × Nat) :=
  match space, team with
  | 1, some id => [(0, dataSize (getTeam s id).desc)]
  | 2, some id =>
    let t := getTeam s id
    (List.range t.count).filterMap (fun r => match t.mates[r]? with
      | some m => (mateScratch s m 0).map (fun _ => (r * 2 ^ 20, r * 2 ^ 20 + dataSize t.desc))
      | none => none)
  | 3, _ => [(0, (carveWindow s asid).2)]
  | _, _ => []

/-- The elements and scales of a tensor lie in bounds; global tensors are not judged, nor offsets of an invalid slot (R283, R294). -/
def tensorInside (s : State) (team : Option Nat) (asid : Nat) (t : Tid) : Bool :=
  let rs : Option (List (Nat × Nat)) :=
    if t.pub then (pubSlot s asid t.pslot).map (fun p => [(0, p.size)])
    else if t.space = 0 then none
    else some (spaceRanges s team asid t.space)
  match rs with
  | none => true
  | some r =>
    boxInside r (unitOf t.fmt) (t.box.zip t.stride).reverse t.base &&
      (!blocked t.fmt || boxInside r (scaleUnit t.fmt) [(t.scales, (scaleUnit t.fmt : Int))] t.sbase)

end Sys2Proof.Machine
end

