-- ==== Sys2Proof/Machine/Engine.lean ====
section
/-! DEFINITION. The copy engine, the quantiser and publish slots (R282 to R297). -/

namespace Sys2Proof.Machine

/-- A place as one number, and its keys in a command's stage: bytes as they stood before the command, the quantiser's source bytes
and element marks, and lines the command has poisoned. -/
def locNat : Loc → Nat
  | .phys pa => 4 * pa | .scratch tm o => 4 * (tm * 2 ^ 20 + o) + 1 | .carve o => 4 * o + 2
def keyOld (l : Loc) (j : Nat) : Nat := 4 * (locNat l + 4 * j)
def keySrc (j : Nat) : Nat := 4 * j + 1
def keyMark (j : Nat) : Nat := 4 * j + 2
def keyLine (l : Loc) : Nat := 4 * (match l with | .phys pa => 2 * (pa / 128) | .carve o => 2 * (o / 128) + 1 | .scratch _ _ => 0) + 3

/-- Where an engine command's access goes, or the cause of its fault (R289, R290). A cluster address whose team is gone, or a carve
address whose window is gone, faults as RANGE (log entry 14). -/
def engPlace (s : State) (cmd : EngCmd) (t : Tid) (back : Option Nat) (a : Int) (need : Need) : Except Nat Loc :=
  let va := (a % (2 ^ 64 : Int)).toNat
  if t.pub then (match back with | some b => if busErr s (b + va) then .error 5 else .ok (.phys (b + va)) | none => .error 1)
  else match t.space, cmd.team with
    | 1, some id => .ok (.scratch id va)
    | 2, some id => (match (getTeam s id).mates[va / 2 ^ 20]? with
      | some m => (match mateScratch s m (va % 2 ^ 20) with | some l => .ok l | none => .error 4)
      | none => .error 4)
    | 3, _ => let w := carveWindow s cmd.asid; if va < w.2 then .ok (.carve (w.1 + va)) else .error 4
    | _, _ => (match translate s cmd.asid va need with
      | .error f => .error f.code
      | .ok p => if busErr s (p.pa va) then .error 5 else .ok (.phys (p.pa va)))

/-- The traffic class of a command (R248). -/
def EngCmd.cls (cmd : EngCmd) (s : State) : Nat :=
  match cmd.team with
  | some id => teamClass s (getTeam s id)
  | none => (match cmd.pod with | some p => rdMem s (p + 0x15) 1 | none => 0)

/-- What an engine's access to a tensor leaves: its walk's reads, its count, and the line in the Marrow (R246, R255, R262). -/
def engTouch (s : State) (cmd : EngCmd) (t : Tid) (a : Int) (l : Loc) (need : Need) : State :=
  match l with
  | .phys pa =>
    if t.pub ∨ t.space ≠ 0 then touchMarrow s (cmd.cls s) pa false
    else noteUnit s cmd.asid (cmd.cls s) (a % (2 ^ 64 : Int)).toNat need
  | .scratch _ _ => s
  | .carve _ => s

/-- A fault of an engine command at an address, in its team's registers (R289, R290): COUNT rises once for an element. -/
def engFault (s : State) (cmd : EngCmd) (cause : Nat) (a : Int) : State :=
  match cmd.team with
  | none => s
  | some id => modTeam s id (fun t =>
      if t.engst.getLsbD 31 && cmd.hit then t
      else if t.engst.getLsbD 31 then { t with engst := wd (t.engst.toNat - bits t.engst.toNat 23 16 * 65536 + min 255 (bits t.engst.toNat 23 16 + 1) * 65536) }
      else
        let va := (a % (2 ^ 64 : Int)).toNat
        { t with engst := wd (2 ^ 31 + 65536 + cause * 256 + cmd.sub), engalo := wd va, engahi := wd (va / 2 ^ 32) })

/-- What reading a source gives: its bits, and whether a byte is uncorrectable. -/
structure SrcRead where
  s : State
  cmd : EngCmd
  val : Except (Nat × Int) (Nat × Bool)

/-- Reads w bytes of a source tensor. Where the command has written the place before, either value may be received (R285, log entry 12). -/
def engRead (s : State) (cmd : EngCmd) (t : Tid) (a : Int) (w : Nat) : SrcRead :=
  match engPlace s cmd t cmd.srcBack a .r with
  | .error c => { s := s, cmd := cmd, val := .error (c, a) }
  | .ok l =>
    let s := engTouch s cmd t a l .r
    let r := readPieces (commandAgent cmd.id) Acc.read l (pieces (offOf l) (w + 1) w) s
    let bad := r.1.any (·.2)
    let now := r.1.map (·.1)
    let s := r.2
    let old := (List.range w).map (fun j => (kfind cmd.stage (keyOld l j)).getD (now.getD j 0))
    if now = old then { s := s, cmd := cmd, val := .ok (leNat now, bad) }
    else { s := { s with fresh := s.fresh + 1 }, cmd := cmd, val := .ok (leNat (if Config.overlap s.fresh then old else now), bad) }

/-- Writes bytes of a destination; bad says that a source byte was uncorrectable (R289). The answer says whether they landed. -/
def engWrite (s : State) (cmd : EngCmd) (t : Tid) (a : Int) (bs : List Byte) (bad : Bool) : State × EngCmd × Bool :=
  match engPlace s cmd t cmd.dstBack a .w with
  | .error c => (engFault s cmd c a, { cmd with faulted := true, hit := true }, false)
  | .ok l =>
    let s := engTouch s cmd t a l .w
    let now := rawLoc s l bs.length
    let stage := (List.range bs.length).foldl (fun m j => if (kfind m (keyOld l j)).isSome then m else kput m (keyOld l j) (now.getD j 0)) cmd.stage
    let cmd := { cmd with stage := if bad then kput stage (keyLine l) 1 else stage }
    let s := writeAs s (commandAgent cmd.id) Acc.store l bs
    if !bad then (s, cmd, true)
    else
      match l with
      | .phys pa => (poisonLine s false (pa / 128), cmd, true)
      | .carve o => (poisonLine s true (o / 128), cmd, true)
      | .scratch tm o => (writeAs s (commandAgent cmd.id) Acc.store (.scratch tm (o / 4 * 4)) (leBytes 4 0x7FC00001), cmd, true)

/-- An event of a command's own: a source that faults, or an uncorrectable source byte (R289). -/
def srcEvent (s : State) (cmd : EngCmd) (c : Nat) (a : Int) : State × EngCmd := (engFault s cmd c a, { cmd with faulted := true, hit := true })

/-- The origin of dimension d. -/
def EngCmd.org (cmd : EngCmd) (d : Nat) : Nat := cmd.origin.getD d 0

/-- Replaces dimension d of an index. -/
def setDim (i : List Nat) (d v : Nat) : List Nat := i.set d v

/-- The box a command's elements run over, in the destination's element units: the destination's, or for CPYX the source's slices
(R285 to R288). -/
def workBox (cmd : EngCmd) (src dst : Tid) : List Nat :=
  if cmd.sub = 4 then
    setDim dst.box (dst.rank - 1) (if dst.rank = 1 then src.size.getD 0 1 / perUnit dst.fmt else src.size.getD (dst.rank - 1) 1)
  else dst.box

/-- The scales that cover what a command writes. -/
def workScales (cmd : EngCmd) (src dst : Tid) : List Nat :=
  let box := workBox cmd src dst
  (box.headD 1 * perUnit dst.fmt / perScale dst.fmt) :: box.drop 1

/-- A gather or scatter of single elements of B8A or B8B: each brings the scale that covers it to the block where it lands, in the order of
the slices (R286; DEDUCED, log entry 29). -/
def elementSlices (cmd : EngCmd) (dst : Tid) : Bool := decide ((cmd.sub = 3 ∨ cmd.sub = 4) ∧ dst.rank = 1 ∧ (dst.fmt = 8 ∨ dst.fmt = 9))

/-- The writes of scales that a command makes after its elements. -/
def scaleItems (cmd : EngCmd) (src dst : Tid) : List Nat := if elementSlices cmd dst then workBox cmd src dst else workScales cmd src dst

/-- Elements and writes of scales in all. -/
def workItems (cmd : EngCmd) (src dst : Tid) : Nat :=
  volume (workBox cmd src dst) + (if blocked dst.fmt then volume (scaleItems cmd src dst) else 0)

/-- The byte total (R288). -/
def byteTotal (cmd : EngCmd) (src dst : Tid) : Nat :=
  volume (workBox cmd src dst) * unitOf dst.fmt + (if blocked dst.fmt then volume (workScales cmd src dst) * scaleUnit dst.fmt else 0)

/-- Where an index of the box leads: the index in the source, none for a slice of zeros, and the index in the destination, none for a
slice that is skipped (R285, R286). Dimension 0 counts steps of `per` elements. -/
def routeIndex (cmd : EngCmd) (src dst : Tid) (per : Nat) (i : List Nat) : Option (List Nat) × Option (List Nat) :=
  let d := dst.rank - 1
  let scale (dim : Nat) : Nat := if dim = 0 then per else 1
  let j := i.getD d 0 * scale d
  let x := cmd.idx.getD j 0
  match cmd.sub with
  | 3 => (if src.size.getD d 1 ≤ x then none else some (setDim i d (x / scale d)), some i)
  | 4 => (some i, if dst.size.getD d 1 ≤ x then none else some (setDim i d (x / scale d)))
  | _ => (some ((List.range 8).map (fun k => cmd.org k / scale k + i.getD k 0)), some i)

/-- One element of a copy: read, converted and written (R285, R289). -/
def copyElem (s : State) (cmd : EngCmd) (src dst : Tid) (i : List Nat) : State × EngCmd × Nat :=
  let u := unitOf dst.fmt
  let r := routeIndex cmd src dst (perUnit dst.fmt) i
  match r.2 with
  | none => (s, cmd, 0)
  | some di =>
    let put (s : State) (cmd : EngCmd) (v : Nat) (bad : Bool) : State × EngCmd × Nat :=
      let w := engWrite s cmd dst (dst.addr di) (leBytes u v) bad
      (w.1, w.2.1, if w.2.2 then u else 0)
    match r.1 with
    | none => put s cmd 0 false
    | some si =>
      -- si counts destination units; the source unit that holds its first element
      let e0 := si.headD 0 * perUnit dst.fmt
      let su := setDim si 0 (e0 / perUnit src.fmt)
      let a := src.addr su
      let x := engRead s cmd src a (unitOf src.fmt)
      match x.val with
      | .error e => let f := srcEvent x.s x.cmd e.1 e.2; (f.1, f.2, 0)
      | .ok (v, bad) =>
        let f := if bad then srcEvent x.s x.cmd 6 a else (x.s, x.cmd)
        if src.fmt = dst.fmt then put f.1 f.2 v bad
        else if !blocked src.fmt then put f.1 f.2 (elemBits dst.fmt cmd.fpctl (rmOf cmd.m) (elemValue src.fmt cmd.fpctl v)) bad
        else
          let sa := src.scaleAddr su
          let y := engRead f.1 f.2 src sa (scaleUnit src.fmt)
          match y.val with
          | .error e => let g := srcEvent y.s y.cmd e.1 e.2; (g.1, g.2, 0)
          | .ok (sc, bad2) =>
            let g := if bad2 then srcEvent y.s y.cmd 6 sa else (y.s, y.cmd)
            let val := if src.fmt = 0xA then cb2Decode cmd.codebook v (readFmt .bf16 (fziOf cmd.fpctl .bf16) sc) (e0 % 8)
              else b8Value src.fmt cmd.fpctl v sc
            put g.1 g.2 (elemBits dst.fmt cmd.fpctl (rmOf cmd.m) val) (bad || bad2)

/-- One write of a scale of a copy between blocked tensors of one format (R285, R286); its bytes count once for a block. -/
def copyScale (s : State) (cmd : EngCmd) (src dst : Tid) (i : List Nat) : State × EngCmd × Nat :=
  let u := scaleUnit dst.fmt
  let n := perScale dst.fmt
  let one := elementSlices cmd dst
  let r := routeIndex cmd src dst (if one then 1 else n) i
  let at_ (t : Tid) (x : List Nat) : Int :=
    (t.sbase : Int) + u * rankIn ((t.size.getD 0 1 / n) :: t.size.drop 1) (if one then setDim x 0 (x.headD 0 / n) else x)
  match r.2 with
  | none => (s, cmd, 0)
  | some di =>
    let put (s : State) (cmd : EngCmd) (v : Nat) (bad : Bool) : State × EngCmd × Nat :=
      let w := engWrite s cmd dst (at_ dst di) (leBytes u v) bad
      (w.1, w.2.1, if w.2.2 && (!one || decide (i.headD 0 % n = 0)) then u else 0)
    match r.1 with
    | none => put s cmd 0x7F false
    | some si =>
      let x := engRead s cmd src (at_ src si) u
      match x.val with
      | .error e => let f := srcEvent x.s x.cmd e.1 e.2; (f.1, f.2, 0)
      | .ok (v, bad) =>
        let f := if bad then srcEvent x.s x.cmd 6 (at_ src si) else (x.s, x.cmd)
        put f.1 f.2 v bad

-- the quantiser (R287)

/-- Reads the whole source into the staging buffer: element j's bytes, and a mark where its read faulted (1) or was uncorrectable (2). -/
def stageSource (src : Tid) : Nat → State → EngCmd → State × EngCmd
  | 0, s, cmd => (s, cmd)
  | n + 1, s, cmd =>
    let p := stageSource src n s cmd
    let w := unitOf src.fmt
    let a := src.addr (unrank src.box n)
    let x := engRead p.1 { p.2 with hit := false } src a w
    match x.val with
    | .error e =>
      let f := srcEvent x.s x.cmd e.1 e.2
      (f.1, { f.2 with stage := kput f.2.stage (keyMark n) 1 })
    | .ok (v, bad) =>
      let f := if bad then srcEvent x.s x.cmd 6 a else (x.s, x.cmd)
      let st := (List.range w).foldl (fun m j => kput m (keySrc (4 * n + j)) (BitVec.ofNat 8 (v / 256 ^ j))) f.2.stage
      (f.1, { f.2 with stage := if bad then kput st (keyMark n) 2 else st })

/-- The value of staged element j. -/
def staged (cmd : EngCmd) (src : Tid) (j : Nat) : Xr :=
  elemValue src.fmt cmd.fpctl (leNat ((List.range (unitOf src.fmt)).map (fun b => kget 0 cmd.stage (keySrc (4 * j + b)))))

/-- The mark of staged element j. -/
def stagedMark (cmd : EngCmd) (j : Nat) : Nat := (kget 0 cmd.stage (keyMark j)).toNat

/-- The scale byte of a block and the power of two that divides its elements (R287); elements whose read faulted take no part. -/
def blockScale (cmd : EngCmd) (src : Tid) (limit b : Nat) : Nat × Int :=
  let xs := ((List.range 32).filter (fun k => decide (stagedMark cmd (32 * b + k) ≠ 1))).map (fun k => staged cmd src (32 * b + k))
  if xs.any Xr.isNan then (255, 0)
  else
    let m := xs.foldl (fun m x => if Xr.lt m (Xr.abs x) then Xr.abs x else m) Xr.zero
    let s : Int := match m with
      | .nan => 0
      | .inf _ => 127
      | .fin _ n d =>
        if n = 0 then 0
        else
          let k := floorLog2 n (d * limit)
          let exact := if 0 ≤ k then decide (n = d * limit * 2 ^ k.toNat) else decide (n * 2 ^ (-k).toNat = d * limit)
          if exact then k else k + 1
    let e := max 0 (min 254 (s + 127))
    (e.toNat, e - 127)

/-- One item of a quantise: an element, or after all of them a scale (R287). -/
def quantItem (s : State) (cmd : EngCmd) (src dst : Tid) (n : Nat) : State × EngCmd × Nat :=
  let cmd := { cmd with hit := decide (n < volume dst.box ∧ stagedMark cmd n ≠ 0) }
  let limit := if dst.fmt = 8 then 448 else 57344
  let total := volume dst.box
  if n < total then
    if stagedMark cmd n = 1 then (s, cmd, 0)
    else
      let sc := blockScale cmd src limit (n / 32)
      let x := Xr.mul (staged cmd src n) (scaleTwo false 1 (-sc.2))
      let v := if dst.fmt = 8 then roundTo .f8a (fzoOf cmd.fpctl .f8a) (rmOf cmd.m) x else roundTo .f8b (fzoOf cmd.fpctl .f8b) (rmOf cmd.m) x
      let w := engWrite s cmd dst (dst.addr (unrank dst.box n)) [BitVec.ofNat 8 v] (decide (stagedMark cmd n = 2))
      (w.1, w.2.1, if w.2.2 then 1 else 0)
  else
    let b := n - total
    let w := engWrite s cmd dst ((dst.sbase : Int) + b) [BitVec.ofNat 8 (blockScale cmd src limit b).1] false
    (w.1, w.2.1, if w.2.2 then 1 else 0)

/-- Item n of a command. -/
def engItem (s : State) (cmd : EngCmd) (src dst : Tid) (n : Nat) : State × EngCmd × Nat :=
  let cmd := { cmd with hit := false }
  if cmd.sub = 5 then quantItem s cmd src dst n
  else
    let box := workBox cmd src dst
    if n < volume box then copyElem s cmd src dst (unrank box n)
    else copyScale s cmd src dst (unrank (scaleItems cmd src dst) (n - volume box))

/-- n further items of a command land; the last number is the bytes written. -/
def engItems : Nat → State → EngCmd → State × EngCmd × Nat
  | 0, s, cmd => (s, cmd, 0)
  | k + 1, s, cmd =>
    let src := tidOf cmd.src
    let dst := tidOf cmd.dst
    if workItems cmd src dst ≤ cmd.landed then (s, cmd, 0)
    else
      let r := engItem s cmd src dst cmd.landed
      let q := engItems k r.1 { r.2.1 with landed := cmd.landed + 1 }
      (q.1, q.2.1, r.2.2 + q.2.2)

-- commands in the queue

/-- Command id of a core's queue. -/
def engCmd (s : State) (core id : Nat) : Option EngCmd := (getCore s core).engq.find? (fun c => decide (c.id = id))

/-- Replaces a command of a core's queue. -/
def putEng (s : State) (core : Nat) (cmd : EngCmd) : State :=
  modCore s core (fun c => { c with engq := c.engq.map (fun x => if x.id = cmd.id then cmd else x) })

/-- True when a command arrives on its barrier: not once its team retires or is killed (R424). -/
def engArrives (s : State) (cmd : EngCmd) : Option (Nat × Nat) :=
  match cmd.team, cmd.bar with
  | some id, some b => let t := getTeam s id; if t.hold = .retiring ∨ t.killed = true then none else some (id, b)
  | none, _ => none
  | some _, none => none

/-- Bytes count on the command's barrier object (R288, R391). -/
def engCount (s : State) (core : Nat) (cmd : EngCmd) (n : Nat) : State :=
  match engArrives s cmd with
  | some (id, b) => if n = 0 then s else agentBar s (commandAgent cmd.id) id b 1 core 0 n
  | none => s

/-- A PUB that arrived before a command, of a slot the command names, has not been exchanged: the command's accesses come after it
(R294, R295). -/
def pubBefore (s : State) (cmd : EngCmd) : Bool :=
  let t := tidOf cmd.src
  s.pubs.any (fun p => decide (p.id < cmd.id ∧ p.asid = cmd.asid) && (decide (cmd.dstSlot = some p.slot) || (t.pub && decide (t.pslot = p.slot))))

/-- The command that starts next on a core: copies up to four at once, quantises one at a time, each in queue order (R284). -/
def nextEng (c : Core) : Option EngCmd :=
  let run (q : Bool) : Nat := (c.engq.filter (fun x => x.started && decide ((x.sub = 5) = (q = true)))).length
  let cand (q : Bool) : Option EngCmd := c.engq.find? (fun x => !x.started && decide ((x.sub = 5) = (q = true)))
  match (if run false < 4 then cand false else none), (if run true < 1 then cand true else none) with
  | some a, some b => if a.id < b.id then some a else some b
  | some a, none => some a
  | none, b => b

/-- An engine's read of global memory that is no tensor's, for class k: a word of an index list (R286), or a byte of a command block (R297);
none where it cannot be read. -/
def engWord (s : State) (agent asid k va n : Nat) : Option Nat × State :=
  let s1 := noteUnit s asid k va .r
  match translate s asid va .r with
  | .error _ => (none, s1)
  | .ok p => match readAs s1 agent Acc.read (.phys (p.pa va)) n with | .ok r => (some r.1, r.2) | .error _ => (none, s1)

/-- The values of an index list (R286): from scratch, or from global space for a pod; none where a word cannot be read. -/
def readList (cmd : EngCmd) : Nat → State → List (Option Nat) × State
  | 0, s => ([], s)
  | n + 1, s =>
    let r := readList cmd n s
    let a := cmd.list.2 + 4 * n
    let v := if cmd.list.1 then
        (match cmd.team with | some id => let x := scratchRead r.2 (commandAgent cmd.id) id a 4; (some (leNat x.1), x.2) | none => (some 0, r.2))
      else engWord r.2 (commandAgent cmd.id) cmd.asid (cmd.cls r.2) a 4
    (r.1 ++ [v.1], v.2)

/-- The values an index list holds: one for each slice of the destination, or for CPYX of the source (R286). -/
def listLen (sub : Nat) (src dst : Tid) : Nat :=
  if sub = 3 then dst.size.getD (dst.rank - 1) 0 else if sub = 4 then src.size.getD (dst.rank - 1) 0 else 0

/-- A queued command starts (R284, R286, R287). -/
def engStart (core : Nat) (s : State) : State :=
  match (nextEng (getCore s core)).filter (fun c => !pubBefore s c) with
  | none => s
  | some cmd =>
    let src := tidOf cmd.src
    let dst := tidOf cmd.dst
    let n := listLen cmd.sub src dst
    let l := readList cmd n s
    let cmd := { cmd with started := true, idx := l.1.map (fun (x : Option Nat) => x.getD 0), faulted := cmd.faulted || l.1.any (fun (x : Option Nat) => x.isNone) }
    let s := l.2
    if cmd.sub = 5 then
      let r := stageSource src (volume src.box) s cmd
      putEng r.1 core r.2
    else putEng s core cmd

/-- Items of a started command land, and their bytes count (R288). -/
def engLand (core id n : Nat) (s : State) : State :=
  match engCmd s core id with
  | none => s
  | some cmd =>
    if !cmd.started || ((engArrives s cmd).isSome && logBlocked s 1) then s
    else
      let r := engItems n s cmd
      engCount (putEng r.1 core { r.2.1 with counted := r.2.1.counted + r.2.2 }) core r.2.1 r.2.2

/-- The lines an ended command has written whole lose their marks, but not those it poisoned itself (R243, R289, log entry 15). -/
def engClear (s : State) (cmd : EngCmd) : State :=
  let all (f : Nat → Loc) (l : Nat) : Bool :=
    (List.range 128).all (fun i => (kfind cmd.stage (keyOld (f (128 * l + i)) 0)).isSome) && (kfind cmd.stage (keyLine (f (128 * l)))).isNone
  cleanLines (cleanLines s false (s.poisonLines.filter (all .phys))) true (s.carvePoison.filter (all .carve))

/-- What an ended command has written goes to the slot whose shadow it filled, and to its node (R105, R295). -/
def engGive (s : State) (cmd : EngCmd) : State :=
  let me := commandAgent cmd.id
  let s := match cmd.dstSlot with | some n => giveTo s me (.slot n) | none => s
  match cmd.pod, cmd.team with
  | some p, _ => giveTo s me (.node p)
  | none, some id => giveTo s me (.node (getTeam s id).grid)
  | none, none => s

/-- A started command ends: what has not landed lands, and the bytes skipped or not written are added (R288). A pod completes (R101). -/
def engEnd (core id : Nat) (s : State) : State :=
  match engCmd s core id with
  | none => s
  | some cmd =>
    let pod := cmd.pod.isSome && completionBlocked s
    if !cmd.started || pod || ((engArrives s cmd).isSome && logBlocked s 1) then s
    else
      let src := tidOf cmd.src
      let dst := tidOf cmd.dst
      let r := engItems (workItems cmd src dst) s cmd
      let s := engGive (engCount (engClear r.1 r.2.1) core r.2.1 (byteTotal cmd src dst - r.2.1.counted)) r.2.1
      let s := modCore s core (fun c => { c with engq := c.engq.filter (fun x => decide (x.id ≠ id)) })
      match cmd.pod with
      | some p => complete s p (if r.2.1.faulted then stEngFault else stDone)
      | none => s

-- issue

/-- A scratch address operand: aligned, and n bytes from it in the data area (R283). -/
def scratchOperand (s : State) (c : Ctx) (a al n : Nat) : Except Stop Nat :=
  if a % al ≠ 0 then .error (.trap Trap.align 0 (placeOf .scratch a))
  else if dataSize (teamOf s c.k).desc < a + n then .error (.trap Trap.space 0 (placeOf .scratch a))
  else .ok a

def engErr {α : Type} (cause : Nat) : Except Stop α := trapOf Trap.engerr cause

/-- Entry n of a team's table as an image. -/
def entryOf (t : Team) (n : Nat) : KMap Byte := ksetList 0 [] 0 (bytesAt t.tids (128 * n) 128)

/-- The format pair is allowed (R285, R287). -/
def formatPair (sub : Nat) (src dst : Tid) : Bool :=
  if sub = 5 then decide (src.fmt ≤ 2 ∧ (dst.fmt = 8 ∨ dst.fmt = 9)) else !blocked dst.fmt || decide (src.fmt = dst.fmt)

/-- The extents agree (R285 to R287). -/
def geometryOk (sub : Nat) (org : List Nat) (src dst : Tid) : Bool :=
  if sub = 2 then
    (List.range 8).all (fun k => decide (org.getD k 0 + dst.size.getD k 1 ≤ src.size.getD k 1)) &&
      (!blocked src.fmt || decide (org.getD 0 0 % perScale src.fmt = 0))
  else if sub = 5 then decide (src.rank = dst.rank ∧ src.size = dst.size)
  else decide (src.rank = dst.rank ∧ src.size.take (src.rank - 1) = dst.size.take (src.rank - 1))

/-- The ENGERR cause of a command's entries, in the order of R283; none when all is well. -/
def engCause (s : State) (team : Option Nat) (asid sub : Nat) (org : List Nat) (bar : Option (Nat × Nat)) (src dst : Tid) : Option Nat :=
  if !formatPair sub src dst then some 2
  else if !geometryOk sub org src dst then some 3
  else if !tensorInside s team asid src || !tensorInside s team asid dst then some 4
  else if (match bar with | some (i, n) => decide (n ≤ i) | none => false) then some 5
  else if sub = 5 ∧ 65536 < volume src.box * unitOf src.fmt then some 6
  else if (src.pub && (pubSlot s asid src.pslot).isNone) || (dst.pub && (pubSlot s asid dst.pslot).isNone) then some 7
  else none

/-- The PUBs of a slot that have arrived and not been exchanged leave its backings the other way round (R294, R295). -/
def slotFlips (s : State) (asid slot : Nat) : Bool := decide ((s.pubs.filter (fun p => decide (p.slot = slot ∧ p.asid = asid))).length % 2 = 1)

/-- The backing a source shows and the one a destination is written through, fixed at arrival, as the PUBs before it leave them (R294). -/
def srcBacking (s : State) (asid : Nat) (t : Tid) : Option Nat :=
  if t.pub then (pubSlot s asid t.pslot).map (if slotFlips s asid t.pslot then PubSlot.shadow else PubSlot.visible) else none
def dstBacking (s : State) (asid : Nat) (t : Tid) : Option Nat :=
  if t.pub then (pubSlot s asid t.pslot).map (if slotFlips s asid t.pslot then PubSlot.visible else PubSlot.shadow) else none

/-- Room in a queue for an instruction that issues on a core: while the core is being halted there is always room (R408). -/
def roomIn (s : State) (core n cap : Nat) : Bool := decide (n < cap) || haltingOn s core

/-- CPY, CPYG, CPYX and QNT (R283, R284). -/
def actEngine (sub : Nat) (c : Ctx) (s : State) : Act := do
  let r := c.raw
  let org := decide (sub = 2 ∧ r.e % 2 = 1)
  let usesD := org || decide (sub = 3 ∨ sub = 4)
  let bv := decide (r.e / 65536 = 1)
  let d ← (if usesD then src s c .int r.d else .ok RVal.zero)
  let a ← src s c .int r.a
  let b ← src s c .int r.b
  let x ← (if bv then src s c .int r.c else .ok RVal.zero)
  if d.poison || a.poison || b.poison || x.poison then poisonTrap
  else
    let id := keyTeam c.k
    let t := teamOf s c.k
    let es := tidOf (entryOf t a.bits.toNat)
    let ed := tidOf (entryOf t b.bits.toNat)
    let named := decide (a.bits.toNat < 64 ∧ b.bits.toNat < 64) && es.valid && ed.valid
    let at_ ← (if usesD then scratchOperand s c d.bits.toNat 4 (if org then 32 else 4 * (if named then listLen sub es ed else 1)) else .ok 0)
    let ob := if org then scratchRead s c.k id at_ 32 else ([], s)
    let s := ob.2
    let o := if org then (List.range 8).map (fun k => leNat ((ob.1.drop (4 * k)).take 4)) else []
    if !named then engErr 1
    else match engCause s (some id) t.asid sub o (if bv then some (x.bits.toNat, t.desc.bars) else none) es ed with
      | some n => engErr n
      | none =>
        let co := getCore s t.home
        if !roomIn s (groupOf s c.k).core co.engq.length 32 then .error .stall
        else
          let cmd : EngCmd :=
            { id := s.fresh, sub := sub, m := r.m, fpctl := fpctlOf s c, src := entryOf t a.bits.toNat, dst := entryOf t b.bits.toNat, origin := o,
              list := (true, at_), idx := [], team := some id, pod := none, asid := t.asid, bar := if bv then some x.bits.toNat else none,
              srcBack := srcBacking s t.asid es, dstBack := dstBacking s t.asid ed, dstSlot := if ed.pub then some ed.pslot else none,
              codebook := co.codebook, started := false, landed := 0, counted := 0, stage := [], faulted := false, hit := false }
          -- issue is a release at device scope, and the command is ordered after its thread's accesses (R291, R384)
          let s1 := releaseAt s c.k 4
          .ok (modCore (follow { s1 with fresh := s.fresh + 1 } (commandAgent s.fresh) c.k) t.home (fun x => { x with engq := x.engq ++ [cmd] }))

/-- TIDW (R296). -/
def actTidw (c : Ctx) (s : State) : Act := do
  let a ← src s c .int c.raw.a
  let b ← src s c .int c.raw.b
  if a.poison || b.poison then poisonTrap
  else
    let at_ ← scratchOperand s c a.bits.toNat 16 128
    if 64 ≤ b.bits.toNat then engErr 1
    else
      let rd := scratchRead s c.k (keyTeam c.k) at_ 128
      let s := rd.2
      let img := ksetList 0 [] 0 rd.1
      let code := if (tidOf img).valid then tidCheck (pubSlots s) img else 0
      let bs := if (tidOf img).valid then bytesAt img 0 128 else List.replicate 128 0#8
      let s := if code = 0 then modTeam s (keyTeam c.k) (fun t => { t with tids := ksetList 0 t.tids (128 * b.bits.toNat) bs }) else s
      .ok (postResult s c.k (dests c 1) (some [⟨wd code, false⟩]) .plain)

/-- TIDR (R296). -/
def actTidr (c : Ctx) (s : State) : Act := do
  let a ← src s c .int c.raw.a
  let b ← src s c .int c.raw.b
  if a.poison || b.poison then poisonTrap
  else
    let at_ ← scratchOperand s c a.bits.toNat 16 128
    if 64 ≤ b.bits.toNat then engErr 1
    else
      let bs := bytesAt (teamOf s c.k).tids (128 * b.bits.toNat) 128
      .ok (postResult (writeAs s c.k Acc.store (.scratch (keyTeam c.k) at_) bs) c.k (dests c 1) (some [⟨0, false⟩]) .plain)

/-- PUB: after a release at system scope, its exchange waits for the commands before it (R295). -/
def actPub (c : Ctx) (s : State) : Act := do
  let a ← src s c .int c.raw.a
  if a.poison then poisonTrap
  else
    let t := teamOf s c.k
    match pubSlot s t.asid a.bits.toNat with
    | none => engErr 7
    | some _ =>
      let p : PubCmd := { id := s.fresh, core := t.home, slot := a.bits.toNat, asid := t.asid, team := some (keyTeam c.k),
                          thread := if c.raw.d = 127 then none else some (c.k, s.fresh), pod := none }
      let s1 := postResult (releaseAt s c.k 5) c.k (dests c 1) none .plain
      .ok { giveTo s1 c.k (.slot a.bits.toNat) with fresh := s.fresh + 1, pubs := s1.pubs ++ [p] }

/-- True when PUB p waits for no earlier command or PUB of its slot (R295). -/
def pubReady (s : State) (p : PubCmd) : Bool :=
  (kvals s.cores).all (fun c => c.engq.all (fun x => !decide (x.dstSlot = some p.slot ∧ x.id < p.id))) &&
    s.pubs.all (fun q => !decide (q.slot = p.slot ∧ q.id < p.id))

/-- The translations of a publish slot's range, and the L1 lines of its backings, are dropped on every core (R295). -/
def dropSlot (s : State) (asid : Nat) (x : PubSlot) : State :=
  let hit (base size : Nat) : Bool := decide (base < x.va + x.size ∧ x.va < base + size)
  let back (line : Nat) : Bool := decide ((x.phys0 ≤ 128 * line ∧ 128 * line < x.phys0 + x.size) ∨ (x.phys1 ≤ 128 * line ∧ 128 * line < x.phys1 + x.size))
  { s with
    threads := s.threads.map (fun e => match e.2.lpr with
      | none => e
      | some l => if (teamOf s e.1).asid = asid ∧ hit l.base l.size = true then (e.1, { e.2 with lpr := none }) else e),
    cores := s.cores.map (fun c => (c.1, { c.2 with
      tlb := c.2.tlb.filter (fun e => !(decide (e.asid = asid) && hit e.base e.size)),
      bricks := c.2.bricks.filter (fun b => !(decide (b.asid = asid) && hit b.addr b.size)),
      l1 := c.2.l1.filter (fun l => !back l) })),
    order := { s.order with walked := s.order.next } }

/-- The exchange of a PUB: the backings change places, and its translations are dropped everywhere (R295). -/
def pubExchange (id : Nat) (s : State) : State :=
  match s.pubs.find? (fun p => decide (p.id = id)) with
  | none => s
  | some p =>
    let blocked_ := p.pod.isSome && completionBlocked s
    if !pubReady s p || blocked_ then s
    else
      let s := { s with pubs := s.pubs.filter (fun q => decide (q.id ≠ id)) }
      let r : State × Word := match pubSlot s p.asid p.slot with
        | none => ({ s with fresh := s.fresh + 1 }, Config.count s.fresh)
        | some x =>
          let g := wd (x.gen + 1)
          let me := commandAgent p.id
          let s := unitWrite (unitWrite s me (x.addr + 0x20) (leBytes 4 g.toNat)) me (x.addr + 0x0E) [BitVec.ofNat 8 (rdMem s (x.addr + 0x0E) 1 ^^^ 2)]
          (dropSlot s p.asid x, g)
      let s := match p.thread with
        | some (k, tag) => fillResult (acquired (takeFrom r.1 k (.slot p.slot)) k) k tag [⟨r.2, false⟩]
        | none => r.1
      match p.pod with
      | some q => complete { s with order := addSync s.order (.node q) (syncOf s.order (.slot p.slot)) } q stDone
      | none => s

-- ENGINE pods (R297)

/-- What an ENGINE pod's command block asks for: a copy or quantise, a PUB of a slot, or nothing that R297 allows. -/
inductive PodCmd where
  | cmd (c : EngCmd)
  | pub (slot : Nat)
  | bad
  deriving DecidableEq, Repr

/-- The command, by its number, of an engine command block on a core (R297). -/
def podCommand (s : State) (id pa core asid : Nat) (b : List Byte) : PodCmd :=
  let sub := imgNat b 0 1
  let org := imgNat b 2 1
  let srcI : KMap Byte := ksetList 0 [] 0 ((b.drop 0x80).take 128)
  let dstI : KMap Byte := ksetList 0 [] 0 ((b.drop 0x100).take 128)
  let o := if org = 1 then (List.range 8).map (fun k => imgNat b (0x10 + 4 * k) 4) else []
  let es := tidOf srcI
  let ed := tidOf dstI
  if sub < 2 ∨ 6 < sub ∨ 3 < imgNat b 1 1 ∨ 1 < org ∨ imgNat b 3 1 ≠ 0 ∨ imgNat b 0x34 76 ≠ 0 ∨ (org = 1 ∧ sub ≠ 2) then .bad
  else if sub = 6 then
    if srcI ≠ [] ∨ dstI ≠ [] ∨ (pubSlot s asid (imgNat b 0x30 4)).isNone then .bad else .pub (imgNat b 0x30 4)
  else
    let ok (i : KMap Byte) (t : Tid) : Bool := decide (tidCheck (pubSlots s) i = 0) && t.valid && decide (t.space = 0 ∨ t.space = 3)
    if !ok srcI es || !ok dstI ed || decide ((sub = 3 ∨ sub = 4) ∧ imgNat b 8 8 % 4 ≠ 0) || (engCause s none asid sub o none es ed).isSome then .bad
    else .cmd
      { id := id, sub := sub, m := imgNat b 1 1, fpctl := imgWord b 4, src := srcI, dst := dstI, origin := o, list := (false, imgNat b 8 8), idx := [],
        team := none, pod := some pa, asid := asid, bar := none, srcBack := srcBacking s asid es, dstBack := dstBacking s asid ed,
        dstSlot := if ed.pub then some ed.pslot else none, codebook := (getCore s core).codebook, started := false, landed := 0, counted := 0, stage := [],
        faulted := false, hit := false }

/-- The bytes of a command block from byte j on, as its command reads them (R105, R297); an empty one where a byte cannot be read. -/
def readBlock (agent asid k va : Nat) : Nat → Nat → State → Option (List Byte) × State
  | _, 0, s => (some [], s)
  | j, n + 1, s =>
    let x := engWord s agent asid k (va + j) 1
    let y := readBlock agent asid k va (j + 1) n x.2
    (match x.1, y.1 with | some v, some r => some (BitVec.ofNat 8 v :: r) | none, _ => none | some _, none => none, y.2)

/-- The live cores whose engine has room for a pod's command. -/
def engineCores (s : State) : List Nat := (List.range 216).filter (fun c => liveCore s c && decide ((getCore s c).engq.length < 32))

/-- An ENGINE or SIGNAL pod is popped (R101, R106, R297): the engine that runs a command is any live core's; a signal needs none. -/
def popEngine (s : State) : State :=
  let cores := engineCores s
  match choosePop s 1 (fun pa => !cores.isEmpty || decide (podKind s pa = 3)) with
  | none => s
  | some (pa, w) =>
    if s.pwrCur = 2 ∨ completionBlocked s = true then s
    else
      let s := takePod { s with wrrEngine := w } pa
      let f := flightOf s pa
      if podKind s pa = 3 then complete { s with signals := s.signals ++ [(f.code, BitVec.ofNat 64 f.frame)] } pa stDone
      else
        let core := cores.getD (Config.choice s.fresh % cores.length) 0
        -- the command's number is drawn before its first read, so that the pod's edge reaches all of its accesses (R105, R384)
        let id := s.fresh + 1
        let r := readBlock (commandAgent id) f.asid (podClass s pa) f.code 0 384 (takeFrom { s with fresh := s.fresh + 2 } (commandAgent id) (.pod pa))
        let s := r.2
        match r.1 with
        | none => complete s pa stEngFault
        | some b =>
          match podCommand s id pa core f.asid b with
          | .bad => complete s pa stBadNode
          | .pub slot => { s with pubs := s.pubs ++ [{ id := id, core := core, slot := slot, asid := f.asid, team := none, thread := none, pod := some pa }] }
          | .cmd c => modCore s core (fun x => { x with engq := x.engq ++ [c] })

/-- TIDW (R296). -/
def execTidw (w : XForm) (s : State) : Host.Outcome State Fault Refusal := .next (issue (.tidw w) actTidw s)
/-- TIDR (R296). -/
def execTidr (w : XForm) (s : State) : Host.Outcome State Fault Refusal := .next (issue (.tidr w) actTidr s)
/-- CPY (R285). -/
def execCpy (w : XForm) (s : State) : Host.Outcome State Fault Refusal := .next (issue (.cpy w) (actEngine 2) s)
/-- CPYG (R286). -/
def execCpyg (w : XForm) (s : State) : Host.Outcome State Fault Refusal := .next (issue (.cpyg w) (actEngine 3) s)
/-- CPYX (R286). -/
def execCpyx (w : XForm) (s : State) : Host.Outcome State Fault Refusal := .next (issue (.cpyx w) (actEngine 4) s)
/-- QNT (R287). -/
def execQnt (w : XForm) (s : State) : Host.Outcome State Fault Refusal := .next (issue (.qnt w) (actEngine 5) s)
/-- PUB (R295). -/
def execPub (w : XForm) (s : State) : Host.Outcome State Fault Refusal := .next (issue (.pub w) actPub s)
/-- ENGINE_COMMAND_START (R284). -/
def execEngineCommandStart (core : Nat) (s : State) : Host.Outcome State Fault Refusal := .next (engStart core s)
/-- ENGINE_BYTES_LAND (R288). -/
def execEngineBytesLand (core command elements : Nat) (s : State) : Host.Outcome State Fault Refusal := .next (engLand core command elements s)
/-- ENGINE_COMMAND_END (R288). -/
def execEngineCommandEnd (core command : Nat) (s : State) : Host.Outcome State Fault Refusal := .next (engEnd core command s)
/-- PUB_EXCHANGE (R295). -/
def execPubExchange (_core command : Nat) (s : State) : Host.Outcome State Fault Refusal := .next (pubExchange command s)
/-- READY_QUEUE_POP by the placement engine or by an engine (R108). -/
def execReadyQueuePop (engines : Bool) (s : State) : Host.Outcome State Fault Refusal :=
  .next (let s := retryActs s; if engines then popEngine s else popPlacement s)

end Sys2Proof.Machine
end

