-- ==== Sys2Proof/Machine/Matrix.lean ====
section
/-! DEFINITION. The matrix arrays (R298 to R318). -/

namespace Sys2Proof.Machine

-- the configuration word (R301)

def cfgFuse (w : Word) : Nat := w.toNat % 4
def cfgW (w : Word) : Nat := bits w.toNat 11 8
def cfgA (w : Word) : Nat := bits w.toNat 15 12
/-- The promotion period P. -/
def cfgPeriod (w : Word) : Nat := 16 * 2 ^ bits w.toNat 18 16
/-- A float configuration: tiles use A24 (R299). -/
def cfgFloat (w : Word) : Bool := !decide (cfgW w = 5 ∨ cfgW w = 6)

/-- The format pairs of R299. -/
def cfgPair (w a : Nat) : Bool :=
  decide ((w = 2 ∧ a = 2) ∨ (w = 1 ∧ a = 1) ∨ ((w = 3 ∨ w = 4) ∧ (a = 3 ∨ a = 4)) ∨ ((w = 5 ∨ w = 6) ∧ (a = 5 ∨ a = 6)) ∨
    (w = 0xA ∧ (a = 3 ∨ a = 4 ∨ a = 5)))

/-- A word that MXCFG refuses (R301). -/
def cfgRefused (w : Word) : Bool :=
  decide (bits w.toNat 31 19 ≠ 0 ∨ bits w.toNat 7 2 ≠ 0 ∨ bits w.toNat 18 16 = 7 ∨ (cfgW w = 0xA ∧ 2 ≤ cfgFuse w)) || !cfgPair (cfgW w) (cfgA w)

/-- K and N of the block (R298). -/
def cfgK (w : Word) : Nat := match cfgFuse w with | 0 => 32 | 1 => 64 | 2 => 128 | _ => 32
def cfgN (w : Word) : Nat := match cfgFuse w with | 0 => 128 | 1 => 64 | 2 => 32 | _ => 32
/-- The sub-array that holds weight (k, n) (R298). -/
def cfgSub (w : Word) (sa k n : Nat) : Nat := match cfgFuse w with | 0 => n / 32 | 1 => 2 * (k / 32) + n / 32 | 2 => k / 32 | _ => sa
/-- The place of weight (k, n) in a plane: 0 front, 1 shadow. -/
def planeKey (w : Word) (plane sa k n : Nat) : Nat := 1024 * (4 * plane + cfgSub w sa k n) + 32 * (k % 32) + n % 32

-- inner accumulators, as 24-bit patterns (R69 to R71, R313)

/-- add_inner: the sum, and whether it saturated (R70, R71). -/
def addInner (float : Bool) (a b : Nat) : Nat × Bool :=
  if float then
    let x := Xr.add .rn (decodeFmt .a24 a) (decodeFmt .a24 b)
    (roundTo .a24 false .rn x, roundOverflows .a24 x)
  else
    let x := (BitVec.ofNat 24 a).toInt + (BitVec.ofNat 24 b).toInt
    ((BitVec.ofInt 24 (max (-8388608) (min 8388607 x))).toNat, decide (x < -8388608 ∨ 8388607 < x))

/-- One level of the pairwise tree, and how many sums saturated. -/
def treeLevel (float : Bool) : List Nat → List Nat × Nat
  | a :: b :: r =>
    let x := addInner float a b
    let y := treeLevel float r
    (x.1 :: y.1, b2n x.2 + y.2)
  | [a] => ([a], 0)
  | [] => ([], 0)

/-- The tree of R313, level by level. -/
def treeSum (float : Bool) : Nat → List Nat × Nat → Nat × Nat
  | 0, p => (p.1.headD 0, p.2)
  | n + 1, p => let q := treeLevel float p.1; treeSum float n (q.1, p.2 + q.2)

/-- to_inner of a product: its pattern, and whether it overflowed (R313). -/
def toInner (float : Bool) (w a : Xr) : Nat × Bool :=
  let x := Xr.mul w a
  if float then (roundTo .a24 false .rn x, roundOverflows .a24 x)
  else ((BitVec.ofInt 24 (x.toQ).floor).toNat, false)

/-- An inner accumulator after one k-block of products, and how many results saturated. An uncorrectable operand of an integer
configuration is held as NaN (R313). -/
def innerStep (float : Bool) (ps : List (Xr × Xr)) (inner : Nat) : Nat × Nat :=
  if !float && ps.any (fun p => p.1.isNan || p.2.isNan) then (0x800000, 1)
  else
    let xs := ps.map (fun p => toInner float p.1 p.2)
    let t := treeSum float 5 (xs.map (·.1), (xs.filter (·.2)).length)
    let r := addInner float inner t.1
    (r.1, t.2 + b2n r.2)

/-- A team's tiles after a change, and the OVF-setting events. -/
abbrev Tiles := Team × Nat

/-- OVF of a tile set by n events (R71). -/
def setOvf (x : Tiles) (tile n : Nat) : Tiles :=
  if n = 0 then x else ({ x.1 with ovf := x.1.ovf ||| BitVec.ofNat 64 (2 ^ tile) }, x.2 + n)

/-- promote (R314). -/
def promoteTile (float : Bool) (fp : Word) (tile : Nat) (x : Tiles) : Tiles :=
  let zero := (List.range 1024).all (fun e => decide (kget 0 x.1.inner (1024 * tile + e) = 0))
  if kget 0 x.1.steps tile = 0 ∧ zero = true then x
  else
    let y := (List.range 1024).foldl (fun (y : Tiles) e =>
      let at_ := 1024 * tile + e
      let v := kget 0 y.1.acc at_
      let i := kget 0 y.1.inner at_
      let t := { y.1 with inner := kset 0 y.1.inner at_ 0 }
      if float then ({ t with acc := kset 0 t.acc at_ (outF32 fp .rn (Xr.add .rn (inF32 fp v) (decodeFmt .a24 i.toNat))) }, y.2)
      else
        let s := v.toInt + (BitVec.ofNat 24 i.toNat).toInt
        let c := max (-2 ^ 31) (min (2 ^ 31 - 1) s)
        setOvf ({ t with acc := kset 0 t.acc at_ (BitVec.ofInt 32 c) }, y.2) tile (b2n (decide (c ≠ s)))) x
    ({ y.1 with steps := kset 0 y.1.steps tile 0 }, y.2)

/-- Tiles first to first + n − 1 promoted. -/
def promoteTiles (float : Bool) (fp : Word) (first n : Nat) (x : Tiles) : Tiles :=
  (List.range n).foldl (fun x j => promoteTile float fp (first + j) x) x

/-- Stores a team's tiles, counting OVF events in its home core's counters (R310, R435). -/
def putTiles (s : State) (id : Nat) (x : Tiles) : State :=
  let s := setTeam s id x.1
  if x.2 = 0 then s else bump s x.1.home 9 x.2

-- scratch as commands read it

/-- n bytes of a team's scratch; none where one is uncorrectable. -/
def mxRead (s : State) (id at_ n : Nat) : Option Nat := match readLoc s (.scratch id at_) n with | .ok v => some v | .error _ => none

/-- n uncorrectable reads of a command recorded in MXSTAT (R310, R313). -/
def mxBad (s : State) (id sub n : Nat) : State :=
  if n = 0 then s
  else modTeam s id (fun t =>
    let old := bits t.mxstat.toNat 23 16
    if t.mxstat.getLsbD 31 then { t with mxstat := wd (t.mxstat.toNat - old * 65536 + min 255 (old + n) * 65536) }
    else { t with mxstat := wd (2 ^ 31 + min 255 n * 65536 + sub * 256) })

/-- Weight (k, n) that an MXLW reads, exactly; NaN and true where it is uncorrectable (R311, R313). -/
def weightOf (s : State) (cmd : MxCmd) (cfg : Word) (k n : Nat) : Xr × Bool :=
  let at_ := cmd.a.toNat + k * cmd.b.toNat
  if cfgW cfg = 0xA then
    match mxRead s cmd.team (at_ + 2 * (n / 8)) 2, mxRead s cmd.team (cmd.c.toNat + 2 * (k * (cfgN cfg / 64) + n / 64)) 2 with
    | some i, some sc => (cb2Decode cmd.codebook i (readFmt .bf16 (fziOf cmd.fpctl .bf16) sc) (n % 8), false)
    | none, _ => (.nan, true)
    | some _, none => (.nan, true)
  else
    let u := unitOf (cfgW cfg)
    match mxRead s cmd.team (at_ + n * u) u with
    | some v => (elemValue (cfgW cfg) cmd.fpctl v, false)
    | none => (.nan, true)

/-- MXLW (R311). -/
def mxLoad (s : State) (core : Nat) (cmd : MxCmd) : State :=
  let cfg := (getCore s core).mxCfg
  let sa := bits cmd.e 15 14
  let r := (List.range (cfgK cfg)).foldl (fun (x : KMap Xr × Nat) k =>
    (List.range (cfgN cfg)).foldl (fun (x : KMap Xr × Nat) n =>
      let w := weightOf s cmd cfg k n
      (kset Xr.zero x.1 (planeKey cfg 1 sa k n) w.1, x.2 + b2n w.2)) x) ((getCore s core).planes, 0)
  mxBad (modCore s core (fun c => { c with planes := r.1 })) cmd.team cmd.sub r.2

/-- MXSW: front and shadow change places (R312). -/
def mxSwap (s : State) (core : Nat) : State :=
  modCore s core (fun c =>
    { c with planes := (c.planes.filter (fun e => decide (4096 ≤ e.1 ∧ e.1 < 8192))).map (fun e => (e.1 - 4096, e.2)) ++
        (c.planes.filter (fun e => decide (e.1 < 4096))).map (fun e => (e.1 + 4096, e.2)) })

/-- Activation (row, k) of an MXST; NaN and true where it is uncorrectable (R313). -/
def activation (s : State) (t : Team) (cmd : MxCmd) (cfg : Word) (row k : Nat) : Xr × Bool :=
  let af := cfgA cfg
  if cmd.m = 1 then
    let v := kget 0 t.acc (1024 * (cmd.a.toNat + k / 32) + 32 * row + k % 32)
    let x := if cfgFloat cfg then inF32 cmd.fpctl v else Xr.ofInt v.toInt
    (elemValue af cmd.fpctl (elemBits af cmd.fpctl .rn x), false)
  else
    let u := unitOf af
    match mxRead s cmd.team (cmd.a.toNat + row * cmd.b.toNat + k * u) u with
    | some v => (elemValue af cmd.fpctl v, false)
    | none => (.nan, true)

/-- The activations of an MXST, row by row. -/
def activations (s : State) (t : Team) (cmd : MxCmd) (cfg : Word) : List (List (Xr × Bool)) :=
  (List.range cmd.c.toNat).map (fun row => (List.range (cfgK cfg)).map (fun k => activation s t cmd cfg row k))

/-- One k-block of one row enters output column n (R313). -/
def mxCell (planes : KMap Xr) (cmd : MxCmd) (cfg : Word) (kb row n : Nat) (acts : List (Xr × Bool)) (x : Tiles) : Tiles :=
  let tile := cmd.d.toNat + n / 32
  let at_ := 1024 * tile + 32 * row + n % 32
  let ps := (List.range 32).map (fun k =>
    (kget Xr.zero planes (planeKey cfg 0 (bits cmd.e 15 14) (32 * kb + k) n), (acts.getD (32 * kb + k) (Xr.zero, false)).1))
  let r := innerStep (cfgFloat cfg) ps (kget 0 x.1.inner at_).toNat
  setOvf ({ x.1 with inner := kset 0 x.1.inner at_ (wd r.1) }, x.2) tile r.2

/-- A step ends: each output tile counts it, and is promoted after P steps (R313, R314). -/
def mxCount (cmd : MxCmd) (cfg : Word) (x : Tiles) : Tiles :=
  (List.range (cfgN cfg / 32)).foldl (fun (x : Tiles) j =>
    let tile := cmd.d.toNat + j
    let n := kget 0 x.1.steps tile + 1
    let x : Tiles := ({ x.1 with steps := kset 0 x.1.steps tile n }, x.2)
    if cfgPeriod cfg ≤ n then promoteTile (cfgFloat cfg) cmd.fpctl tile x else x) x

/-- Tiles that a shorter period has made due are promoted before a step (R314). -/
def mxDue (cmd : MxCmd) (cfg : Word) (x : Tiles) : Tiles :=
  (List.range (cfgN cfg / 32)).foldl (fun (x : Tiles) j =>
    if cfgPeriod cfg ≤ kget 0 x.1.steps (cmd.d.toNat + j) then promoteTile (cfgFloat cfg) cmd.fpctl (cmd.d.toNat + j) x else x) x

/-- MXST (R313, R314). -/
def mxStream (s : State) (core : Nat) (cmd : MxCmd) : State :=
  let cfg := (getCore s core).mxCfg
  let planes := (getCore s core).planes
  let x0 : Tiles := (getTeam s cmd.team, 0)
  let x1 := if cmd.m = 1 then promoteTiles (cfgFloat cfg) cmd.fpctl cmd.a.toNat (cfgK cfg / 32) x0 else x0
  let acts := activations s x1.1 cmd cfg
  let bad := (acts.map (fun r => (r.filter (·.2)).length)).foldl (· + ·) 0
  let x2 := (List.range (cfgK cfg / 32)).foldl (fun (x : Tiles) kb =>
    mxCount cmd cfg ((List.range cmd.c.toNat).foldl (fun (x : Tiles) row =>
      (List.range (cfgN cfg)).foldl (fun (x : Tiles) n => mxCell planes cmd cfg kb row n (acts.getD row []) x) x) x)) (mxDue cmd cfg x1)
  mxBad (putTiles s cmd.team x2) cmd.team cmd.sub bad

/-- The output unit of MXDR (R315). -/
def drainUnit (m : Nat) : Nat := match m with | 0 => 4 | 1 => 2 | 2 => 2 | _ => 1

/-- An element as MXDR writes it (R315). -/
def drainBytes (cmd : MxCmd) (v : Word) : List Byte :=
  let rm := rmOf (bits cmd.e 13 12)
  match cmd.m with
  | 0 => leBytes 4 v.toNat
  | 1 => leBytes 2 (roundTo .bf16 (fzoOf cmd.fpctl .bf16) rm (inF32 cmd.fpctl v))
  | 2 => leBytes 2 (roundTo .f16 (fzoOf cmd.fpctl .f16) rm (inF32 cmd.fpctl v))
  | _ => leBytes 1 (roundTo .f8a (fzoOf cmd.fpctl .f8a) rm (inF32 cmd.fpctl v))

/-- MXDR: its scratch writes are seen by aligned 4-byte parts (R308, R315). -/
def mxDrain (s : State) (core : Nat) (cmd : MxCmd) : State :=
  let cfg := (getCore s core).mxCfg
  let x := promoteTiles (cfgFloat cfg) cmd.fpctl cmd.d.toNat cmd.c.toNat (getTeam s cmd.team, 0)
  let s := putTiles s cmd.team x
  (List.range cmd.c.toNat).foldl (fun s j =>
    (List.range 32).foldl (fun s row =>
      let bs := (List.range 32).flatMap (fun col => drainBytes cmd (kget 0 x.1.acc (1024 * (cmd.d.toNat + j) + 32 * row + col)))
      let o := cmd.a.toNat + row * cmd.b.toNat + 32 * j * drainUnit cmd.m
      (List.range (bs.length / 4)).foldl (fun s i =>
        writeAs s (commandAgent cmd.id) Acc.store (.scratch cmd.team (o + 4 * i)) ((bs.drop (4 * i)).take 4)) s) s) s

/-- MXZ (R316). -/
def mxZero (s : State) (cmd : MxCmd) : State :=
  modTeam s cmd.team (fun t =>
    let first := cmd.d.toNat
    let n := cmd.a.toNat
    let out (e : Nat × Word) : Bool := decide (e.1 < 1024 * first ∨ 1024 * (first + n) ≤ e.1)
    { t with acc := t.acc.filter out, inner := t.inner.filter out,
             steps := t.steps.filter (fun e => decide (e.1 < first ∨ first + n ≤ e.1)),
             ovf := t.ovf &&& ~~~(BitVec.ofNat 64 ((2 ^ n - 1) * 2 ^ first)) })

/-- An F32 of MXPR's vectors; NaN and true where it is uncorrectable. -/
def mxScale (s : State) (cmd : MxCmd) (at_ row : Nat) : Xr × Bool :=
  match mxRead s cmd.team (at_ + 4 * row) 4 with | some v => (inF32 cmd.fpctl (wd v), false) | none => (.nan, true)

/-- MXPR (R317). -/
def mxProcess (s : State) (core : Nat) (cmd : MxCmd) : State :=
  let cfg := (getCore s core).mxCfg
  let nb := decide (bits cmd.e 15 15 = 1)
  let sc := (List.range 32).map (mxScale s cmd cmd.a.toNat)
  let bi := if nb then [] else (List.range 32).map (mxScale s cmd cmd.b.toNat)
  let x := promoteTiles (cfgFloat cfg) cmd.fpctl cmd.d.toNat cmd.c.toNat (getTeam s cmd.team, 0)
  let t := (List.range (1024 * cmd.c.toNat)).foldl (fun (t : Team) i =>
    let at_ := 1024 * cmd.d.toNat + i
    let row := i % 1024 / 32
    let p := Xr.mul (inF32 cmd.fpctl (kget 0 t.acc at_)) (sc.getD row (Xr.zero, false)).1
    let v := if nb then p else Xr.add (rmOf cmd.m) p (bi.getD row (Xr.zero, false)).1
    { t with acc := kset 0 t.acc at_ (outF32 cmd.fpctl (rmOf cmd.m) v) }) x.1
  mxBad (putTiles s cmd.team (t, x.2)) cmd.team cmd.sub (((sc ++ bi).filter (·.2)).length)

/-- The codebook table that .CBW writes (R302, R65); an uncorrectable word has no stated value: it is free. -/
def readCodebook (s : State) (id at_ : Nat) : State × KMap Word :=
  (List.range 512).foldl (fun (x : State × KMap Word) n =>
    match mxRead s id (at_ + 4 * n) 4 with
    | some v => (x.1, if wd v = resetRow n then x.2 else kput x.2 n (wd v))
    | none => let d := draw x.1; (mxBad d.2 id 0 1, kput x.2 n (Config.count d.1))) (s, [])

/-- MXCFG: the effect, and the status code (R302). -/
def mxConfigure (s : State) (core : Nat) (cmd : MxCmd) : State × Nat :=
  let co := getCore s core
  let mine := decide (co.mxOwner = some cmd.team)
  let set (s : State) : State :=
    let keep := decide (cfgFuse co.mxCfg = cfgFuse cmd.a ∧ cfgW co.mxCfg = cfgW cmd.a)
    modCore s core (fun c => { c with mxCfg := cmd.a, planes := if keep then c.planes else [] })
  match cmd.m with
  | 0 =>
    if cfgRefused cmd.a then (s, 3)
    else if co.mxOwner = none then (modCore s core (fun c => { c with mxOwner := some cmd.team, mxCfg := cmd.a, planes := [] }), 0)
    else if mine then (set s, 0)
    else (s, 1)
  | 1 => if cfgRefused cmd.a then (s, 3) else if mine then (set s, 0) else (s, 2)
  | 2 => if mine then (modCore s core (fun c => { c with mxOwner := none, mxCfg := 0, planes := [] }), 0) else (s, 2)
  | _ =>
    if !mine then (s, 2)
    else if cmd.a = 0xFFFFFFFF#32 then (modCore s core (fun c => { c with codebook := [] }), 0)
    else
      let r := readCodebook s cmd.team cmd.a.toNat
      (modCore r.1 core (fun c => { c with codebook := r.2 }), 0)

/-- A command arrives on its barrier: not once its team retires or is killed (R308, R318). -/
def mxArrives (s : State) (cmd : MxCmd) : Bool :=
  let t := getTeam s cmd.team
  decide (bits cmd.e 16 16 = 1) && !t.killed && decide (t.hold ≠ .retiring)

/-- The effect of a matrix command. -/
def mxEffect (s : State) (core : Nat) (cmd : MxCmd) : State :=
  match cmd.sub with
  | 0 => let r := mxConfigure s core cmd; fillResult r.1 cmd.thread cmd.tag [⟨wd r.2, false⟩]
  | 1 => mxLoad s core cmd
  | 2 => mxSwap s core
  | 3 => mxStream s core cmd
  | 4 => mxDrain s core cmd
  | 5 => mxZero s cmd
  | _ => mxProcess s core cmd

/-- A matrix command executes after its team's earlier ones and what its thread had done at issue: it reads scratch as its agent does, and
what it has done goes to the commands after it and to its node (R105, R308). -/
def mxRun (s : State) (core : Nat) (cmd : MxCmd) : State :=
  let me := commandAgent cmd.id
  let s := takeFrom s me (.matrix cmd.team)
  let s :=
    if cmd.sub = 4 then mxEffect s core cmd
    else
      let r := scratchFor s me cmd.team
      let own := (getTeam s cmd.team).scratch
      modTeam (mxEffect (modTeam r.2 cmd.team (fun t => { t with scratch := r.1 })) core cmd) cmd.team (fun t => { t with scratch := own })
  giveTo (giveTo s me (.matrix cmd.team)) me (.node (getTeam s cmd.team).grid)

/-- True when a queued command may execute: after its team's earlier commands, and an MXCFG after every earlier MXCFG (R302, R307). -/
def mxTurn (cmd : MxCmd) (earlier : List MxCmd) : Bool :=
  earlier.all (fun e => decide (e.team ≠ cmd.team) && !(decide (e.sub = 0 ∧ cmd.sub = 0)))

/-- MATRIX_COMMAND_EXECUTE (R307). -/
def execMatrixCommandExecute (core index : Nat) (s : State) : Host.Outcome State Fault Refusal :=
  .next (match (getCore s core).mxq[index]? with
    | none => s
    | some cmd =>
      if !mxTurn cmd ((getCore s core).mxq.take index) || (mxArrives s cmd && logBlocked s 1) then s
      else
        let s := mxRun s core cmd
        let s := modCore s core (fun c => { c with mxq := c.mxq.filter (fun x => decide (x.id ≠ cmd.id)) })
        if mxArrives s cmd then agentBar s (commandAgent cmd.id) cmd.team (bits cmd.e 10 0) 2 core 1 0 else s)

/-- PROMOTE: a tile that has seen P steps is promoted (R314). A tile can only stand so where a change of PL has shortened P; the FPCTL
of that promotion is a free value (log entry 17). -/
def execPromote (team tile : Nat) (s : State) : Host.Outcome State Fault Refusal :=
  .next (match kfind s.teams team with
    | none => s
    | some t =>
      let co := getCore s t.home
      if co.mxOwner = some team ∧ tile < tileCount t.desc ∧ cfgPeriod co.mxCfg ≤ kget 0 t.steps tile then
        let d := draw s
        putTiles d.2 team (promoteTile (cfgFloat co.mxCfg) (Config.count d.1) tile (t, 0))
      else s)

-- issue (R305, R306)

/-- What a matrix instruction's operands come to, for the checks of R305: scratch addresses, strides, the ends of what it touches,
counts within limits, and tiles as first and number. -/
structure MxUse where
  addrs : List Nat
  strides : List Nat
  ends : List Nat
  count : Bool
  tiles : List (Nat × Nat)

/-- The use of an instruction under a configuration (R311 to R317). -/
def mxUse (sub m : Nat) (nb : Bool) (cfg : Word) (d a b c : Nat) : MxUse :=
  match sub with
  | 0 => if m = 3 ∧ a ≠ 0xFFFFFFFF then ⟨[a], [], [a + 2048], true, []⟩ else ⟨[], [], [], true, []⟩
  | 1 =>
    let cb := decide (cfgW cfg = 0xA)
    let row := if cb then cfgN cfg / 4 else cfgN cfg * unitOf (cfgW cfg)
    ⟨a :: (if cb then [c] else []), [b], (a + (cfgK cfg - 1) * b + row) :: (if cb then [c + cfgK cfg * cfgN cfg / 32] else []), true, []⟩
  | 2 => ⟨[], [], [], true, []⟩
  | 3 =>
    let ok := decide (1 ≤ c ∧ c ≤ 32)
    if m = 1 then ⟨[], [], [], ok, [(d, cfgN cfg / 32), (a, cfgK cfg / 32)]⟩
    else ⟨[a], [b], [a + (c - 1) * b + cfgK cfg * unitOf (cfgA cfg)], ok, [(d, cfgN cfg / 32)]⟩
  | 4 => ⟨[a], [b], [a + 31 * b + 32 * c * drainUnit m], decide (1 ≤ c ∧ c ≤ 4), [(d, c)]⟩
  | 5 => ⟨[], [], [], decide (1 ≤ a ∧ a ≤ 64), [(d, a)]⟩
  | _ => ⟨a :: (if nb then [] else [b]), [], (a + 128) :: (if nb then [] else [b + 128]), decide (1 ≤ c ∧ c ≤ 4), [(d, c)]⟩

/-- Two runs of tiles overlap. -/
def runsOverlap (a b : Nat × Nat) : Bool := decide (a.1 < b.1 + b.2 ∧ b.1 < a.1 + a.2)

/-- The ENGERR cause, in the order of R305. -/
def mxCause (own : Bool) (t : Team) (r : Raw) (cfg : Word) (u : MxUse) : Option Nat :=
  let size := dataSize t.desc
  let sa := bits r.e 15 14
  if r.sub ≠ 0 ∧ own = false then some 0x10
  else if u.count = false then some 3
  else if u.ends.any (fun e => decide (size < e)) then some 4
  else if u.tiles.any (fun x => decide (tileCount t.desc < x.1 + x.2)) then some 0x12
  else if bits r.e 16 16 = 1 ∧ t.desc.bars ≤ bits r.e 10 0 then some 5
  else if r.sub = 4 ∧ r.m ≠ 0 ∧ cfgFloat cfg = false then some 2
  else if (r.sub = 6 ∧ cfgFloat cfg = false) ∨ (r.sub = 3 ∧ r.m = 1 ∧ runsOverlap (u.tiles.getD 0 (0, 0)) (u.tiles.getD 1 (0, 0)) = true) ∨
    ((r.sub = 1 ∨ r.sub = 3) ∧ sa ≠ 0 ∧ cfgFuse cfg ≠ 3) ∨ (r.sub = 1 ∧ r.c ≠ 0 ∧ cfgW cfg ≠ 0xA) then some 0x11
  else none

/-- A field read as a value, when it is one. -/
def mxField (s : State) (c : Ctx) (used : Bool) (code : Nat) : Except Stop RVal := if used then src s c .int code else .ok RVal.zero

/-- A matrix instruction enters its team's home core's queue (R305, R306). While an MXCFG of the team that may change its
configuration waits in the queue, another instruction waits at issue: the configuration it is checked against is the one in force when it
executes. -/
def actMatrix (c : Ctx) (s : State) : Act := do
  let r := c.raw
  let id := keyTeam c.k
  let t := teamOf s c.k
  let co := getCore s t.home
  if r.sub ≠ 0 ∧ co.mxq.any (fun q => decide (q.team = id ∧ q.sub = 0 ∧ q.m ≠ 3)) = true then .error .stall
  else
    let own := decide (co.mxOwner = some id)
    let cfg := co.mxCfg
    let nb := decide (r.sub = 6 ∧ bits r.e 15 15 = 1)
    let d ← mxField s c (decide (3 ≤ r.sub)) r.d
    let a ← mxField s c (decide (r.sub ≠ 2 ∧ ¬ (r.sub = 0 ∧ r.m = 2))) r.a
    let b ← mxField s c (decide (r.sub = 1 ∨ (r.sub = 3 ∧ r.m = 0) ∨ r.sub = 4 ∨ (r.sub = 6 ∧ nb = false))) r.b
    let x ← mxField s c (decide ((r.sub = 1 ∧ own = true ∧ cfgW cfg = 0xA) ∨ r.sub = 3 ∨ r.sub = 4 ∨ r.sub = 6)) r.c
    if d.poison || a.poison || b.poison || x.poison then poisonTrap
    else
      let u := mxUse r.sub r.m nb cfg d.bits.toNat a.bits.toNat b.bits.toNat x.bits.toNat
      match (u.addrs ++ u.strides).find? (fun v => decide (v % 16 ≠ 0)) with
      | some v => .error (.trap Trap.align 0 (placeOf .scratch v))
      | none =>
        match u.addrs.find? (fun v => decide (dataSize t.desc ≤ v)) with
        | some v => .error (.trap Trap.space 0 (placeOf .scratch v))
        | none =>
          match mxCause own t r cfg u with
          | some n => engErr n
          | none =>
            if !roomIn s (groupOf s c.k).core co.mxq.length 16 then .error .stall
            else
              let cmd : MxCmd :=
                { id := s.fresh, team := id, thread := c.k, tag := s.fresh, sub := r.sub, m := r.m, e := r.e, d := d.bits, a := a.bits, b := b.bits,
                  c := x.bits, fpctl := fpctlOf s c, codebook := co.codebook }
              let s1 := if r.sub = 0 then postResult s c.k (dests c 1) none .plain else s
              -- issue is a release at team scope (R308)
              .ok (modCore { follow (releaseAt s1 c.k 2) (commandAgent s.fresh) c.k with fresh := s.fresh + 1 } t.home (fun y => { y with mxq := y.mxq ++ [cmd] }))

/-- MXCFG.ACQ (R302). -/
def execMxcfgAcq (w : XForm) (s : State) : Host.Outcome State Fault Refusal := .next (issue (.mxcfgAcq w) actMatrix s)
/-- MXCFG.SET (R302). -/
def execMxcfgSet (w : XForm) (s : State) : Host.Outcome State Fault Refusal := .next (issue (.mxcfgSet w) actMatrix s)
/-- MXCFG.REL (R302). -/
def execMxcfgRel (w : XForm) (s : State) : Host.Outcome State Fault Refusal := .next (issue (.mxcfgRel w) actMatrix s)
/-- MXCFG.CBW (R302). -/
def execMxcfgCbw (w : XForm) (s : State) : Host.Outcome State Fault Refusal := .next (issue (.mxcfgCbw w) actMatrix s)
/-- MXLW (R311). -/
def execMxlw (w : XForm) (s : State) : Host.Outcome State Fault Refusal := .next (issue (.mxlw w) actMatrix s)
/-- MXSW (R312). -/
def execMxsw (w : XForm) (s : State) : Host.Outcome State Fault Refusal := .next (issue (.mxsw w) actMatrix s)
/-- MXST (R313). -/
def execMxst (w : XForm) (s : State) : Host.Outcome State Fault Refusal := .next (issue (.mxst w) actMatrix s)
/-- MXDR (R315). -/
def execMxdr (w : XForm) (s : State) : Host.Outcome State Fault Refusal := .next (issue (.mxdr w) actMatrix s)
/-- MXZ (R316). -/
def execMxz (w : XForm) (s : State) : Host.Outcome State Fault Refusal := .next (issue (.mxz w) actMatrix s)
/-- MXPR (R317). -/
def execMxpr (w : XForm) (s : State) : Host.Outcome State Fault Refusal := .next (issue (.mxpr w) actMatrix s)

end Sys2Proof.Machine
end

