-- ==== Sys2Proof/Machine/Brick.lean ====
section
/-! DEFINITION. Reading scene memory (R79, R80), brick maps (R90, R91) and BRKF (R273). -/

namespace Sys2Proof.Machine

/-- Why a ray call ends early: a fault at an address, a malformed record (0 where there is none), or a full stack (R80, R327). -/
inductive Bad where
  | fault (va : Nat) (f : MFault)
  | malformed (va : Nat)
  | overflow
  deriving DecidableEq, Repr

/-- A computation that reads scene memory, leaving what each access leaves. -/
abbrev Scan := ExceptT Bad (StateM State)

/-- A way to read n bytes at an address. -/
abbrev Port := Nat → Nat → Scan Nat

/-- The ways that a brick map is read: records, samples, and what is left when a brick at an address, of so many bytes, is sampled. -/
structure BrickPort where
  read : Port
  sample : Port
  brick : Nat → Nat → Scan Unit

/-- A scan that goes on only if b holds; otherwise the record at va is malformed. -/
def Scan.need (va : Nat) (b : Bool) : Scan Unit := if b then pure () else throw (.malformed va)

/-- Reads n words, 4 bytes apart (R79). -/
def Port.words (p : Port) : Nat → Nat → Scan (List Word)
  | _, 0 => pure []
  | a, n + 1 => do
    let w ← p a 4
    let r ← Port.words p (a + 4) n
    pure (wd w :: r)

/-- Word i of a list, 0 beyond it. -/
def wAt (ws : List Word) (i : Nat) : Word := ws.getD i 0
/-- Bits [8j+7:8j] onward of word i: a field of n bytes at byte offset o of a record's words. -/
def fieldAt (ws : List Word) (o n : Nat) : Nat :=
  (leNat (ws.flatMap (fun w => leBytes 4 w.toNat) |>.drop o |>.take n))

/-- A brick map header (R90). -/
structure BrickMap where
  addr : Nat
  origin : List Word
  voxel : Word
  size : List Nat
  s8 : Bool
  dclamp : Word
  dscale : Word
  map : Nat
  pool : Nat
  deriving DecidableEq, Repr

/-- The bytes of a brick (R90). -/
def BrickMap.brickSize (h : BrickMap) : Nat := if h.s8 then 512 else 1024

/-- Finite and above 0. -/
def posFinite (w : Word) : Bool :=
  match f32 w with | .fin s n _ => !s && decide (n ≠ 0) | .nan => false | .inf _ => false

/-- The brick map header at an address (R90). -/
def readBrickMap (p : Port) (a : Nat) : Scan BrickMap := do
  let ws ← p.words a 16
  let size := [fieldAt ws 0x10 2, fieldAt ws 0x12 2, fieldAt ws 0x14 2]
  let vfmt := fieldAt ws 0x16 1
  let map := fieldAt ws 0x20 8
  let pool := fieldAt ws 0x28 8
  Scan.need a (posFinite (wAt ws 3) && size.all (fun n => decide (1 ≤ n ∧ n ≤ 4096)) && decide (vfmt ≤ 1) &&
    decide (fieldAt ws 0x17 1 = 0) && posFinite (wAt ws 6) && (decide (vfmt = 0) || posFinite (wAt ws 7)) &&
    decide (map % 4 = 0) && decide (pool % 128 = 0) && decide (fieldAt ws 0x30 16 = 0))
  pure { addr := a, origin := ws.take 3, voxel := wAt ws 3, size := size, s8 := decide (vfmt = 1), dclamp := wAt ws 6,
         dscale := wAt ws 7, map := map, pool := pool }

/-- The exact value of sample s of a brick (R90); an F16 sample is read after FZI (R273). -/
def sampleExact (h : BrickMap) (fp : Word) (v : Nat) : Xr :=
  if h.s8 then Xr.mul (Xr.div (Xr.ofInt (max (BitVec.ofNat 8 v).toInt (-127))) (.fin false 127 1)) (f32 h.dscale)
  else readFmt .f16 (fziOf fp .f16) v

/-- The value of a sample as BRKF's computation takes it: an S8 sample rounded to F32 (R273). -/
def sampleValue (h : BrickMap) (fp : Word) (v : Nat) : Xr :=
  if h.s8 then f32 (toF32 .rn (sampleExact h fp v)) else sampleExact h fp v

/-- The eight samples of a trilinear cell, x fastest, each as val gives it. -/
def readCorners (p : Port) (h : BrickMap) (val : Nat → Xr) (brick : Nat) (i : List Nat) : List Nat → Scan (List Xr)
  | [] => pure []
  | c :: r => do
    let n := (i.getD 0 0 + c % 2) + 8 * (i.getD 1 0 + c / 2 % 2) + 64 * (i.getD 2 0 + c / 4)
    let v ← if h.s8 then p (brick + n) 1 else p (brick + 2 * n) 2
    let rest ← readCorners p h val brick i r
    pure (val v :: rest)

/-- A weighted sum, terms in order. -/
def weighted : List (Xr × Xr) → Xr
  | [] => Xr.zero
  | [(w, v)] => Xr.mul w v
  | (w, v) :: t => Xr.add .rn (Xr.mul w v) (weighted t)

/-- The weight of coordinate bit b at fraction f. -/
def cornerWeight (f : Xr) (b : Nat) : Xr := if b = 1 then f else Xr.sub .rn (.fin false 1 1) f

/-- The trilinear value of eight corners at f (R91). -/
def trilinear (f : List Xr) (s : List Xr) : Xr :=
  let w (axis b : Nat) : Xr := cornerWeight (f.getD axis Xr.zero) b
  weighted ((List.range 8).map (fun c => (Xr.mul (w 0 (c % 2)) (Xr.mul (w 1 (c / 2 % 2)) (w 2 (c / 4))), s.getD c Xr.zero)))

/-- The derivative of the trilinear form along an axis (R91). -/
def slope (f : List Xr) (s : List Xr) (axis : Nat) : Xr :=
  let w (a b : Nat) : Xr := cornerWeight (f.getD a Xr.zero) b
  let others := [0, 1, 2].filter (fun a => decide (a ≠ axis))
  let bit (c a : Nat) : Nat := c / 2 ^ a % 2
  weighted (((List.range 8).filter (fun c => decide (bit c axis = 0))).map (fun c =>
    (others.foldl (fun acc a => Xr.mul acc (w a (bit c a))) (.fin false 1 1),
     Xr.sub .rn (s.getD (c + 2 ^ axis) Xr.zero) (s.getD c Xr.zero))))

/-- Distance and gradient at g, in bricks' sample coordinates (R91). A malformed map word reports the header (DESIGN CHOICE: R90 names no
address for it; log entry 35). -/
def brickAt (p : BrickPort) (h : BrickMap) (fp : Word) (g : List Xr) : Scan (Xr × List Xr) := do
  let flat (neg : Bool) : Xr × List Xr := (if neg then Xr.neg (f32 h.dclamp) else f32 h.dclamp, [Xr.zero, Xr.zero, Xr.zero])
  let outside := (List.range 3).any (fun k =>
    Xr.lt (g.getD k .nan) Xr.zero || Xr.le (Xr.ofInt (7 * (h.size.getD k 0 : Int))) (g.getD k .nan))
  if outside then pure (flat false)
  else do
    let q := g.map Xr.toQ
    let b := q.map (fun x => ((Q.div x (Q.ofInt 7)).floor).toNat)
    let ix := b.getD 0 0 + h.size.getD 0 0 * (b.getD 1 0 + h.size.getD 1 0 * b.getD 2 0)
    let w ← p.read (h.map + 4 * ix) 4
    let state := w / 2 ^ 30
    Scan.need h.addr (decide (state ≠ 3 ∧ (state ≠ 2 → w % 2 ^ 30 = 0)))
    if state = 0 then pure (flat false)
    else if state = 1 then pure (flat true)
    else do
      let l := (List.range 3).map (fun k => Q.sub (q.getD k Q.zero) (Q.ofInt (7 * (b.getD k 0 : Int))))
      let i : List Nat := l.map (fun x => x.floor.toNat)
      let f := (List.range 3).map (fun k => (Q.sub (l.getD k Q.zero) (Q.ofInt (i.getD k 0 : Int))).toXr)
      let base := h.pool + w % 2 ^ 30 * h.brickSize
      p.brick base h.brickSize
      let s ← readCorners p.sample h (sampleValue h fp) base i [0, 1, 2, 3, 4, 5, 6, 7]
      pure (trilinear f s, [0, 1, 2].map (fun a => Xr.div (slope f s a) (f32 h.voxel)))

/-- The coordinates g of a point in a brick map, each one rounding (R273). -/
def brickCoords (h : BrickMap) (pt : List Xr) : List Xr :=
  (List.range 3).map (fun k =>
    f32 (toF32 .rn (Xr.div (Xr.sub .rn (pt.getD k .nan) (f32 (h.origin.getD k 0))) (f32 h.voxel))))

/-- Distance and gradient of a brick map at a point, as four F32 results (R273). A part of g that is NaN while p is not, which
needs an origin that is no number, has no stated result: its four values are free (log entry 13). -/
def brickValue (p : BrickPort) (a : Nat) (fp : Word) (pt : List Xr) : Scan (List Word) := do
  let h ← readBrickMap p.read a
  if pt.any Xr.isNan then pure [nanW, nanW, nanW, nanW]
  else
    let g := brickCoords h pt
    if g.any Xr.isNan then pure ((List.range 4).map (fun k => Config.special (32 + k) a))
    else do
      let r ← brickAt p h fp g
      pure ((r.1 :: r.2).map (outF32 fp .rn))

/-- A thread's weak loads from global space (R240, R257); lines says whether the L1 serves them. -/
def threadRead (lines : Bool) (c : Ctx) : Port := fun a n => fun s =>
  let f := resolve s c.k .global a n .r
  let s1 := noteAccess s c.k .global (if lines then Acc.read else { Acc.read with strong := true, scope := 4 }) f
  match f with
  | .ok l _ =>
    match readAs s1 c.k Acc.read l n with
    | .ok (v, s2) => (.ok v, s2)
    | .error e => (.error (.fault a e), s1)
  | .fault e _ => (.error (.fault a e), s1)
  | .space => (.error (.fault a .range), s)

/-- The reads of a thread's BRKF, which the brick store serves where its home core has one (R245, R273). -/
def threadPort (c : Ctx) : BrickPort :=
  { read := threadRead true c,
    sample := fun a n => fun s => threadRead (decide (brickBytes (getCore s (teamOf s c.k).home) = 0)) c a n s,
    brick := fun a n => fun s => (.ok (), touchBrick s (teamOf s c.k).home (teamOf s c.k).asid a n) }

/-- BRKF (R273). -/
def actBrkf (c : Ctx) (s : State) : Act := do
  let a ← srcD s c .n64 c.raw.a
  let b ← srcN s c c.raw.b 3
  let at_ := a.bits.toNat
  if a.poison then poisonTrap
  else if at_ % 4 ≠ 0 then .error (.trap Trap.align 0 (placeOf .global at_))
  else
    let fp := fpctlOf s c
    let bad := anyBad b
    let r := (brickValue (threadPort c) at_ fp (b.map (fun v => inF32 fp v.bits))).run.run s
    match r.1 with
    | .ok vs => .ok (postResult r.2 c.k (dests c 4) (some (vs.map (fun w => ⟨w, bad⟩))) .plain)
    | .error (.fault va e) =>
      .ok (postResult (notePoison r.2 c.k c.pc.toNat (va, .global) e.code) c.k (dests c 4) (some (List.replicate 4 RVal.bad)) .plain)
    | .error (.malformed _) => .error (.trap Trap.rayerr 4 none)
    | .error .overflow => .error (.trap Trap.rayerr 4 none)

/-- BRKF (R273). -/
def execBrkf (w : TForm) (s : State) : Host.Outcome State Fault Refusal := .next (issue (.brkf w) actBrkf s)

end Sys2Proof.Machine
end

