-- ==== Sys2Proof/Machine/Interval.lean ====
section
/-! DEFINITION. Intervals and the interval instructions (R72, R73, R199 to R201). -/

namespace Sys2Proof.Machine

/-- An interval as read: its bounds, neither NaN (R199 step 1). -/
structure Ivl where
  lo : Xr
  hi : Xr
  deriving DecidableEq, Repr

/-- [−∞, +∞]. -/
def Ivl.all : Ivl := ⟨.inf true, .inf false⟩
/-- The canonical empty interval (R72). -/
def Ivl.empty : Ivl := ⟨.inf false, .inf true⟩
/-- lo > hi (R72). -/
def Ivl.isEmpty (a : Ivl) : Bool := Xr.lt a.hi a.lo

/-- The interval of a pair (R72, R199). -/
def readIvl (v : DWord) : Ivl :=
  let lo := f32 v.lo
  let hi := f32 v.hi
  if lo.isNan || hi.isNan then Ivl.all else ⟨lo, hi⟩

/-- A bound as a pattern: a zero is +0 (R199 step 5). -/
def boundBits (m : Rm) (x : Xr) : Word :=
  let w := toF32 m x
  if w = 0x80000000#32 then 0 else w

/-- An interval from exact bounds: rounded outward, NaN bounds unbounded, in canonical form (R199 steps 3 to 5). -/
def writeIvl (a : Ivl) : DWord :=
  let lo := if a.lo.isNan then 0xFF800000#32 else boundBits .rd a.lo
  let hi := if a.hi.isNan then 0x7F800000#32 else boundBits .ru a.hi
  if Xr.lt (f32 hi) (f32 lo) then Word.pair 0x7F800000#32 0xFF800000#32 else Word.pair lo hi

/-- The product with 0 · ±∞ taken as 0 (R200). -/
def mulx (a b : Xr) : Xr := if a.isZero || b.isZero then Xr.zero else Xr.mul a b
def xrMin (a b : Xr) : Xr := if Xr.lt b a then b else a
def xrMax (a b : Xr) : Xr := if Xr.lt a b then b else a

-- R200, on nonempty operands
def xaddI (a b : Ivl) : Ivl := ⟨Xr.add .rd a.lo b.lo, Xr.add .ru a.hi b.hi⟩
def xsubI (a b : Ivl) : Ivl := ⟨Xr.sub .rd a.lo b.hi, Xr.sub .ru a.hi b.lo⟩
def xmulI (a b : Ivl) : Ivl :=
  let p := mulx a.lo b.lo
  let q := mulx a.lo b.hi
  let r := mulx a.hi b.lo
  let t := mulx a.hi b.hi
  ⟨xrMin (xrMin p q) (xrMin r t), xrMax (xrMax p q) (xrMax r t)⟩
def xsqrI (a : Ivl) : Ivl :=
  if Xr.le Xr.zero a.lo then ⟨Xr.mul a.lo a.lo, Xr.mul a.hi a.hi⟩
  else if Xr.le a.hi Xr.zero then ⟨Xr.mul a.hi a.hi, Xr.mul a.lo a.lo⟩
  else ⟨Xr.zero, xrMax (Xr.mul a.lo a.lo) (Xr.mul a.hi a.hi)⟩
def xsqrtI (a : Ivl) : Ivl :=
  if Xr.lt a.hi Xr.zero then Ivl.empty else ⟨sqrtOf (xrMax a.lo Xr.zero).abs, sqrtOf a.hi.abs⟩
def xrcpI (a : Ivl) : Ivl :=
  if Xr.le a.lo Xr.zero && Xr.le Xr.zero a.hi then Ivl.all else ⟨rcpX a.hi, rcpX a.lo⟩
def xminI (a b : Ivl) : Ivl := ⟨xrMin a.lo b.lo, xrMin a.hi b.hi⟩
def xmaxI (a b : Ivl) : Ivl := ⟨xrMax a.lo b.lo, xrMax a.hi b.hi⟩
def xabsI (a : Ivl) : Ivl :=
  if Xr.le Xr.zero a.lo then a
  else if Xr.le a.hi Xr.zero then ⟨a.hi.neg, a.lo.neg⟩
  else ⟨Xr.zero, xrMax a.lo.neg a.hi⟩
def xhullI (a b : Ivl) : Ivl :=
  if a.isEmpty then b else if b.isEmpty then a else ⟨xrMin a.lo b.lo, xrMax a.hi b.hi⟩

/-- An empty operand makes the result empty (R73). -/
def ivl2 (f : Ivl → Ivl → Ivl) (a b : Ivl) : Ivl := if a.isEmpty || b.isEmpty then Ivl.empty else f a b
def ivl1 (f : Ivl → Ivl) (a : Ivl) : Ivl := if a.isEmpty then Ivl.empty else f a

/-- An interval instruction of two operands. -/
def interval2 (f : Ivl → Ivl → Ivl) (c : Ctx) (s : State) : Act := do
  let a ← srcD s c .interval c.raw.a
  let b ← srcD s c .interval c.raw.b
  .ok (dstD s c ⟨writeIvl (f (readIvl a.bits) (readIvl b.bits)), a.poison || b.poison⟩)

/-- An interval instruction of one operand. -/
def interval1 (f : Ivl → Ivl) (c : Ctx) (s : State) : Act := do
  let a ← srcD s c .interval c.raw.a
  .ok (dstD s c ⟨writeIvl (f (readIvl a.bits)), a.poison⟩)

/-- An interval instruction that runs on the special-function unit (R197). -/
def intervalSfu (f : Ivl → Ivl) (c : Ctx) (s : State) : Act := do
  let a ← srcD s c .interval c.raw.a
  let r := writeIvl (f (readIvl a.bits))
  postSfu s c [⟨r.lo, a.poison⟩, ⟨r.hi, a.poison⟩]

/-- The containment tests of XCONT (R201): b the scalar of .POINT, i the interval of .SUB and .MEET. -/
def xcontV (m : Nat) (a : Ivl) (b : Xr) (i : Ivl) : Bool :=
  match m with
  | 0 => !a.isEmpty && Xr.le a.lo Xr.zero && Xr.le Xr.zero a.hi
  | 1 => !a.isEmpty && !b.isNan && Xr.le a.lo b && Xr.le b a.hi
  | 2 => a.isEmpty || (!i.isEmpty && Xr.le i.lo a.lo && Xr.le a.hi i.hi)
  | _ => !a.isEmpty && !i.isEmpty && Xr.le (xrMax a.lo i.lo) (xrMin a.hi i.hi)

def actXcont (c : Ctx) (s : State) : Act := do
  let a ← srcD s c .interval c.raw.a
  let m := c.raw.m
  if m = 0 then .ok (dstP s c ⟨xcontV m (readIvl a.bits) .nan Ivl.all, a.poison⟩)
  else if m = 1 then
    let b ← src s c .f32 c.raw.b
    .ok (dstP s c ⟨xcontV m (readIvl a.bits) (f32 b.bits) Ivl.all, a.poison || b.poison⟩)
  else
    let b ← srcD s c .interval c.raw.b
    .ok (dstP s c ⟨xcontV m (readIvl a.bits) .nan (readIvl b.bits), a.poison || b.poison⟩)

/-- XADD (R200). -/
def execXadd (w : TForm) (s : State) : Host.Outcome State Fault Refusal :=
  .next (issue (.xadd w) (interval2 (ivl2 xaddI)) s)

/-- XSUB (R200). -/
def execXsub (w : TForm) (s : State) : Host.Outcome State Fault Refusal :=
  .next (issue (.xsub w) (interval2 (ivl2 xsubI)) s)

/-- XMUL (R200). -/
def execXmul (w : TForm) (s : State) : Host.Outcome State Fault Refusal :=
  .next (issue (.xmul w) (interval2 (ivl2 xmulI)) s)

/-- XSQR (R200). -/
def execXsqr (w : TForm) (s : State) : Host.Outcome State Fault Refusal :=
  .next (issue (.xsqr w) (interval1 (ivl1 xsqrI)) s)

/-- XSQRT (R200). -/
def execXsqrt (w : TForm) (s : State) : Host.Outcome State Fault Refusal :=
  .next (issue (.xsqrt w) (intervalSfu (ivl1 xsqrtI)) s)

/-- XRCP (R200). -/
def execXrcp (w : TForm) (s : State) : Host.Outcome State Fault Refusal :=
  .next (issue (.xrcp w) (intervalSfu (ivl1 xrcpI)) s)

/-- XMIN (R200). -/
def execXmin (w : TForm) (s : State) : Host.Outcome State Fault Refusal :=
  .next (issue (.xmin w) (interval2 (ivl2 xminI)) s)

/-- XMAX (R200). -/
def execXmax (w : TForm) (s : State) : Host.Outcome State Fault Refusal :=
  .next (issue (.xmax w) (interval2 (ivl2 xmaxI)) s)

/-- XABS (R200). -/
def execXabs (w : TForm) (s : State) : Host.Outcome State Fault Refusal :=
  .next (issue (.xabs w) (interval1 (ivl1 xabsI)) s)

/-- XHULL (R200). -/
def execXhull (w : TForm) (s : State) : Host.Outcome State Fault Refusal :=
  .next (issue (.xhull w) (interval2 xhullI) s)

/-- XCONT (R201). -/
def execXcont (w : TForm) (s : State) : Host.Outcome State Fault Refusal :=
  .next (issue (.xcont w) actXcont s)

end Sys2Proof.Machine
end

