-- ==== Sys2Proof/Machine/Scene.lean ====
section
/-! DEFINITION. Scene records as the ray engine reads them (R79 to R99), and its exact geometry (R329, R330, R334). -/

namespace Sys2Proof.Machine

/-- The team for which the acting unit reads: a thread's, or that of a ray slot or pre-pass. -/
def actorTeam (s : State) : Nat :=
  let a := s.order.actor
  if isThread a then keyTeam a else if 2 ^ 61 ≤ a ∧ a < 2 ^ 62 then (a - 2 ^ 61) / 512 else 0

/-- The traffic class for which the acting unit reads (R248). -/
def actorClass (s : State) : Nat := teamClass s (getTeam s (actorTeam s))

/-- A unit's reads of memory in an ASID by an access, for the agent that acts (R256, R327, R383). -/
def portOf (acc : Acc) (asid : Nat) : Port := fun a n => fun s =>
  let t := noteUnit s asid (actorClass s) a .r
  match translate s asid a .r with
  | .error f => (.error (.fault a f), t)
  | .ok p => match readAs t s.order.actor acc (.phys (p.pa a)) n with
    | .ok (v, u) => (.ok v, u)
    | .error f => (.error (.fault a f), t)

/-- A unit's reads of scene memory, and its reads at device scope (R321, R366). -/
def scenePort (asid : Nat) : Port := portOf Acc.read asid
def devicePort (asid : Nat) : Port := portOf { Acc.read with strong := true, scope := 4 } asid

/-- A ray engine's reads of a brick map, its bricks held in the brick store of its core (R245). -/
def sceneBricks (asid : Nat) : BrickPort :=
  { read := scenePort asid, sample := scenePort asid,
    brick := fun a n => fun s => (.ok (), touchBrick s (getTeam s (actorTeam s)).home asid a n) }

/-- A free value's number. -/
def Scan.draw : Scan Nat := fun s => (.ok s.fresh, { s with fresh := s.fresh + 1 })

/-- A word the spec gives no value. -/
def Scan.freeWord : Scan Word := fun s => (.ok (Config.count s.fresh), { s with fresh := s.fresh + 1 })

-- exact vectors

/-- A point or direction with exact coordinates. -/
structure V3 where
  x : Q
  y : Q
  z : Q
  deriving DecidableEq, Repr

def V3.zero : V3 := ⟨Q.zero, Q.zero, Q.zero⟩
def V3.add (a b : V3) : V3 := ⟨a.x.add b.x, a.y.add b.y, a.z.add b.z⟩
def V3.sub (a b : V3) : V3 := ⟨a.x.sub b.x, a.y.sub b.y, a.z.sub b.z⟩
def V3.scale (t : Q) (a : V3) : V3 := ⟨t.mul a.x, t.mul a.y, t.mul a.z⟩
def V3.dot (a b : V3) : Q := ((a.x.mul b.x).add (a.y.mul b.y)).add (a.z.mul b.z)
def V3.cross (a b : V3) : V3 :=
  ⟨(a.y.mul b.z).sub (a.z.mul b.y), (a.z.mul b.x).sub (a.x.mul b.z), (a.x.mul b.y).sub (a.y.mul b.x)⟩
def V3.norm (a : V3) : V3 := ⟨a.x.norm, a.y.norm, a.z.norm⟩
def V3.isZero (a : V3) : Bool := decide (a.x.num = 0 ∧ a.y.num = 0 ∧ a.z.num = 0)
/-- Coordinate 0, 1 or 2. -/
def V3.at (a : V3) (i : Nat) : Q := if i = 0 then a.x else if i = 1 then a.y else a.z

/-- Lexicographic order of points (R329). -/
def V3.before (a b : V3) : Bool :=
  a.x.lt b.x || (a.x.eq b.x && (a.y.lt b.y || (a.y.eq b.y && a.z.lt b.z)))

/-- The exact value of a word of geometry; where it is NaN or infinite, a free number (log entry 18). -/
def Scan.num (w : Word) : Scan Q :=
  match f32 w with
  | .fin s n d => pure ⟨signedNum s n, d⟩
  | .nan => do let i ← Scan.draw; pure ⟨(Config.coord i).1, (Config.coord i).2 + 1⟩
  | .inf _ => do let i ← Scan.draw; pure ⟨(Config.coord i).1, (Config.coord i).2 + 1⟩

/-- The point of three words. -/
def Scan.vec (ws : List Word) : Scan V3 := do
  let x ← Scan.num (wAt ws 0)
  let y ← Scan.num (wAt ws 1)
  let z ← Scan.num (wAt ws 2)
  pure ⟨x, y, z⟩

/-- The sign of d · ((p − o) × (q − o)) (R329, R334). -/
def edgeSign (o d p q : V3) : Int := (V3.dot d (V3.cross (p.sub o) (q.sub o))).sign

-- segments and boxes (R329)

/-- A ray's segment at a level: origin, direction, and [TMIN, TMAX]. -/
structure Seg where
  o : V3
  d : V3
  t0 : Xr
  t1 : Xr

/-- The parameters at which one axis lies within [lo, hi]; none where it never does (R329). -/
def slab (o d : Q) (lo hi : Xr) : Option (Xr × Xr) :=
  if d.num = 0 then (if Xr.le lo o.toXr && Xr.le o.toXr hi then some (.inf true, .inf false) else none)
  else
    let a := Xr.div (Xr.sub .rn lo o.toXr) d.toXr
    let b := Xr.div (Xr.sub .rn hi o.toXr) d.toXr
    if d.num < 0 then some (b, a) else some (a, b)

/-- The entry and the exit t of a box's slabs; none for an empty box and where a zero direction lies outside (R85, R329). -/
def slabs (o d : V3) (lo hi : List Xr) : Option (Xr × Xr) :=
  if (List.range 3).any (fun i => Xr.lt (hi.getD i Xr.zero) (lo.getD i Xr.zero)) then none
  else
    (List.range 3).foldl (fun r i =>
      match r, slab (o.at i) (d.at i) (lo.getD i Xr.zero) (hi.getD i Xr.zero) with
      | some r, some c => some (xrMax r.1 c.1, xrMin r.2 c.2)
      | none, _ => none
      | some _, none => none) (some (.inf true, .inf false))

/-- The entry t of a box that the segment meets (R329). -/
def meetsBox (g : Seg) (lo hi : List Xr) : Option Xr :=
  match slabs g.o g.d lo hi with
  | none => none
  | some (a, b) => if Xr.le (xrMax a g.t0) (xrMin b g.t1) then some a else none

/-- The coordinate of an axis at a parameter, which may be infinite. -/
def coordAt (o d : Q) (t : Xr) : Xr := Xr.add .rn o.toXr (mulx t d.toXr)

/-- KDPLANE (R329): the entry t of child i, by the axis's coordinate against the plane. -/
def meetsPlane (g : Seg) (axis : Nat) (plane : Xr) (i : Nat) : Option Xr :=
  let o := g.o.at axis
  let d := g.d.at axis
  let a := coordAt o d g.t0
  let b := coordAt o d g.t1
  let side (x : Xr) : Bool := if i = 0 then Xr.lt x plane else Xr.le plane x
  if side a then some g.t0
  else if side b then some (Xr.div (Xr.sub .rn plane o.toXr) d.toXr)
  else none

/-- SPHERE (R329): the entry t of the ball's box when the segment meets the ball, decided exactly. -/
def meetsBall (g : Seg) (c : List Xr) (r : Xr) : Option Xr :=
  let box (f : Xr → Xr → Xr) : List Xr := c.map (fun x => f x r)
  let entry : Option Xr := (slabs g.o g.d (box (Xr.sub .rn)) (box (Xr.add .rn))).map (·.1)
  if Xr.lt r Xr.zero then none
  else if r.isInf then some (entry.getD g.t0)
  else if c.any Xr.isInf then none
  else
    let k : V3 := ⟨(c.getD 0 Xr.zero).toQ, (c.getD 1 Xr.zero).toQ, (c.getD 2 Xr.zero).toQ⟩
    let m := g.o.sub k
    let a := V3.dot g.d g.d
    let b := V3.dot g.d m
    let q := (V3.dot m m).sub (r.toQ.mul r.toQ)
    let best : Xr := if a.num = 0 then Xr.zero else xrMin g.t1 (xrMax g.t0 (Q.div b.neg a).toXr)
    let inside : Bool :=
      match best with
      | .fin s n e => let t : Q := ⟨signedNum s n, e⟩; ((a.mul (t.mul t)).add ((Q.ofInt 2).mul (b.mul t))).add q |>.le Q.zero
      | .nan => false
      | .inf _ => decide (a.num = 0) && q.le Q.zero
    if inside then some (entry.getD g.t0) else none

-- node formats (R83, R84)

/-- An entry of the node-format table. -/
structure NodeFmt where
  kind : Nat
  fanout : Nat
  size : Nat
  childOff : Nat
  boundOff : Nat
  stride : Nat
  axisOff : Nat
  flags : Nat
  deriving DecidableEq, Repr

/-- Entry i of a table's words. -/
def nodeFmt (ws : List Word) (i : Nat) : NodeFmt :=
  let e := (ws.drop (8 * i)).take 8
  { kind := fieldAt e 0 1, fanout := fieldAt e 1 1, size := fieldAt e 2 2, childOff := fieldAt e 4 2, boundOff := fieldAt e 6 2,
    stride := fieldAt e 8 2, axisOff := fieldAt e 0xA 2, flags := fieldAt e 0xC 2 }

def NodeFmt.interior (f : NodeFmt) : Bool := decide (1 ≤ f.kind ∧ f.kind ≤ 5)
def NodeFmt.leaf (f : NodeFmt) : Bool := decide (0x10 ≤ f.kind ∧ f.kind ≤ 0x16)
def NodeFmt.nearFirst (f : NodeFmt) : Bool := decide (f.flags % 2 = 1)
def NodeFmt.cullBack (f : NodeFmt) : Bool := decide (f.flags / 2 % 2 = 1)
def NodeFmt.anyHit (f : NodeFmt) : Bool := decide (f.flags / 4 % 2 = 1)

/-- Bytes of test data per child (R84). -/
def testSize (kind : Nat) : Nat := match kind with | 1 => 24 | 2 => 4 | 3 => 16 | 4 => 16 | _ => 8

/-- The limits of R83 and R84 on an entry that is in use. DESIGN CHOICE (log entry 38): the rest of an unused entry (KIND 0x00) is not
looked at. -/
def fmtOk (ws : List Word) (i : Nat) : Bool :=
  let f := nodeFmt ws i
  let e := (ws.drop (8 * i)).take 8
  let last := if f.kind = 2 ∨ f.kind = 3 then 0 else (f.fanout - 1) * f.stride
  if f.kind = 0 then true
  else if f.interior then
    (match f.kind with | 2 => decide (f.fanout = 2) | 3 => decide (f.fanout = 8) | _ => decide (2 ≤ f.fanout ∧ f.fanout ≤ 16)) &&
    decide (f.size % 16 = 0 ∧ 16 ≤ f.size ∧ f.size ≤ 2048 ∧ f.childOff % 8 = 0 ∧ f.boundOff % 4 = 0 ∧ f.stride % 4 = 0 ∧
      (f.kind = 2 ∨ f.kind = 3 → f.stride = 0) ∧ (f.kind ≠ 2 → f.axisOff = 0) ∧ f.flags < 8 ∧ fieldAt e 0xE 18 = 0 ∧
      f.childOff + 8 * f.fanout ≤ f.size ∧ f.boundOff + last + testSize f.kind ≤ f.size ∧ f.axisOff < f.size)
  else
    f.leaf && decide (f.fanout = 0 ∧ f.size = 0 ∧ f.childOff % 8 = 0 ∧ f.boundOff % 4 = 0 ∧ f.stride % 4 = 0 ∧ f.axisOff = 0 ∧
      f.flags < 8 ∧ fieldAt e 0xE 18 = 0)

/-- The scene descriptor's ROOT, and its node-format table, read when the walk starts (R81, R83, R328). -/
def readScene (p : Port) (a : Nat) : Scan (DWord × List Word) := do
  Scan.need a (decide (a % 32 = 0))
  let ws ← p.words a 8
  let nft := fieldAt ws 8 8
  Scan.need a (decide (nft % 128 = 0 ∧ fieldAt ws 0x10 16 = 0))
  let tab ← p.words nft 128
  match (List.range 16).find? (fun i => !fmtOk tab i) with
  | some i => throw (.malformed (nft + 32 * i))
  | none => pure (Word.pair (wAt ws 0) (wAt ws 1), tab)

-- child references (R82)

def refType (r : DWord) : Nat := r.toNat / 2 ^ 60
def refCount (r : DWord) : Nat := r.toNat / 2 ^ 52 % 256
def refAddr (r : DWord) : Nat := r.toNat % 2 ^ 52
/-- The reference to the records of a leaf after its first, of a size. -/
def refRest (r : DWord) (size : Nat) : DWord :=
  BitVec.ofNat 64 (refType r * 2 ^ 60 + (refCount r - 1) * 2 ^ 52 + (refAddr r + size) % 2 ^ 52)

/-- The test of child i of a node (R329): its entry t when it is visited. A NaN in the test data always visits it (R85); DESIGN CHOICE
(log entry 38): also where lo > hi or a radius is negative besides, and its entry t is then TMIN. -/
def childTest (p : Port) (f : NodeFmt) (node : Nat) (g : Seg) (time : Word) (i : Nat) : Scan (Option Xr) := do
  let off := node + f.boundOff + (if f.kind = 2 ∨ f.kind = 3 then 0 else i * f.stride)
  let ws ← p.words off (testSize f.kind / 4)
  let xs := ws.map f32
  let axis ← if f.kind = 2 then p (node + f.axisOff) 1 else pure 0
  Scan.need node (decide (axis < 3))
  if f.kind ≠ 5 ∧ xs.any Xr.isNan = true then pure (some g.t0)
  else
    match f.kind with
    | 1 => pure (meetsBox g (xs.take 3) (xs.drop 3))
    | 2 => pure (meetsPlane g axis (xs.getD 0 Xr.zero) i)
    | 3 =>
      let h := xs.getD 3 Xr.zero
      let lo := (List.range 3).map (fun a => if i / 2 ^ a % 2 = 1 then xs.getD a Xr.zero else Xr.sub .rn (xs.getD a Xr.zero) h)
      let hi := (List.range 3).map (fun a => if i / 2 ^ a % 2 = 1 then Xr.add .rn (xs.getD a Xr.zero) h else xs.getD a Xr.zero)
      if (lo ++ hi).any Xr.isNan then pure (some g.t0) else pure (meetsBox g lo hi)
    | 4 => pure (meetsBall g (xs.take 3) (xs.getD 3 Xr.zero))
    | _ => pure (if (wAt ws 0).toNat ≤ time.toNat ∧ time.toNat ≤ (wAt ws 1).toNat then some g.t0 else none)

-- triangles (R329)

/-- The sign of an edge, a zero decided by the vertices' lexicographic order (R329). -/
def triSide (o d p q : V3) : Int :=
  let s := edgeSign o d p q
  if s ≠ 0 then s else if p.before q then 1 else -1

/-- An exact value as an F32 result of a walk: RN, and F32_FZO of the FPCTL the call captured (R56, R60, R61). -/
def rnF (fp : Word) (q : Q) : Word := outF32 fp .rn q.toXr

/-- The triangle rule: t, the weights of v1 and v2, and whether the front face is met (R329). -/
def meetsTri (fp : Word) (o d v0 v1 v2 : V3) : Option (Word × Word × Word × Bool) :=
  let a := triSide o d v0 v1
  let b := triSide o d v1 v2
  let c := triSide o d v2 v0
  let n := V3.cross (v1.sub v0) (v2.sub v0)
  let dn := V3.dot d n
  if (a = -1 ∧ b = -1 ∧ c = -1) ∨ (a = 1 ∧ b = 1 ∧ c = 1) then
    if dn.num = 0 then none
    else
      let t := Q.div (V3.dot (v0.sub o) n) dn
      let u := Q.div (V3.dot d (V3.cross (v2.sub o) (v0.sub o))) dn
      let v := Q.div (V3.dot d (V3.cross (v0.sub o) (v1.sub o))) dn
      some (rnF fp t, rnF fp u, rnF fp v, decide (a = -1))
  else none

/-- TMIN ≤ t ≤ TMAX (R326). -/
def withinLimits (t tmin tmax : Word) : Bool := Xr.le (f32 tmin) (f32 t) && Xr.le (f32 t) (f32 tmax)

-- instances (R87, R88, R330)

/-- One RN rounding of an exact row product (R330), with F32_FZO (R61). -/
def rowProduct (fp : Word) (m v : List Word) (w : Xr) : Word :=
  let x (i : Nat) : Xr := Xr.mul (f32 (wAt m i)) (f32 (wAt v i))
  outF32 fp .rn (Xr.add .rn (Xr.add .rn (Xr.add .rn (x 0) (x 1)) (x 2)) w)

/-- The ray (origin, direction) in the object space of a transform of twelve words (R330). -/
def transformRay (fp : Word) (m : List Word) (ray : List Word) : List Word :=
  let row (i : Nat) : List Word := (m.drop (4 * i)).take 4
  (List.range 3).map (fun i => rowProduct fp (row i) (ray.take 3) (f32 (wAt (row i) 3))) ++
  (List.range 3).map (fun i =>
    let x (j : Nat) : Xr := Xr.mul (f32 (wAt (row i) j)) (f32 (wAt ray (3 + j)))
    outF32 fp .rn (Xr.add .rn (Xr.add .rn (x 0) (x 1)) (x 2)))

/-- The n motion keys at an address, each 16 words (R88). DESIGN CHOICE (log entry 55): where several TIMEs do not ascend, the record
reported is the later key of the last such pair; R88 names none. -/
def readKeys (p : Port) (a : Nat) : Nat → Scan (List (List Word))
  | 0 => pure []
  | n + 1 => do
    let k ← p.words a 16
    Scan.need a (decide (fieldAt k 4 12 = 0) && !f32Nan (wAt k 0))
    let r ← readKeys p (a + 64) n
    Scan.need (a + 64) (match r with | j :: _ => Xr.lt (f32 (wAt k 0)) (f32 (wAt j 0)) | [] => true)
    pure (k :: r)

/-- pick_key (R88). -/
def pickKey (keys : List (List Word)) (tau : Word) : List Word :=
  ((keys.filter (fun k => Xr.le (f32 (wAt k 0)) (f32 tau))).getLast?).getD (keys.headD [])

/-- The instance record at an address: ROOT, MASK, and the level below it, whose ray is that of the level above transformed
(R87, R330). The keys of an instance that the mask skips are not read. -/
def readInstance (p : Port) (fp : Word) (a : Nat) (ray : List Word) (tau : Word) (mask : Nat) : Scan (Option (DWord × Lvl)) := do
  let ws ← p.words a 32
  let nk := fieldAt ws 0xD 1
  let flags := fieldAt ws 0xE 2
  let keys := fieldAt ws 0x40 8
  Scan.need a (decide (nk ≤ 8 ∧ flags < 4 ∧ keys % 64 = 0 ∧ (nk = 0 → keys = 0) ∧ fieldAt ws 0x4C 52 = 0))
  if Nat.land (fieldAt ws 0xC 1) mask = 0 then pure none
  else do
    let m ← if nk = 0 then pure ((ws.drop 4).take 12) else do
      let ks ← readKeys p keys nk
      pure ((pickKey ks tau).drop 4)
    pure (some (Word.pair (wAt ws 0) (wAt ws 1),
      { addr := a, ray := transformRay fp m ray, noany := decide (flags % 2 = 1), flip := decide (2 ≤ flags),
        callbase := wAt ws 18, inst := wAt ws 2 }))

-- solver meshes (R93 to R99)

/-- A mesh header (R93). -/
structure Mesh where
  addr : Nat
  verts : Nat
  nvert : Nat
  ncell : Nat
  cells : Nat
  adj : Nat
  conna : Nat
  rmt : Nat
  chan : Nat
  nchan : Nat
  btree : DWord
  deriving DecidableEq, Repr

/-- The mesh header at an address (R93). DESIGN CHOICE (log entry 55): a header that is not 16-byte aligned is malformed; R93 states no
alignment for one that MWALK or MLOC names. -/
def readMesh (p : Port) (a : Nat) : Scan Mesh := do
  Scan.need a (decide (a % 16 = 0))
  let ws ← p.words a 32
  let m : Mesh :=
    { addr := a, verts := fieldAt ws 0 8, nvert := fieldAt ws 8 4, ncell := fieldAt ws 0xC 4, cells := fieldAt ws 0x10 8,
      adj := fieldAt ws 0x18 8, conna := fieldAt ws 0x20 8, rmt := fieldAt ws 0x28 8, chan := fieldAt ws 0x30 8,
      nchan := fieldAt ws 0x38 1, btree := Word.pair (wAt ws 22) (wAt ws 23) }
  Scan.need a (decide (m.verts % 4 = 0 ∧ 4 ≤ m.nvert ∧ m.nvert ≤ 2 ^ 31 ∧ 1 ≤ m.ncell ∧ m.ncell ≤ 2 ^ 26 ∧ m.cells % 16 = 0 ∧
    m.adj % 4 = 0 ∧ m.conna % 4 = 0 ∧ m.rmt % 16 = 0 ∧ m.chan % 16 = 0 ∧ m.nchan ≤ 8 ∧ (m.nchan = 0 → m.chan = 0) ∧
    fieldAt ws 0x39 3 = 0 ∧ fieldAt ws 0x3C 4 < 16384 ∧ fieldAt ws 0x60 32 = 0))
  pure m

/-- A cell: its record, its faces as global indices in outward order, its sub-tetrahedra (R97) and its vertices' positions. -/
structure Cell where
  ix : Nat
  addr : Nat
  kind : Nat
  adji : Nat
  tag : Word
  verts : List Nat
  faces : List (List Nat)
  tets : List (List Nat)
  pos : List (Nat × V3)

/-- The faces of the fixed kinds, by local vertex (R95). -/
def kindFaces (kind : Nat) : List (List Nat) :=
  match kind with
  | 0 => [[1, 2, 3], [0, 3, 2], [0, 1, 3], [0, 2, 1]]
  | 1 => [[0, 3, 2, 1], [0, 1, 4], [1, 2, 4], [2, 3, 4], [3, 0, 4]]
  | 2 => [[0, 2, 1], [3, 4, 5], [0, 1, 4, 3], [1, 2, 5, 4], [2, 0, 3, 5]]
  | _ => [[0, 3, 2, 1], [4, 5, 6, 7], [0, 1, 5, 4], [1, 2, 6, 5], [2, 3, 7, 6], [3, 0, 4, 7]]

/-- The vertices of the fixed kinds (R94). -/
def kindVerts (kind : Nat) : Nat := match kind with | 0 => 4 | 1 => 5 | 2 => 6 | _ => 8

/-- The least of a list of numbers. -/
def leastOf : List Nat → Nat
  | [] => 0
  | [a] => a
  | a :: r => min a (leastOf r)

/-- The position of a number in a list. -/
def indexOf (x : Nat) : List Nat → Nat
  | [] => 0
  | a :: r => if a = x then 0 else indexOf x r + 1

/-- The triangles into which a face splits (R96). DESIGN CHOICE (log entry 55): a face of three vertices, of which R96 does not speak, is
taken from its least index on too. -/
def faceTris (q : List Nat) : List (List Nat) :=
  let m := indexOf (leastOf q) q
  let v (k : Nat) : Nat := q.getD ((m + k) % q.length) 0
  (List.range (q.length - 2)).map (fun k => [v 0, v (k + 1), v (k + 2)])

/-- The sub-tetrahedra of a cell (R97). -/
def subTets (kind : Nat) (verts : List Nat) (faces : List (List Nat)) : List (List Nat) :=
  if kind = 0 then [verts]
  else
    let s := leastOf verts
    (faces.filter (fun f => !decide (s ∈ f))).flatMap (fun f => (faceTris f).map (fun t => s :: t))

/-- Reads n words of the connectivity array. -/
def readConn (p : Port) (m : Mesh) (i n : Nat) : Scan (List Nat) := do
  let ws ← p.words (m.conna + 4 * i) n
  pure (ws.map (·.toNat))

/-- The n faces of a POLY cell from entry i of the connectivity array on (R94). -/
def readFaces (p : Port) (m : Mesh) (rec_ : Nat) : Nat → Nat → Scan (List (List Nat))
  | _, 0 => pure []
  | i, n + 1 => do
    let c ← readConn p m i 1
    let k := c.headD 0
    Scan.need rec_ (decide (3 ≤ k ∧ k ≤ 8))
    let f ← readConn p m (i + 1) k
    let r ← readFaces p m rec_ (i + 1 + k) n
    pure (f :: r)

/-- The positions of vertices by global index; one that is not finite makes the mesh's record malformed (R93). -/
def readVerts (p : Port) (m : Mesh) : List Nat → Scan (List (Nat × V3))
  | [] => pure []
  | i :: r => do
    let ws ← p.words (m.verts + 12 * i) 3
    Scan.need m.addr (ws.all (fun w => !(f32 w).isNan && !(f32 w).isInf))
    let rest ← readVerts p m r
    pure ((i, ⟨f32Q (wAt ws 0), f32Q (wAt ws 1), f32Q (wAt ws 2)⟩) :: rest)

/-- The position of a vertex. -/
def posOf (ps : List (Nat × V3)) (i : Nat) : V3 := ((ps.find? (fun e => decide (e.1 = i))).map (·.2)).getD V3.zero
def Cell.at (c : Cell) (i : Nat) : V3 := posOf c.pos i

/-- Six times the volume of a tetrahedron (R95). -/
def tetVolume (a b c d : V3) : Q := V3.dot (b.sub a) (V3.cross (c.sub a) (d.sub a))

/-- The volume of four vertices of a cell. -/
def tetOf (ps : List (Nat × V3)) (t : List Nat) : Q :=
  tetVolume (posOf ps (t.getD 0 0)) (posOf ps (t.getD 1 0)) (posOf ps (t.getD 2 0)) (posOf ps (t.getD 3 0))

/-- Cell i of a mesh (R94 to R97): its indices below NVERT, each sub-tetrahedron of positive orientation. -/
def readCell (p : Port) (m : Mesh) (i : Nat) : Scan Cell := do
  let a := m.cells + 16 * i
  let ws ← p.words a 4
  let kind := fieldAt ws 0 1
  let nf := fieldAt ws 1 1
  let conn := fieldAt ws 4 4
  Scan.need a (decide (kind ≤ 4 ∧ fieldAt ws 2 2 = 0 ∧ (if kind = 4 then 4 ≤ nf ∧ nf ≤ 16 else nf = (kindFaces kind).length)))
  let vf ← if kind = 4 then do
      let fs ← readFaces p m a conn nf
      pure (dedup fs.flatten, fs)
    else do
      let vs ← readConn p m conn (kindVerts kind)
      pure (vs, (kindFaces kind).map (fun f => f.map (fun j => vs.getD j 0)))
  Scan.need a (vf.1.all (fun j => decide (j < m.nvert)))
  let ps ← readVerts p m (dedup vf.1)
  let tets := subTets kind vf.1 vf.2
  Scan.need a (decide (tets ≠ []) && tets.all (fun t => decide (0 < (tetOf ps t).num)))
  pure { ix := i, addr := a, kind := kind, adji := fieldAt ws 8 4, tag := wAt ws 3, verts := vf.1, faces := vf.2, tets := tets, pos := ps }

/-- The triangles of a cell with their face numbers (R96). -/
def Cell.tris (c : Cell) : List (Nat × List Nat) :=
  (List.range c.faces.length).flatMap (fun f => (faceTris (c.faces.getD f [])).map (fun t => (f, t)))

/-- The lowest sub-tetrahedron that holds all the vertices of a triangle. -/
def Cell.tetWith (c : Cell) (tri : List Nat) : Nat :=
  ((List.range c.tets.length).find? (fun j => tri.all (fun v => decide (v ∈ c.tets.getD j [])))).getD 0

-- channels (R99)

/-- A channel descriptor (R99). -/
structure Channel where
  base : Nat
  byCell : Bool
  fmt : Fmt
  comp : Nat
  stride : Nat
  deriving DecidableEq, Repr

/-- Channel n of a mesh (R99). -/
def readChannel (p : Port) (m : Mesh) (n : Nat) : Scan Channel := do
  let a := m.chan + 16 * n
  let ws ← p.words a 4
  let fmt := fieldAt ws 9 1
  let unit := if fmt = 0 then 4 else 2
  let comp := fieldAt ws 0xA 1
  let stride := fieldAt ws 0xC 4
  Scan.need a (decide (fieldAt ws 8 1 ≤ 1 ∧ fmt ≤ 2 ∧ 1 ≤ comp ∧ comp ≤ 4 ∧ fieldAt ws 0xB 1 = 0 ∧ fieldAt ws 0 8 % unit = 0 ∧
    stride % unit = 0 ∧ comp * unit ≤ stride))
  pure { base := fieldAt ws 0 8, byCell := decide (fieldAt ws 8 1 = 1), fmt := if fmt = 0 then .f32 else if fmt = 1 then .f16 else .bf16,
         comp := comp, stride := stride }

/-- Component comp of entry i of a channel, with FZI (R99). -/
def readEntry (p : Port) (ch : Channel) (fp : Word) (comp i : Nat) : Scan Xr := do
  let unit := match ch.fmt with | .f32 => 4 | _ => 2
  let v ← p (ch.base + i * ch.stride + comp * unit) unit
  pure (readFmt ch.fmt (fziOf fp ch.fmt) v)

end Sys2Proof.Machine
end

