-- ==== Sys2Proof/Machine/Raster.lean ====
section
/-! DEFINITION. Raster targets, tile stores, binning and the raster instructions (R358 to R370). -/

namespace Sys2Proof.Machine

/-- A target descriptor (R358). -/
structure Target where
  addr : Nat
  owner : Nat
  ptab : Nat
  pcount : Nat
  tw : Nat
  th : Nat
  stoff : Nat
  cbar : Nat
  cullBack : Bool
  barEn : Bool
  nsrc : Nat
  ends : Nat
  tstat : Nat
  bins : Nat
  binCap : Nat
  deriving DecidableEq, Repr

/-- The words of n bytes at an address, read at once. -/
def wordsAt (p : Port) (a n : Nat) : Scan (List Word) := do
  let v ← p a n
  pure ((List.range (n / 4)).map (fun i => wd (v / 2 ^ (32 * i))))

/-- The descriptor in 16 words, or none for a bad one (R358). -/
def targetOf (a : Nat) (ws : List Word) : Option Target :=
  let f := fieldAt ws
  let bad := decide (a % 64 ≠ 0 ∨ f 0 8 = 0 ∨ f 8 8 % 64 ≠ 0 ∨ f 0x14 2 = 0 ∨ 64 < f 0x14 2 ∨ f 0x16 2 = 0 ∨ 64 < f 0x16 2 ∨
    f 0x18 4 % 16 ≠ 0 ∨ 4 ≤ f 0x1E 1 ∨ f 0x1F 1 ≠ 0 ∨ f 0x20 4 = 0 ∨ 65535 < f 0x20 4 ∨ f 0x28 8 % 4 ≠ 0 ∨ f 0x30 8 % 4 ≠ 0 ∨
    (f 0x38 4 = 0 ∧ f 0x30 8 ≠ 0) ∨ 65535 < f 0x38 4 ∨ f 0x3C 4 ≠ 0)
  if bad then none
  else some { addr := a, owner := f 0 8, ptab := f 8 8, pcount := f 0x10 4, tw := f 0x14 2, th := f 0x16 2, stoff := f 0x18 4,
              cbar := f 0x1C 2, cullBack := decide (f 0x1E 1 % 2 = 1), barEn := decide (f 0x1E 1 / 2 % 2 = 1), nsrc := f 0x20 4,
              ends := f 0x24 4, tstat := f 0x28 8, bins := f 0x30 8, binCap := f 0x38 4 }

/-- Reads a descriptor; a misaligned address names a bad one. -/
def readTarget (p : Port) (a : Nat) : Scan (Option Target) := do
  if a % 64 ≠ 0 then pure none
  else
    let ws ← wordsAt p a 64
    pure (targetOf a ws)

/-- The tile that a team owns of a target (R358). -/
def tileOf (s : State) (t : Team) (d : Target) : Option Nat :=
  if teamPodVa s t = d.owner ∧ t.index.2.2 = 0 ∧ t.index.1 < d.tw ∧ t.index.2.1 < d.th then some (t.index.1 + d.tw * t.index.2.1) else none

/-- The store lies within the team's data area (R363). -/
def storeFits (t : Team) (d : Target) : Bool := decide (d.stoff + 8192 ≤ dataSize t.desc)

/-- How a tile's owner stands (R363). -/
inductive Owner where
  | unplaced
  | resident (team : Nat)
  | retired
  deriving DecidableEq, Repr

/-- The owner of a tile in an ASID; a team held by SAVE stands as one not yet placed. -/
def ownerOf (s : State) (asid : Nat) (d : Target) (tile : Nat) : Owner :=
  match s.grids.find? (fun g => decide (g.va = d.owner ∧ g.asid = asid)) with
  | some g =>
    let x := tile % d.tw
    let y := tile / d.tw
    let n := x + g.dims.1 * y
    if g.dims.1 ≤ x ∨ g.dims.2.1 ≤ y then .unplaced
    else match s.teams.find? (fun e => decide (e.2.grid = g.pod ∧ e.2.linear = n)) with
      | some e => if e.2.hold = .retiring ∨ e.2.killed = true then .retired else .resident e.1
      | none => if n < g.next ∧ s.saved.all (fun t => decide (¬ (t.team.grid = g.pod ∧ t.team.linear = n))) = true then .retired else .unplaced
  | none => match podPhys s asid d.owner with
    | none => .unplaced
    | some pa => if stDone ≤ podStatus s pa then .retired else .unplaced

-- tile status words (R359)

def stClosed : Nat := 2 ^ 31
def stLost : Nat := 2 ^ 30
def stLate : Nat := 2 ^ 29

/-- A tile's status word, as the part finds it at device scope. -/
def tileWord (s : State) (asid : Nat) (d : Target) (tile : Nat) : Except MFault Nat := vreadNow s asid (d.tstat + 4 * tile) 4

/-- What reading a tile's status word leaves, for class k (R246, R262). -/
def noteTile (s : State) (asid k : Nat) (d : Target) (tile : Nat) : State := noteUnit s asid k (d.tstat + 4 * tile) .r

/-- Agent a stores a tile's status word for class k, which the part reads and writes atomically. -/
def setTileWord (s : State) (a asid k : Nat) (d : Target) (tile w : Nat) : Except MFault State :=
  vmerge s a asid k (d.tstat + 4 * tile) (leBytes 4 w)

/-- Sets bits of a tile's status word. -/
def markTile (s : State) (a asid k : Nat) (d : Target) (tile bit : Nat) : Except MFault State :=
  match tileWord s asid d tile with
  | .error f => .error f
  | .ok w => setTileWord s a asid k d tile (w ||| bit)

/-- The traffic class of a target's owner grid (R248). -/
def ownerClass (s : State) (asid : Nat) (d : Target) : Nat :=
  ((s.grids.find? (fun g => decide (g.va = d.owner ∧ g.asid = asid))).map (·.cls)).getD 0

/-- Bit set in a status word. -/
def hasBit (w bit : Nat) : Bool := decide (w / bit % 2 = 1)

-- merging (R361)

/-- True for a fragment that merges: n ≠ 0, and d is no NaN and has its sign clear. -/
def mergeable (d n : Word) : Bool := decide (n ≠ 0) && !f32Nan d && !d.getLsbD 31

/-- merge: the key that an entry (DEPTH, ID) holds after the fragment (d, n) (R361). -/
def mergeKey (depth ident d n : Word) : Word × Word :=
  if mergeable d n = true ∧ (ident = 0 ∨ d.toNat < depth.toNat ∨ (d = depth ∧ n.toNat < ident.toNat)) then (d, n) else (depth, ident)

/-- The offset of entry i of a target's tile store (R361). -/
def entryOff (d : Target) (i : Nat) : Nat := d.stoff + 8 * i

/-- The number in an entry that held v, after a fragment (R361). -/
def mergeWord (depth ident : Word) (v : Nat) : Nat :=
  let k := mergeKey (wd v) (wd (v / 2 ^ 32)) depth ident
  k.1.toNat + 2 ^ 32 * k.2.toNat

/-- Agent a merges a fragment into entry i of a team's store, indivisibly and logged (R361, R436); none where the entry is uncorrectable. -/
def mergeEntry (s : State) (a id : Nat) (d : Target) (i : Nat) (depth ident : Word) (log : LogAt) : Option State :=
  let l : Loc := .scratch id (entryOff d i)
  if !mergeable depth ident then some s
  else if (List.range 8).any (fun j => (byteAt s (l.inPart j)).2) then none
  else
    let s := logAct s 5 log (scratchLoc (getTeam s id) (entryOff d i))
    some (updateAs s a mergeAcc l 8 (fun v => some (mergeWord depth ident v))).2

-- triangles (R360, R362)

/-- A vertex on the screen: exact x and y; z and q, which may be infinite, or q a NaN (R360). -/
structure ScreenVertex where
  x : Q
  y : Q
  z : Xr
  q : Xr
  deriving DecidableEq, Repr

/-- Vertex i of a primitive record (R360). -/
def vertexOf (ws : List Word) (i : Nat) : Scan ScreenVertex := do
  let x ← Scan.num (wAt ws (4 * i))
  let y ← Scan.num (wAt ws (4 * i + 1))
  pure ⟨x, y, f32 (wAt ws (4 * i + 2)), f32 (wAt ws (4 * i + 3))⟩

/-- The vertices of a primitive record. -/
def verticesOf (ws : List Word) : Scan (ScreenVertex × ScreenVertex × ScreenVertex) := do
  let a ← vertexOf ws 0
  let b ← vertexOf ws 1
  let c ← vertexOf ws 2
  pure (a, b, c)

/-- NaN among the coordinates. -/
def nanVertex (ws : List Word) : Bool := (List.range 3).any (fun i => (List.range 3).any (fun j => f32Nan (wAt ws (4 * i + j))))

/-- e(p, q) at the point (cx, cy) (R362). -/
def edgeAt (p q : ScreenVertex) (cx cy : Q) : Q := ((q.x.sub p.x).mul (cy.sub p.y)).sub ((q.y.sub p.y).mul (cx.sub p.x))

/-- The sign an edge counts as (R362). -/
def edgeSide (p q : ScreenVertex) (cx cy : Q) : Int :=
  let e := (edgeAt p q cx cy).sign
  if e ≠ 0 then e else if p.y.lt q.y || (p.y.eq q.y && p.x.lt q.x) then 1 else -1

/-- Twice the signed area. -/
def areaOf (a b c : ScreenVertex) : Q := edgeAt a b c.x c.y

/-- The barycentric weights at a point. -/
def weightsAt (a b c : ScreenVertex) (cx cy : Q) : Q × Q × Q :=
  let area := areaOf a b c
  ((edgeAt b c cx cy).div area, (edgeAt c a cx cy).div area, (edgeAt a b cx cy).div area)

/-- The sum of three products; a weight of 0 times an infinity, and infinities of opposite signs, give NaN (R189). -/
def sum3 (w : Q × Q × Q) (a b c : Xr) : Xr :=
  let m (x : Q) (y : Xr) : Xr := Xr.mul x.toXr y
  match Xr.add .rn (Xr.add .rn (m w.1 a) (m w.2.1 b)) (m w.2.2 c) with
  | .fin s n d => (Q.norm ⟨signedNum s n, d⟩).toXr
  | .inf s => .inf s
  | .nan => .nan

/-- RN of an exact value, as F32; an exact zero is +0. -/
def rnXr (x : Xr) : Word :=
  match x with
  | .fin s n d => rnQ ⟨signedNum s n, d⟩
  | .inf s => toF32 .rn (.inf s)
  | .nan => nanW

/-- The centre coordinate of pixel p of a row or column of tiles: p + 0.5 (R358). -/
def centre (p : Nat) : Q := ⟨2 * p + 1, 2⟩

/-- The depth of the fragment at a pixel centre, if the triangle covers it (R362). -/
def coverDepth (cull : Bool) (a b c : ScreenVertex) (cx cy : Q) : Option Word :=
  let u := edgeSide a b cx cy
  let v := edgeSide b c cx cy
  let w := edgeSide c a cx cy
  if (areaOf a b c).num = 0 then none
  else if (u = 1 ∧ v = 1 ∧ w = 1) ∨ (u = -1 ∧ v = -1 ∧ w = -1 ∧ cull = false) then
    some (rnXr (sum3 (weightsAt a b c cx cy) a.z b.z c.z))
  else none

/-- The pixels of a tile that a record covers, with their depths (R362). -/
def tileFragments (d : Target) (tile : Nat) (vs : ScreenVertex × ScreenVertex × ScreenVertex) : List (Nat × Word) :=
  (List.range 1024).filterMap (fun i =>
    (coverDepth d.cullBack vs.1 vs.2.1 vs.2.2 (centre (32 * (tile % d.tw) + i % 32)) (centre (32 * (tile / d.tw) + i / 32))).map (fun z => (i, z)))

-- delivery (R363)

/-- The merges of a tile's fragments into a resident team's store by a binning unit; a fragment whose entry is uncorrectable is lost. -/
def mergeAll (id : Nat) (d : Target) (ident : Word) : List (Nat × Word) → State → State
  | [], s => s
  | (i, z) :: r, s =>
    let t := getTeam s id
    mergeAll id d ident r ((mergeEntry s rasterAgent id d i z ident { source := 5, core := t.home, asid := t.asid, thread := 0xFFFF }).getD s)

/-- Identifier n joins a tile's bin, or its LOST bit is set (R359, R363). -/
def binAppend (s : State) (asid k : Nat) (d : Target) (tile word : Nat) (ident : Word) : Except MFault State :=
  let n := word % 65536
  if n < d.binCap then
    match vwrite s rasterAgent asid k (d.bins + 4 * (d.binCap * tile + n)) Acc.store (leBytes 4 ident.toNat) with
    | .error f => .error f
    | .ok s1 => setTileWord s1 rasterAgent asid k d tile (word + 1)
  else setTileWord s rasterAgent asid k d tile (word ||| stLost)

/-- n fragments of an identifier join a tile's bin, one by one (R363). -/
def binAll (asid k : Nat) (d : Target) (tile : Nat) (ident : Word) : Nat → State → Except MFault State
  | 0, s => .ok s
  | n + 1, s =>
    match tileWord s asid d tile with
    | .error f => .error f
    | .ok w => match binAppend s asid k d tile w ident with
      | .error f => .error f
      | .ok s1 => binAll asid k d tile ident n s1

/-- Delivers a triangle's fragments for one tile (R363). -/
def deliverTile (s : State) (asid k : Nat) (d : Target) (tile : Nat) (ident : Word) (fs : List (Nat × Word)) : Except MFault State :=
  if fs.isEmpty then .ok s
  else match tileWord s asid d tile with
    | .error f => .error f
    | .ok w =>
      let mark (bit : Nat) : Except MFault State := setTileWord s rasterAgent asid k d tile (w ||| bit)
      if hasBit w stClosed then mark stLate
      else match ownerOf s asid d tile with
        | .retired => mark stLate
        | .unplaced => binAll asid k d tile ident fs.length s
        | .resident id => if storeFits (getTeam s id) d then .ok (mergeAll id d ident fs (noteTile s asid k d tile)) else mark stLost

/-- Delivers a triangle's fragments for the tiles listed. -/
def deliverTiles (asid k : Nat) (d : Target) (ident : Word) (vs : ScreenVertex × ScreenVertex × ScreenVertex) :
    List Nat → State → Except MFault State
  | [], s => .ok s
  | t :: r, s =>
    match deliverTile s asid k d t ident (tileFragments d t vs) with
    | .error f => .error f
    | .ok s1 => deliverTiles asid k d ident vs r s1

/-- A triangle delivered to every tile of its target, or to none where one of them cannot be reached. -/
def deliverTriangle (s : State) (b : BinItem) : Except MFault State :=
  match targetOf b.target b.desc with
  | none => .ok s
  | some d =>
    if nanVertex b.record then .ok s
    else
      let r := (verticesOf b.record).run.run s
      match r.1 with
      | .error _ => .ok r.2
      | .ok vs => deliverTiles b.asid (teamClass r.2 (teamOf r.2 b.thread)) d (wd b.ident) vs (List.range (d.tw * d.th)) r.2

-- ends and closes (R364)

/-- True while a PRIM of the thread has not been delivered. -/
def primsOpen (s : State) (k : Nat) : Bool :=
  s.binq.any (fun e => e.2.any (fun b => decide (b.thread = k))) || s.rasterWaits.any (fun w => w.isEnd && decide (w.thread = k))

/-- ENDS rises by 1 at device scope (R364): the state, and PRIM.END's code (R366). -/
def raiseEnds (s : State) (k asid target : Nat) : State × Nat :=
  match vreadNow s asid (target + 0x24) 4 with
  | .error _ => (s, 3)
  | .ok n => match vmerge s k asid (teamClass s (teamOf s k)) (target + 0x24) (leBytes 4 (n + 1)) with
    | .error _ => (s, 3)
    | .ok s1 => (if (asid, target) ∈ s1.targets then s1 else { s1 with targets := s1.targets ++ [(asid, target)] }, 0)

/-- The PRIM.ENDs of thread k that waited for its PRIMs, once none is open any more; each delivers in order (R364). -/
def settleEnds (k : Nat) : Nat → State → State
  | 0, s => s
  | n + 1, s =>
    if s.binq.any (fun e => e.2.any (fun b => decide (b.thread = k))) then s
    else match s.rasterWaits.find? (fun w => w.isEnd && decide (w.thread = k)) with
      | none => s
      | some w =>
        let r := raiseEnds { s with rasterWaits := s.rasterWaits.erase w } k w.asid w.target
        settleEnds k n (fillResult r.1 k w.tag [⟨wd r.2, false⟩])

/-- What VISR delivers: DEPTH, ID, the status word and 0, with .WAIT after an acquire of the close (R368). A fault delivers poison (R240);
an entry outside the team's data area has no stated value. -/
def visrResult (s : State) (k : Nat) (wait : Bool) (pc : Nat) (d : Target) (tile pixel : Nat) : State × List RVal :=
  let t := teamOf s k
  let id := keyTeam k
  match tileWord s t.asid d tile with
  | .error f => (notePoison s k pc (d.tstat + 4 * tile, .global) f.code, List.replicate 4 RVal.bad)
  | .ok w =>
    let s := noteTile s t.asid (teamClass s t) d tile
    if storeFits t d then
      let s := if wait then acquired (takeFrom s k (.tile id)) k else s
      match readAs s k Acc.read (.scratch id (entryOff d pixel)) 8 with
      | .error f => (notePoison s k pc (entryOff d pixel, .scratch) f.code, List.replicate 4 RVal.bad)
      | .ok (v, s) => (s, [⟨wd v, false⟩, ⟨wd (v / 2 ^ 32), false⟩, ⟨wd w, false⟩, RVal.zero])
    else
      let x := draw s
      let y := draw x.2
      (y.2, [⟨Config.count x.1, false⟩, ⟨Config.count y.1, false⟩, ⟨wd w, false⟩, RVal.zero])

/-- The VISR.WAITs on a tile deliver (R368). -/
def wakeVisr (s : State) (asid : Nat) (d : Target) (tile : Nat) : State :=
  let mine (w : RasterWait) : Bool :=
    !w.isEnd && decide (w.asid = asid ∧ w.target = d.addr) && decide (tileOf s (getTeam s w.team) d = some tile)
  (s.rasterWaits.filter mine).foldl (fun s w =>
    let s := { s with rasterWaits := s.rasterWaits.erase w }
    if (kfind s.threads w.thread).isNone then s
    else
      let r := visrResult s w.thread true w.pc d tile w.pixel
      fillResult r.1 w.thread w.tag r.2) s

/-- True when a tile can close: ENDS ≥ NSRC, its bin replayed, and every fragment routed to it delivered (R364). -/
def tileDone (s : State) (asid : Nat) (d : Target) (tile : Nat) (word : Nat) : Bool :=
  !hasBit word stClosed && decide (d.nsrc ≤ d.ends) &&
    s.binq.all (fun e => e.2.all (fun b => decide (¬ (b.asid = asid ∧ b.target = d.addr)))) &&
    (match ownerOf s asid d tile with | .unplaced => false | .retired => decide (word % 65536 = 0) | .resident _ => decide (word % 65536 = 0))

/-- What closes a team's tile is ordered after every merge into its store, or, closed, after nothing (R364, R384). -/
def afterMerges (s : State) (a : Nat) (done : Bool) : State := { s with order := setView s.order a (if done then [] else [(a, s.order.next)]) }

/-- A close releases every merge into a resident team's store, to VISR.WAIT and to the waits on CBAR (R364, R384). -/
def releaseTile (s : State) (id : Nat) (d : Target) : State :=
  let a := mergesAt (1024 + id)
  let s := giveTo (afterMerges s a false) a (.tile id)
  let t := getTeam s id
  afterMerges (if d.barEn = true ∧ d.cbar < t.desc.bars then agentBar s a id d.cbar 5 t.home 1 0 else s) a true

/-- A tile closes (R364). -/
def closeTile (s : State) (asid target tile : Nat) : State :=
  if ¬ (asid, target) ∈ s.targets then s
  else match ((readTarget (scenePort asid) target).run.run (asAgent s rasterAgent)).1 with
    | .error _ => s
    | .ok none => s
    | .ok (some d) =>
      if d.tw * d.th ≤ tile then s
      else match tileWord s asid d tile with
        | .error _ => s
        | .ok w =>
          if tileDone s asid d tile w && !logBlocked s 1 then
            match setTileWord s rasterAgent asid (ownerClass s asid d) d tile (w ||| stClosed) with
            | .error _ => s
            | .ok s1 =>
              let s2 := match ownerOf s1 asid d tile with
                | .resident id => releaseTile s1 id d
                | .unplaced => s1
                | .retired => s1
              wakeVisr s2 asid d tile
          else s

/-- The resolver replays each identifier of a team's bin for that tile alone (R363); one whose record cannot be read, or is not
valid, covers nothing. -/
def replayBin (id asid : Nat) (d : Target) (tile : Nat) : Nat → Nat → State → State
  | _, 0, s => s
  | j, n + 1, s =>
    let one : Scan (Word × Option (ScreenVertex × ScreenVertex × ScreenVertex)) := do
      let p := scenePort asid
      let ident ← p (d.bins + 4 * (d.binCap * tile + j)) 4
      if ident = 0 ∨ d.pcount < ident then pure (wd ident, none)
      else
        let ws ← wordsAt p (d.ptab + 64 * ident) 64
        if nanVertex ws then pure (wd ident, none)
        else
          let vs ← verticesOf ws
          pure (wd ident, some vs)
    let r := one.run.run (asAgent s rasterAgent)
    let s1 := match r.1 with
      | .error _ => r.2
      | .ok (_, none) => r.2
      | .ok (ident, some vs) => mergeAll id d ident (tileFragments d tile vs) r.2
    replayBin id asid d tile (j + 1) n s1

/-- The bin of a resident team's tile is replayed and emptied (R363). -/
def replayTile (s : State) (team target : Nat) : State :=
  match kfind s.teams team with
  | none => s
  | some t =>
    match ((readTarget (scenePort t.asid) target).run.run (asAgent s rasterAgent)).1 with
    | .error _ => s
    | .ok none => s
    | .ok (some d) =>
      match tileOf s t d with
      | none => s
      | some tile =>
        match ownerOf s t.asid d tile, tileWord s t.asid d tile with
        | .resident id, .ok w =>
          let n := min (w % 65536) d.binCap
          if n = 0 ∨ hasBit w stClosed = true ∨ logBlocked s (min (ringCap s.logRing - 1) (1024 * n)) = true then s
          else
            let s1 := if storeFits t d then replayBin id t.asid d tile 0 n s else s
            match setTileWord s1 rasterAgent t.asid (teamClass s t) d tile ((w - w % 65536) ||| (if storeFits t d then 0 else stLost)) with
            | .error _ => s
            | .ok s2 => s2
        | .unplaced, _ => s
        | .retired, _ => s
        | .resident _, .error _ => s

-- instructions (R365)

/-- The trap of a descriptor or status word that cannot be read (R240, R365). -/
def rasterFault {α : Type} (va : Nat) (f : MFault) : Except Stop α :=
  .error (.trap (if f = .eccu then Trap.eccu else Trap.pfault) f.code (placeOf .global va))

/-- The checks 2 to 4 of VISW, VISR and ATTR (R365): the descriptor, the team's own tile, and the pixel. -/
def ownTile (s : State) (c : Ctx) (va pixel : Nat) : Except Stop (State × Target × Nat) :=
  let t := teamOf s c.k
  let r := (readTarget (scenePort t.asid) va).run.run (asAgent s c.k)
  match r.1 with
  | .error (.fault a f) => rasterFault a f
  | .error (.malformed _) => engErr 0x20
  | .error .overflow => engErr 0x20
  | .ok none => engErr 0x20
  | .ok (some d) => match tileOf s t d with
    | none => engErr 0x20
    | some tile => if 1024 ≤ pixel then engErr 0x04 else .ok (r.2, d, tile)

/-- PRIM.TRI's reads at issue (R366): the code, and what is routed to a unit. -/
def readPrim (asid target ident : Nat) : Scan (Nat × Option (List Word × List Word)) := do
  let p := devicePort asid
  if target % 64 ≠ 0 then pure (2, none)
  else
    let ds ← wordsAt p target 64
    match targetOf target ds with
    | none => pure (2, none)
    | some d =>
      if ident = 0 ∨ d.pcount < ident then pure (1, none)
      else
        let ws ← wordsAt p (d.ptab + 64 * ident) 64
        if fieldAt ws 0x3A 6 ≠ 0 then pure (2, none) else pure (0, some (ds, ws))

/-- PRIM.TRI (R362, R366). -/
def actPrimTri (c : Ctx) (s : State) : Act := do
  let a ← src s c .int c.raw.a
  let b ← srcD s c .n64 c.raw.b
  if a.poison || b.poison then poisonTrap
  else
    let asid := (teamOf s c.k).asid
    let r := (readPrim asid b.bits.toNat a.bits.toNat).run.run (asAgent s c.k)
    let now (s : State) (code : Nat) : Act := .ok (postResult s c.k (dests c 1) (some [⟨wd code, false⟩]) .plain)
    match r.1 with
    | .error _ => now r.2 3
    | .ok (code, none) => now r.2 code
    | .ok (_, some (ds, ws)) =>
      let s := r.2
      let unit := a.bits.toNat % 4
      let item : BinItem := { asid := asid, target := b.bits.toNat, desc := ds, record := ws, ident := a.bits.toNat, thread := c.k, tag := s.fresh }
      let s1 := { postResult s c.k (dests c 1) none .plain with fresh := s.fresh + 1 }
      .ok { s1 with binq := kput s1.binq unit (kget [] s1.binq unit ++ [item]) }

/-- PRIM.END (R364, R366). -/
def actPrimEnd (c : Ctx) (s : State) : Act := do
  let b ← srcD s c .n64 c.raw.b
  if b.poison then poisonTrap
  else
    let asid := (teamOf s c.k).asid
    let va := b.bits.toNat
    let r := (readTarget (devicePort asid) va).run.run (asAgent s c.k)
    let now (s : State) (code : Nat) : Act := .ok (postResult s c.k (dests c 1) (some [⟨wd code, false⟩]) .plain)
    match r.1 with
    | .error _ => now r.2 3
    | .ok none => now r.2 2
    | .ok (some _) =>
      let s := r.2
      if primsOpen s c.k then
        let w : RasterWait := { isEnd := true, thread := c.k, tag := s.fresh, asid := asid, target := va, team := keyTeam c.k, pixel := 0, pc := c.pc.toNat }
        let s1 := { postResult s c.k (dests c 1) none .plain with fresh := s.fresh + 1 }
        .ok { s1 with rasterWaits := s1.rasterWaits ++ [w] }
      else
        let e := raiseEnds s c.k asid va
        now e.1 e.2

/-- VISW (R361, R363, R367). -/
def actVisw (c : Ctx) (s : State) : Act := do
  let a ← src s c .int c.raw.a
  let b ← srcD s c .n64 c.raw.b
  let v ← srcD s c .n64 c.raw.c
  if a.poison || b.poison || v.poison then poisonTrap
  else
    let r ← ownTile s c b.bits.toNat a.bits.toNat
    let s := r.1
    let d := r.2.1
    let tile := r.2.2
    let t := teamOf s c.k
    let at_ := d.tstat + 4 * tile
    let marked (bit : Nat) : Act := match markTile s c.k t.asid (teamClass s t) d tile bit with | .ok s1 => .ok s1 | .error f => rasterFault at_ f
    match tileWord s t.asid d tile with
    | .error f => rasterFault at_ f
    | .ok w =>
      if hasBit w stClosed then marked stLate
      else if !storeFits t d then marked stLost
      else if mergeable v.bits.lo v.bits.hi && logBlocked s 1 then .error .stall
      else match mergeEntry (noteTile s t.asid (teamClass s t) d tile) c.k (keyTeam c.k) d a.bits.toNat v.bits.lo v.bits.hi (logAtThread s c.k) with
        | some s1 => .ok s1
        | none => .error (.trap Trap.eccu 6 (placeOf .scratch (entryOff d a.bits.toNat)))

/-- VISR (R368). -/
def actVisr (c : Ctx) (s : State) : Act := do
  let a ← src s c .int c.raw.a
  let b ← srcD s c .n64 c.raw.b
  if a.poison || b.poison then poisonTrap
  else
    let r ← ownTile s c b.bits.toNat a.bits.toNat
    let s := r.1
    let d := r.2.1
    let tile := r.2.2
    let t := teamOf s c.k
    let wait := match tileWord s t.asid d tile with | .error _ => false | .ok w => decide (c.raw.m = 0) && !hasBit w stClosed
    if wait then
      let x : RasterWait := { isEnd := false, thread := c.k, tag := s.fresh, asid := t.asid, target := d.addr, team := keyTeam c.k, pixel := a.bits.toNat, pc := c.pc.toNat }
      let s1 := { postResult s c.k (dests c 4) none .plain with fresh := s.fresh + 1 }
      .ok { s1 with rasterWaits := s1.rasterWaits ++ [x] }
    else
      let q := visrResult s c.k (decide (c.raw.m = 0)) c.pc.toNat d tile a.bits.toNat
      .ok (postResult q.1 c.k (dests c 4) (some q.2) .plain)

/-- The F32 at an address that need not be aligned. -/
def readAttr (p : Port) (a : Nat) : Scan Xr := do
  let b0 ← p a 1
  let b1 ← p (a + 1) 1
  let b2 ← p (a + 2) 1
  let b3 ← p (a + 3) 1
  pure (f32 (wd (b0 + 256 * b1 + 65536 * b2 + 16777216 * b3)))

/-- The values of ATTR (R369): an attribute and its derivatives at a pixel centre. -/
def attrValues (p : Port) (d : Target) (tile pixel k ident : Nat) : Scan (List Word) := do
  let none_ : List Word := List.replicate 3 nanW
  if ident = 0 ∨ d.pcount < ident then pure none_
  else
    let ws ← wordsAt p (d.ptab + 64 * ident) 64
    let nattr := fieldAt ws 0x38 2
    if nattr ≤ k then pure none_
    else
      let base := fieldAt ws 0x30 8
      let a0 ← readAttr p (base + 4 * k)
      let a1 ← readAttr p (base + 4 * (nattr + k))
      let a2 ← readAttr p (base + 4 * (2 * nattr + k))
      let vs ← verticesOf ws
      let u := vs.1
      let v := vs.2.1
      let w := vs.2.2
      let area := areaOf u v w
      -- a NaN x or y makes each exact value a NaN (R53, R57)
      if area.num = 0 ∨ (List.range 3).any (fun i => f32Nan (wAt ws (4 * i)) || f32Nan (wAt ws (4 * i + 1))) = true then pure none_
      else
        let l := weightsAt u v w (centre (32 * (tile % d.tw) + pixel % 32)) (centre (32 * (tile / d.tw) + pixel / 32))
        -- the gradient of e(p, q) is (−(q.y − p.y), q.x − p.x)
        let lx := ((v.y.sub w.y).div area, (w.y.sub u.y).div area, (u.y.sub v.y).div area)
        let ly := ((w.x.sub v.x).div area, (u.x.sub w.x).div area, (v.x.sub u.x).div area)
        let f (g : Q × Q × Q) : Xr := sum3 g u.q v.q w.q
        let h (g : Q × Q × Q) : Xr := sum3 g (Xr.mul u.q a0) (Xr.mul v.q a1) (Xr.mul w.q a2)
        let pp := f l
        let m := h l
        if pp.isZero then pure none_
        else
          let slope (gx : Q × Q × Q) : Word := rnXr (Xr.div (Xr.sub .rn (Xr.mul (h gx) pp) (Xr.mul m (f gx))) (Xr.mul pp pp))
          pure [rnXr (Xr.div m pp), slope lx, slope ly]

/-- ATTR (R369). -/
def actAttr (c : Ctx) (s : State) : Act := do
  let a ← src s c .int c.raw.a
  let b ← srcD s c .n64 c.raw.b
  let n ← src s c .int c.raw.c
  if a.poison || b.poison || n.poison then poisonTrap
  else
    let r ← ownTile s c b.bits.toNat a.bits.toNat
    let t := teamOf s c.k
    let v := (attrValues (scenePort t.asid) r.2.1 r.2.2 a.bits.toNat (c.raw.e % 256) n.bits.toNat).run.run r.1
    match v.1 with
    | .ok ws => .ok (postResult v.2 c.k (dests c 4) (some ((ws ++ [n.bits]).map (fun w => ⟨w, false⟩))) .plain)
    | .error e =>
      let s1 := match e with
        | .fault va f => notePoison v.2 c.k c.pc.toNat (va, .global) f.code
        | .malformed _ => v.2
        | .overflow => v.2
      .ok (postResult s1 c.k (dests c 4) (some (List.replicate 4 RVal.bad)) .plain)

/-- PRIM.TRI (R366). -/
def execPrimTri (w : XForm) (s : State) : Host.Outcome State Fault Refusal := .next (issue (.primTri w) actPrimTri s)
/-- PRIM.END (R364). -/
def execPrimEnd (w : XForm) (s : State) : Host.Outcome State Fault Refusal := .next (issue (.primEnd w) actPrimEnd s)
/-- VISW (R367). -/
def execVisw (w : XForm) (s : State) : Host.Outcome State Fault Refusal := .next (issue (.visw w) actVisw s)
/-- VISR (R368). -/
def execVisr (w : XForm) (s : State) : Host.Outcome State Fault Refusal := .next (issue (.visr w) actVisr s)
/-- ATTR (R369). -/
def execAttr (w : XForm) (s : State) : Host.Outcome State Fault Refusal := .next (issue (.attr w) actAttr s)

/-- BIN_TRIANGLE: a unit delivers the triangle at the head of its queue, and its PRIM's result (R362, R363, R366). -/
def execBinTriangle (unit : Nat) (s : State) : Host.Outcome State Fault Refusal :=
  .next (match kget [] s.binq unit with
    | [] => s
    | b :: r =>
      if logBlocked s (min (ringCap s.logRing - 1) 1024) then s
      else
        let s0 := { s with binq := kset [] s.binq unit r }
        let done (s : State) (code : Nat) : State :=
          let s := fillResult s b.thread b.tag [⟨wd code, false⟩]
          settleEnds b.thread s.rasterWaits.length s
        match deliverTriangle s0 b with
        | .ok s1 => done s1 0
        | .error _ => done s0 3)

/-- BIN_REPLAY (R363). -/
def execBinReplay (team target : Nat) (s : State) : Host.Outcome State Fault Refusal := .next (replayTile s team target)

/-- TILE_CLOSE (R364). -/
def execTileClose (asid target tile : Nat) (s : State) : Host.Outcome State Fault Refusal := .next (closeTile s asid target tile)

end Sys2Proof.Machine
end

