-- ==== Sys2Proof/Machine/Field.lean ====
section
/-! DEFINITION. The field evaluator (R339 to R346): programs and their checks, and evaluation in interval, affine and point mode. -/

namespace Sys2Proof.Machine

-- programs (R339, R340, R342)

/-- The operation code of a bytecode word. -/
def opcOf (w : Word) : Nat := w.toNat / 2 ^ 26
/-- Its operand K. -/
def opK (w : Word) : Nat := w.toNat % 4096

/-- The constants an operation reads, the entries it pops and the entries it pushes (R342). -/
def opShape (n : Nat) : Nat × Nat × Nat :=
  match n with
  | 0x01 => (1, 0, 1) | 0x02 => (0, 0, 1) | 0x03 => (0, 0, 1) | 0x04 => (0, 0, 1) | 0x05 => (0, 0, 1) | 0x06 => (12, 0, 0)
  | 0x08 => (0, 1, 2) | 0x09 => (0, 2, 2) | 0x0A => (0, 1, 0) | 0x0B => (0, 2, 3) | 0x0C => (0, 3, 3)
  | 0x0D => (0, 2, 1) | 0x0E => (0, 2, 1) | 0x0F => (0, 2, 1) | 0x10 => (0, 2, 1) | 0x11 => (0, 1, 1) | 0x12 => (0, 1, 1)
  | 0x13 => (0, 2, 1) | 0x14 => (0, 2, 1) | 0x15 => (1, 2, 1) | 0x16 => (1, 2, 1) | 0x17 => (0, 1, 1) | 0x18 => (0, 1, 1)
  | 0x19 => (0, 1, 1) | 0x1A => (0, 2, 1) | 0x1B => (0, 3, 1) | 0x1C => (0, 1, 1) | 0x1D => (0, 1, 1) | 0x1E => (1, 1, 1)
  | 0x1F => (2, 1, 1) | 0x20 => (1, 1, 1) | 0x21 => (1, 1, 1) | 0x22 => (0, 3, 1) | 0x23 => (1, 0, 1) | 0x24 => (3, 0, 1)
  | 0x25 => (1, 0, 1) | 0x26 => (2, 0, 1) | 0x27 => (4, 0, 1) | 0x28 => (1, 1, 1) | 0x29 => (0, 1, 1) | 0x2A => (0, 1, 1)
  | 0x2B => (0, 1, 1) | 0x2C => (0, 1, 1) | 0x2D => (2, 0, 1) | 0x2E => (1, 1, 1)
  | _ => (0, 0, 0)

/-- The first offending word of a program, with the stack depths before it and the depth of the point stack; none for a program
that R340 allows. -/
def badWord (nconst : Nat) : List Word → Nat → Nat → Nat → Option Nat
  | [], i, _, _ => some (i - 1)
  | w :: r, i, depth, pts =>
    let n := opcOf w
    let (c, pop, push) := opShape n
    let pts1 := if n = 6 then pts + 1 else pts
    if 0x30 ≤ n ∨ w.toNat / 4096 % 2 ^ 14 ≠ 0 then some i
    else if (if c = 0 then opK w ≠ 0 ∧ n ≠ 0x2F else nconst < opK w + c) then some i
    else if depth < pop ∨ 32 < depth - pop + push then some i
    else if 8 < pts1 ∨ (n = 7 ∧ pts = 0) then some i
    else if n = 0 then (if depth = 1 then none else some i)
    else badWord nconst r (i + 1) (depth - pop + push) (if n = 7 then pts - 1 else pts1)

/-- The words of a program from an address, to END or for n words (R340). -/
def readProgram (p : Port) : Nat → Nat → Scan (List Word)
  | _, 0 => pure []
  | a, n + 1 => do
    let w ← p a 4
    if opcOf (wd w) = 0 then pure [wd w] else do
      let r ← readProgram p (a + 4) n
      pure (wd w :: r)

/-- A program's words to END. -/
def toEnd : List Word → List Word
  | [] => []
  | w :: r => if opcOf w = 0 then [w] else w :: toEnd r

/-- A checked program with its constants (R340): code at an address, and nconst constants. -/
def checkProg (p : Port) (code : List Word) (at_ nconst const : Nat) : Scan (List Word × List Word) := do
  match badWord nconst code 0 0 0 with
  | some i => throw (.malformed (at_ + 4 * i))
  | none => do
    let pool ← p.words const nconst
    pure (code, pool)

/-- A field node (R92). -/
structure FieldNode where
  addr : Nat
  box : List Word
  opaq : Bool
  nconst : Nat
  codelen : Nat
  code : Nat
  const : Nat
  callid : Word
  userLo : Word
  userHi : Word
  deriving DecidableEq, Repr

/-- The field node at an address (R92), which is 16-byte aligned however it is named (DEDUCED: R92 says so of the node, a leaf's address
or not; log entry 36). -/
def readNode (p : Port) (a : Nat) : Scan FieldNode := do
  Scan.need a (decide (a % 16 = 0))
  let ws ← p.words a 16
  let kind := fieldAt ws 0x18 1
  let flags := fieldAt ws 0x19 1
  let nc := fieldAt ws 0x1A 2
  let len := fieldAt ws 0x1C 4
  let code := fieldAt ws 0x20 8
  let const := fieldAt ws 0x28 8
  Scan.need a (decide (kind ≤ 1 ∧ flags < 2 ∧ nc ≤ 4096 ∧ const % 4 = 0 ∧ (nc = 0 → const = 0) ∧ fieldAt ws 0x34 4 = 0 ∧
    (if kind = 0 then 1 ≤ len ∧ len ≤ 4096 ∧ code % 4 = 0 else len = 0 ∧ code = 0)))
  pure { addr := a, box := ws.take 6, opaq := decide (kind = 1 ∨ flags = 1), nconst := nc, codelen := len, code := code, const := const,
         callid := wAt ws 12, userLo := wAt ws 14, userHi := wAt ws 15 }

-- the modes

/-- What a mode makes of the operations (R342 to R346). -/
structure FieldOps (α : Type) where
  const : Word → α
  add : α → α → α
  sub : α → α → α
  mul : α → α → α
  div : α → α → α
  neg : α → α
  abs : α → α
  min : α → α → α
  max : α → α → α
  smin : Word → α → α → α
  smax : Word → α → α → α
  sqr : α → α
  sqrt : α → α
  rcp : α → α
  sin : α → α
  cos : α → α
  exp2 : α → α
  log2 : α → α
  floor : α → α
  stepf : α → α
  modulo : Word → α → α
  cmul : Word → α → α
  row : List Word → List α → α
  lip : Word → α → α
  brick : Nat → List α → Scan α

/-- What an evaluation gives: its result with the operands of each MIN, MAX, SMIN and SMAX by word number, or the K of the CALL it
met (R346). -/
inductive Eval (α : Type) where
  | value (r : α) (trace : List (Nat × α × α))
  | call (k : Word)

namespace FieldOps

variable {α : Type} (m : FieldOps α)

/-- LEN2 and LEN3 (R342). -/
def len2 (a b : α) : α := m.sqrt (m.add (m.sqr a) (m.sqr b))
def len3 (a b c : α) : α := m.sqrt (m.add (m.add (m.sqr a) (m.sqr b)) (m.sqr c))

/-- The operations that push one entry made from the stack's top entries (top first), the point and constants; none for the rest. -/
def result (d : α) (n : Nat) (c : Nat → Word) (pt : α) (p : List α) (st : List α) : α :=
  let z := m.const 0
  let k (i : Nat) : α := m.const (c i)
  let q (i : Nat) : α := p.getD i d
  let a := st.getD 0 d
  let b := st.getD 1 d
  let e := st.getD 2 d
  match n with
  | 0x01 => k 0
  | 0x02 => q 0 | 0x03 => q 1 | 0x04 => q 2
  | 0x05 => pt
  | 0x0D => m.add b a | 0x0E => m.sub b a | 0x0F => m.mul b a | 0x10 => m.div b a
  | 0x11 => m.neg a | 0x12 => m.abs a | 0x13 => m.min b a | 0x14 => m.max b a
  | 0x15 => m.smin (c 0) b a | 0x16 => m.smax (c 0) b a
  | 0x17 => m.sqr a | 0x18 => m.sqrt a | 0x19 => m.rcp a
  | 0x1A => m.len2 b a | 0x1B => m.len3 e b a
  | 0x1C => m.sin a | 0x1D => m.cos a | 0x1E => m.modulo (c 0) a
  | 0x1F => m.min (m.max a (k 0)) (k 1)
  | 0x20 => m.add a (k 0) | 0x21 => m.cmul (c 0) a
  | 0x22 => m.add e (m.mul (m.sub b e) a)
  | 0x23 => m.sub (m.len3 (q 0) (q 1) (q 2)) (k 0)
  | 0x24 =>
    let x := m.sub (m.abs (q 0)) (k 0)
    let y := m.sub (m.abs (q 1)) (k 1)
    let w := m.sub (m.abs (q 2)) (k 2)
    m.add (m.len3 (m.max x z) (m.max y z) (m.max w z)) (m.min (m.max (m.max x y) w) z)
  | 0x25 => m.sub (m.len2 (q 0) (q 1)) (k 0)
  | 0x26 => m.sub (m.len2 (m.sub (m.len2 (q 0) (q 1)) (k 0)) (q 2)) (k 1)
  | 0x27 => m.add (m.add (m.add (m.mul (k 0) (q 0)) (m.mul (k 1) (q 1))) (m.mul (k 2) (q 2))) (k 3)
  | 0x28 => m.sub (m.abs a) (k 0)
  | 0x29 => m.exp2 a | 0x2A => m.log2 a | 0x2B => m.floor a | 0x2C => m.stepf a
  | 0x2E => m.lip (c 0) a
  | _ => a

/-- The evaluation of a checked program (R341, R342): value stack (top first), saved points, point, and the trace so far. -/
def eval (d : α) (pool : List Word) (pt : α) (calls : Bool) :
    List Word → Nat → List α → List (List α) → List α → List (Nat × α × α) → Scan (Eval α)
  | [], _, st, _, _, tr => pure (.value (st.headD d) tr)
  | w :: r, i, st, ps, p, tr =>
    let n := opcOf w
    let c (j : Nat) : Word := wAt pool (opK w + j)
    let a := st.headD d
    let b := st.getD 1 d
    let e := st.getD 2 d
    match n with
    | 0x00 => pure (.value a tr)
    | 0x06 => eval d pool pt calls r (i + 1) st (p :: ps)
        ((List.range 3).map (fun j => m.row [c (4 * j), c (4 * j + 1), c (4 * j + 2), c (4 * j + 3)] p)) tr
    | 0x07 => eval d pool pt calls r (i + 1) st ps.tail (ps.headD p) tr
    | 0x08 => eval d pool pt calls r (i + 1) (a :: st) ps p tr
    | 0x09 => eval d pool pt calls r (i + 1) (b :: a :: st.drop 2) ps p tr
    | 0x0A => eval d pool pt calls r (i + 1) st.tail ps p tr
    | 0x0B => eval d pool pt calls r (i + 1) (b :: st) ps p tr
    | 0x0C => eval d pool pt calls r (i + 1) (e :: a :: b :: st.drop 3) ps p tr
    | 0x2D => do
      let v ← m.brick ((c 0).toNat + (c 1).toNat * 2 ^ 32) p
      eval d pool pt calls r (i + 1) (v :: st) ps p tr
    | 0x2F => if calls then pure (.call (wd (opK w))) else eval d pool pt calls r (i + 1) st ps p tr
    | _ =>
      let tr1 := if 0x13 ≤ n ∧ n ≤ 0x16 then (i, b, a) :: tr else tr
      eval d pool pt calls r (i + 1) (m.result d n c pt p st :: st.drop (opShape n).2.1) ps p tr1

end FieldOps

-- interval mode (R343)

/-- A computed value rounded one way, in units of 2^(e − 200) (log entry 9). -/
def decideDir (r : Rm) (x e : Int) : Xr := f32 (toF32 r (fixXr x e))

/-- SIN or COS of a finite value, rounded one way. -/
def sinDir (r : Rm) (cosine : Bool) (x : Xr) : Xr :=
  match x with
  | .fin s n d =>
    if n = 0 then (if cosine then .fin false 1 1 else .fin false 0 1)
    else if n * 2 ^ 13 < d then
      f32 (toF32 r (if cosine then .fin false (2 ^ 30 - 1) (2 ^ 30) else .fin s (n * (2 ^ 30 - 1)) (d * 2 ^ 30)))
    else
      let q := reduceTurn s n d
      let k := if cosine then q.1 + 1 else q.1
      let v := if k % 2 = 0 then sinFix q.2 else cosFix q.2
      decideDir r (if k % 4 < 2 then v else -v) 0
  | .nan => .nan
  | .inf _ => .nan

/-- floor(x / (π/2)) of a finite value. -/
def quarterFloor (s : Bool) (n d : Nat) : Int :=
  let q := reduceTurn s n d
  if q.2 < 0 then q.1 - 1 else q.1

/-- A multiple of π/2 whose number is r modulo 4 lies between two finite values; zero itself is left to the values' own images. -/
def hasQuarter (lo hi : Xr) (r : Int) : Bool :=
  match lo, hi with
  | .fin s n d, .fin t k e => decide ((quarterFloor s n d - r) / 4 < (quarterFloor t k e - r) / 4)
  | .nan, _ => true
  | .inf _, _ => true
  | .fin _ _ _, .nan => true
  | .fin _ _ _, .inf _ => true

/-- SIN and COS over an interval (R342). -/
def sinI (cosine : Bool) (a : Ivl) : Ivl :=
  let one (s : Bool) : Xr := .fin s 1 1
  if a.lo.isInf || a.hi.isInf then ⟨one true, one false⟩
  else
    ⟨if hasQuarter a.lo a.hi (if cosine then 2 else 3) then one true else xrMin (sinDir .rd cosine a.lo) (sinDir .rd cosine a.hi),
     if hasQuarter a.lo a.hi (if cosine then 0 else 1) then one false else xrMax (sinDir .ru cosine a.lo) (sinDir .ru cosine a.hi)⟩

/-- 2^x rounded one way (R342). -/
def exp2Dir (r : Rm) (x : Xr) : Xr :=
  match x with
  | .nan => .nan
  | .inf s => if s then Xr.zero else .inf false
  | .fin s n d =>
    let i := signedNum s n / (d : Int)
    if 128 ≤ i then f32 (toF32 r (scaleTwo false 1 128))
    else if i < -160 then f32 (toF32 r (scaleTwo false 1 (-160)))
    else
      let f := toFix false (signedNum s n - i * d).toNat d
      if f = 0 then f32 (toF32 r (scaleTwo false 1 i)) else decideDir r (expFix (mulFix f ln2Fix)) i

/-- log2 of a positive value rounded one way (R342). -/
def log2Dir (r : Rm) (x : Xr) : Xr :=
  match x with
  | .nan => .nan
  | .inf s => if s then .nan else .inf false
  | .fin s n d =>
    if n = 0 ∨ s = true then .inf true
    else
      let e := floorLog2 n d
      let m := if 0 ≤ e then toFix false n (d * 2 ^ e.toNat) else toFix false (n * 2 ^ (-e).toNat) d
      if m = 2 ^ fixBits then Xr.ofInt e
      else decideDir r (e * 2 ^ fixBits + lnFix m * 2 ^ fixBits / (ln2Fix : Int)) 0

/-- LOG2 over an interval (R342). -/
def log2I (a : Ivl) : Ivl :=
  if Xr.lt a.hi Xr.zero then Ivl.empty
  else ⟨if Xr.le a.lo Xr.zero then .inf true else log2Dir .rd a.lo, if Xr.eq a.hi Xr.zero then .inf true else log2Dir .ru a.hi⟩

/-- A positive finite value. -/
def isPos (x : Xr) : Bool := match x with | .fin s n _ => !s && decide (n ≠ 0) | .nan => false | .inf _ => false

/-- sm of R343; with an infinite argument it is the lesser. -/
def smX (r : Xr) (x y : Xr) : Xr :=
  if x.isInf || y.isInf then xrMin x y
  else
    let q := r.toQ
    let d := x.toQ.sub y.toQ
    let h := Q.div (Q.max (q.sub ⟨d.num.natAbs, d.den⟩) Q.zero) q
    ((Q.min x.toQ y.toQ).sub (Q.div (q.mul (h.mul h)) (Q.ofInt 4))).toXr

/-- SMIN over intervals (R343). -/
def sminI (r : Xr) (a b : Ivl) : Ivl := if isPos r then ⟨smX r a.lo b.lo, smX r a.hi b.hi⟩ else xminI a b

/-- floor(a / p + ½) (R343). -/
def modFloor (p x : Xr) : Option Int :=
  match x with | .fin s n d => some (((Q.div ⟨signedNum s n, d⟩ p.toQ).add ⟨1, 2⟩).floor) | .nan => none | .inf _ => none

/-- MOD over an interval (R343). -/
def modI (p : Xr) (a : Ivl) : Ivl :=
  if isPos p = false then Ivl.all
  else
    match modFloor p a.lo, modFloor p a.hi with
    | some n0, some n1 =>
      if n0 = n1 then ⟨(a.lo.toQ.sub ((Q.ofInt n0).mul p.toQ)).toXr, (a.hi.toQ.sub ((Q.ofInt n0).mul p.toQ)).toXr⟩
      else ⟨(Q.div p.toQ (Q.ofInt (-2))).toXr, (Q.div p.toQ (Q.ofInt 2)).toXr⟩
    | none, _ => ⟨(Q.div p.toQ (Q.ofInt (-2))).toXr, (Q.div p.toQ (Q.ofInt 2)).toXr⟩
    | some _, none => ⟨(Q.div p.toQ (Q.ofInt (-2))).toXr, (Q.div p.toQ (Q.ofInt 2)).toXr⟩

/-- DIV over intervals (R342); an end quotient ∞/∞ is no number, and its bound is unbounded (R199). -/
def divI (a b : Ivl) : Ivl :=
  if Xr.le b.lo Xr.zero && Xr.le Xr.zero b.hi then Ivl.all
  else
    let qs := [Xr.div a.lo b.lo, Xr.div a.lo b.hi, Xr.div a.hi b.lo, Xr.div a.hi b.hi]
    if qs.any Xr.isNan then Ivl.all
    else ⟨qs.foldl xrMin (qs.getD 0 Xr.zero), qs.foldl xrMax (qs.getD 0 Xr.zero)⟩

def negI (a : Ivl) : Ivl := ⟨a.hi.neg, a.lo.neg⟩
/-- STEP of one value (R342). -/
def stepX (x : Xr) : Xr := if Xr.lt x Xr.zero then Xr.zero else .fin false 1 1

/-- An interval operation on entries, an empty operand giving an empty result (R343). -/
def iv1 (f : Ivl → Ivl) (a : DWord) : DWord := writeIvl (ivl1 f (readIvl a))
def iv2 (f : Ivl → Ivl → Ivl) (a b : DWord) : DWord := writeIvl (ivl2 f (readIvl a) (readIvl b))
/-- [c, c]. -/
def ivConst (w : Word) : DWord := writeIvl ⟨f32 w, f32 w⟩

/-- The samples of one trilinear cell, or the value of the empty region that holds it (R345). -/
def cellSamples (p : BrickPort) (h : BrickMap) (fp : Word) (c : List Nat) : Scan (List Xr) := do
  let b := c.map (· / 7)
  let w ← p.read (h.map + 4 * (b.getD 0 0 + h.size.getD 0 0 * (b.getD 1 0 + h.size.getD 1 0 * b.getD 2 0))) 4
  let state := w / 2 ^ 30
  Scan.need h.addr (decide (state ≠ 3 ∧ (state ≠ 2 → w % 2 ^ 30 = 0)))
  if state = 0 then pure [f32 h.dclamp]
  else if state = 1 then pure [(f32 h.dclamp).neg]
  else do
    let base := h.pool + w % 2 ^ 30 * h.brickSize
    p.brick base h.brickSize
    readCorners p.sample h (sampleExact h fp) base (c.map (· % 7)) [0, 1, 2, 3, 4, 5, 6, 7]

/-- The samples of a list of cells. -/
def cellsSamples (p : BrickPort) (h : BrickMap) (fp : Word) : List (List Nat) → Scan (List Xr)
  | [] => pure []
  | c :: r => do
    let a ← cellSamples p h fp c
    let b ← cellsSamples p h fp r
    pure (a ++ b)

/-- The first and last cell of an axis that a range touches; none where it lies beside the map. -/
def cellRange (n : Nat) (a : Ivl) : Option (Nat × Nat) :=
  let top : Int := 7 * (n : Int)
  let lo : Int := match a.lo with | .fin s k d => max 0 (-((-(signedNum s k)) / (d : Int)) - 1) | .nan => 0 | .inf s => if s then 0 else top
  let hi : Int := match a.hi with | .fin s k d => min (top - 1) (signedNum s k / (d : Int)) | .nan => top - 1 | .inf s => if s then -1 else top - 1
  if lo ≤ hi then some (lo.toNat, hi.toNat) else none

/-- The numbers a to b. -/
def upTo (a b : Nat) : List Nat := (List.range (b + 1 - a)).map (· + a)

/-- BRICK over a box (R345). Its header needs no alignment of its own (DESIGN CHOICE: R345 states none; log entry 35). -/
def brickI (p : BrickPort) (fp : Word) (a : Nat) (box : List Ivl) : Scan Ivl := do
  let h ← readBrickMap p.read a
  if box.any Ivl.isEmpty then pure Ivl.empty
  else
    let g : List Ivl := (List.range 3).map (fun k =>
      let o := f32 (h.origin.getD k 0)
      let q (x : Xr) : Xr := Xr.div (Xr.sub .rn x o) (f32 h.voxel)
      let b := box.getD k Ivl.all
      ⟨q b.lo, q b.hi⟩)
    let outside := (List.range 3).any (fun k =>
      let x := g.getD k Ivl.all
      let top := Xr.ofInt (7 * (h.size.getD k 0 : Int))
      x.lo.isNan || x.hi.isNan || Xr.lt x.lo Xr.zero || Xr.le top x.hi)
    let flat : List Xr := if outside then [f32 h.dclamp] else []
    match cellRange (h.size.getD 0 0) (g.getD 0 Ivl.all), cellRange (h.size.getD 1 0) (g.getD 1 Ivl.all), cellRange (h.size.getD 2 0) (g.getD 2 Ivl.all) with
    | some x, some y, some z =>
      if 512 < (x.2 + 1 - x.1) * (y.2 + 1 - y.1) * (z.2 + 1 - z.1) then
        let b := xrMax (f32 h.dclamp) (if h.s8 then f32 h.dscale else .fin false 65504 1)
        pure ⟨b.neg, b⟩
      else do
        let s ← cellsSamples p h fp ((upTo z.1 z.2).flatMap (fun k => (upTo y.1 y.2).flatMap (fun j => (upTo x.1 x.2).map (fun i => [i, j, k]))))
        let v := s ++ flat
        if v.any Xr.isNan then pure Ivl.all
        else pure ⟨v.foldl xrMin (v.headD Xr.zero), v.foldl xrMax (v.headD Xr.zero)⟩
    | none, _, _ => pure ⟨f32 h.dclamp, f32 h.dclamp⟩
    | some _, none, _ => pure ⟨f32 h.dclamp, f32 h.dclamp⟩
    | some _, some _, none => pure ⟨f32 h.dclamp, f32 h.dclamp⟩

/-- The one FPCTL bit that the evaluator honours, F16_FZI in BRICK (R341). -/
def brickFp (fp : Word) : Word := fp &&& 4#32

/-- Interval mode (R342, R343). -/
def intervalOps (p : BrickPort) (fp : Word) : FieldOps DWord :=
  let mulc (w : Word) (a : DWord) : DWord := iv2 xmulI a (ivConst w)
  { const := ivConst, add := iv2 xaddI, sub := iv2 xsubI, mul := iv2 xmulI, div := iv2 divI, neg := iv1 negI, abs := iv1 xabsI,
    min := iv2 xminI, max := iv2 xmaxI, smin := fun r => iv2 (sminI (f32 r)),
    smax := fun r a b => iv1 negI (iv2 (sminI (f32 r)) (iv1 negI a) (iv1 negI b)), sqr := iv1 xsqrI, sqrt := iv1 xsqrtI,
    rcp := iv1 xrcpI, sin := iv1 (sinI false), cos := iv1 (sinI true), exp2 := iv1 (fun a => ⟨exp2Dir .rd a.lo, exp2Dir .ru a.hi⟩),
    log2 := iv1 log2I, floor := iv1 (fun a => ⟨frndX .rd a.lo, frndX .rd a.hi⟩), stepf := iv1 (fun a => ⟨stepX a.lo, stepX a.hi⟩),
    modulo := fun w => iv1 (modI (f32 w)), cmul := mulc,
    row := fun c v =>
      let x (i : Nat) : DWord := iv2 xmulI (ivConst (wAt c i)) (v.getD i 0)
      iv2 xaddI (iv2 xaddI (iv2 xaddI (x 0) (x 1)) (x 2)) (ivConst (wAt c 3)),
    lip := fun _ a => a,
    brick := fun a v => do let r ← brickI p (brickFp fp) a (v.map readIvl); pure (writeIvl r) }

-- point mode (R344)

/-- round_to(F32, ·, RN). -/
def pt1 (f : Xr → Xr) (a : Word) : Word := toF32 .rn (f (f32 a))
def pt2 (f : Xr → Xr → Xr) (a b : Word) : Word := toF32 .rn (f (f32 a) (f32 b))

/-- What sm takes away from the lesser of two numbers: r·h²/4 (R343); nothing beside an infinite one. -/
def smDrop (r x y : Xr) : Xr :=
  if x.isInf || y.isInf then Xr.zero
  else
    let q := r.toQ
    let d := x.toQ.sub y.toQ
    let h := Q.div (Q.max (q.sub ⟨d.num.natAbs, d.den⟩) Q.zero) q
    (Q.div (q.mul (h.mul h)) (Q.ofInt 4)).toXr

/-- SMIN of points: MIN's rules for a NaN and for zeros, and the difference's sign of zero (R189, R191, R343). -/
def smPoint (r : Xr) (x y : Xr) : Xr := if isPos r && !x.isNan && !y.isNan then Xr.sub .rn (fminX x y) (smDrop r x y) else fminX x y

/-- MOD of a point: a − p·floor(a/p + ½) by the exact arithmetic of R189. -/
def modPoint (p x : Xr) : Xr :=
  Xr.sub .rn x (Xr.mul p (frndX .rd (Xr.add .rn (Xr.div x p) (.fin false 1 2))))

/-- Point mode (R344): XF is no expansion (R342), so each of its three results is rounded once. -/
def pointOps (p : BrickPort) (fp : Word) : FieldOps Word :=
  { const := pt1 id, add := pt2 (Xr.add .rn), sub := pt2 (Xr.sub .rn), mul := pt2 Xr.mul, div := pt2 Xr.div, neg := pt1 Xr.neg,
    abs := pt1 Xr.abs, min := pt2 fminX, max := pt2 fmaxX, smin := fun r => pt2 (smPoint (f32 r)),
    smax := fun r a b => pt1 Xr.neg (pt2 (smPoint (f32 r)) (pt1 Xr.neg a) (pt1 Xr.neg b)), sqr := pt1 (fun x => Xr.mul x x),
    sqrt := pt1 sqrtOf, rcp := pt1 rcpX, sin := fun a => sinW false (f32 a), cos := fun a => cosW false (f32 a),
    exp2 := fun a => exp2W false (f32 a), log2 := fun a => log2W false (f32 a), floor := pt1 (frndX .rd),
    stepf := pt1 (fun x => if x.isNan then .nan else stepX x), modulo := fun w => pt1 (modPoint (f32 w)), cmul := fun w a => pt2 Xr.mul a w,
    row := fun c v =>
      let x (i : Nat) : Xr := Xr.mul (f32 (wAt c i)) (f32 (v.getD i 0))
      toF32 .rn (Xr.add .rn (Xr.add .rn (Xr.add .rn (x 0) (x 1)) (x 2)) (f32 (wAt c 3))),
    lip := fun _ a => a,
    brick := fun a v => do let r ← brickValue p a (brickFp fp) (v.map f32); pure (r.headD nanW) }

-- affine mode (R344)

/-- An affine form (R74), with the empty marker. -/
structure Aff where
  c : Word
  s : Word
  e : Word
  empty : Bool
  deriving DecidableEq, Repr

def Aff.zero : Aff := ⟨0, 0, 0, false⟩

/-- The interval of a form (R74, R344). -/
def Aff.ivl (a : Aff) : Ivl :=
  let c := f32 a.c
  let s := (f32 a.s).abs
  let e := f32 a.e
  if a.empty then Ivl.empty
  else if c.isNan || s.isNan || e.isNan || e.isInf then Ivl.all
  else readIvl (writeIvl ⟨Xr.sub .rd (Xr.sub .rd c s) e, Xr.add .ru (Xr.add .ru c s) e⟩)

/-- err (R344): half an ulp of a rounded value, ±∞ counting as infinite. -/
def errX (w : Word) : Xr :=
  match f32 w with
  | .fin _ n _ => if n = 0 then scaleTwo false 1 (-150) else (Q.div (ulpQ w) (Q.ofInt 2)).toXr
  | .inf _ => .inf false
  | .nan => .nan

/-- A sum of exact terms, rounded by RU at each addition, as F32 (R344). -/
def sumErr : List Xr → Word
  | [] => 0
  | [x] => toF32 .ru x
  | x :: y :: r => r.foldl (fun w z => toF32 .ru (Xr.add .ru (f32 w) z)) (toF32 .ru (Xr.add .ru x y))

/-- linear (R344): an exact combination of forms with coefficients, and a constant. -/
def affLinear (terms : List (Xr × Aff)) (k : Xr) : Aff :=
  let comb (f : Aff → Word) (z : Xr) : Word := toF32 .rn (terms.foldr (fun t r => Xr.add .rn (Xr.mul t.1 (f32 (f t.2))) r) z)
  let c := comb Aff.c k
  let s := comb Aff.s Xr.zero
  { c := c, s := s, e := sumErr (terms.map (fun t => Xr.mul t.1.abs (f32 t.2.e)) ++ [errX c, errX s]),
    empty := terms.any (fun t => t.2.empty) }

/-- product (R344). -/
def affMul (a b : Aff) : Aff :=
  let c := toF32 .rn (Xr.mul (f32 a.c) (f32 b.c))
  let s := toF32 .rn (Xr.add .rn (Xr.mul (f32 a.c) (f32 b.s)) (Xr.mul (f32 b.c) (f32 a.s)))
  let r (x : Aff) : Xr := f32 (toF32 .ru (Xr.add .ru (f32 x.s).abs (f32 x.e)))
  { c := c, s := s,
    e := sumErr [Xr.mul (f32 a.c).abs (f32 b.e), Xr.mul (f32 b.c).abs (f32 a.e), Xr.mul (r a) (r b), errX c, errX s],
    empty := a.empty || b.empty }

/-- An interval as a form (R344). -/
def demoteIvl (v : Ivl) : Aff :=
  if v.isEmpty then ⟨0, 0, 0, true⟩
  else if v.lo.isInf || v.hi.isInf then ⟨0, 0, 0x7F800000#32, false⟩
  else
    let c := toF32 .rn (Xr.div (Xr.add .rn v.lo v.hi) (.fin false 2 1))
    ⟨c, 0, toF32 .ru (xrMax (Xr.sub .ru v.hi (f32 c)) (Xr.sub .ru (f32 c) v.lo)), false⟩

/-- demote (R344). -/
def aff1 (f : Ivl → Ivl) (a : Aff) : Aff := demoteIvl (readIvl (writeIvl (ivl1 f a.ivl)))
def aff2 (f : Ivl → Ivl → Ivl) (a b : Aff) : Aff := demoteIvl (readIvl (writeIvl (ivl2 f a.ivl b.ivl)))

/-- A form negated whole. -/
def Aff.negWhole (a : Aff) : Aff := { a with c := toF32 .rn (f32 a.c).neg, s := toF32 .rn (f32 a.s).neg }

/-- select of MIN, MAX, SMIN and SMAX (R344): decided by a gap of r. -/
def affPick (isMin : Bool) (r : Xr) (f : Ivl → Ivl → Ivl) (a b : Aff) : Aff :=
  let below (x y : Ivl) : Bool := Xr.le (Xr.add .ru x.hi r) y.lo
  if a.empty || b.empty then ⟨0, 0, 0, true⟩
  else if (if isMin then below a.ivl b.ivl else below b.ivl a.ivl) then a
  else if (if isMin then below b.ivl a.ivl else below a.ivl b.ivl) then b
  else aff2 f a b

/-- The gap of SMIN: nothing where it acts as MIN (R343). -/
def gapOf (r : Word) : Xr := if isPos (f32 r) then f32 r else Xr.zero

/-- ABS in affine mode (R344). -/
def affAbs (a : Aff) : Aff :=
  if a.empty then a
  else if Xr.le Xr.zero a.ivl.lo then a
  else if Xr.le a.ivl.hi Xr.zero then a.negWhole
  else aff1 xabsI a

/-- MOD in affine mode (R344). -/
def affMod (p : Word) (a : Aff) : Aff :=
  match modFloor (f32 p) a.ivl.lo, modFloor (f32 p) a.ivl.hi with
  | some n0, some n1 =>
    if isPos (f32 p) && decide (n0 = n1) && !a.empty then affLinear [(.fin false 1 1, a)] ((Q.ofInt (-n0)).mul (f32Q p)).toXr
    else aff1 (modI (f32 p)) a
  | none, _ => aff1 (modI (f32 p)) a
  | some _, none => aff1 (modI (f32 p)) a

/-- LIP in affine mode (R346): rho bounds how far the ray point moves over half the segment. -/
def affLip (rho : Xr) (l : Word) (a : Aff) : Aff :=
  let move := Xr.mul (f32 l) rho
  let up := f32 (toF32 .ru move)
  if !a.empty && Xr.le Xr.zero (f32 l) && !(f32 l).isInf && Xr.lt up (f32 a.s).abs then
    ⟨a.c, 0, toF32 .ru (Xr.add .ru (f32 a.e) move), false⟩
  else a

/-- Affine mode (R344); rho as LIP takes it. -/
def affineOps (p : BrickPort) (fp : Word) (rho : Xr) : FieldOps Aff :=
  let one : Xr := .fin false 1 1
  let const (w : Word) : Aff := ⟨w, 0, 0, false⟩
  let add (a b : Aff) : Aff := affLinear [(one, a), (one, b)] Xr.zero
  { const := const, add := add, sub := fun a b => affLinear [(one, a), (one.neg, b)] Xr.zero, mul := affMul, div := aff2 divI,
    neg := fun a => affLinear [(one.neg, a)] Xr.zero, abs := affAbs, min := affPick true Xr.zero xminI, max := affPick false Xr.zero xmaxI,
    smin := fun r => affPick true (gapOf r) (sminI (f32 r)),
    smax := fun r => affPick false (gapOf r) (fun a b => negI (sminI (f32 r) (negI a) (negI b))),
    sqr := fun a => affMul a a, sqrt := aff1 xsqrtI, rcp := aff1 xrcpI, sin := aff1 (sinI false), cos := aff1 (sinI true),
    exp2 := aff1 (fun a => ⟨exp2Dir .rd a.lo, exp2Dir .ru a.hi⟩), log2 := aff1 log2I,
    floor := aff1 (fun a => ⟨frndX .rd a.lo, frndX .rd a.hi⟩), stepf := aff1 (fun a => ⟨stepX a.lo, stepX a.hi⟩),
    modulo := affMod, cmul := fun w a => affLinear [(f32 w, a)] Xr.zero,
    row := fun c v => affLinear ((List.range 3).map (fun i => (f32 (wAt c i), v.getD i Aff.zero))) (f32 (wAt c 3)),
    lip := affLip rho,
    brick := fun a v => do let r ← brickI p (brickFp fp) a (v.map Aff.ivl); pure (demoteIvl (readIvl (writeIvl r))) }

-- a segment evaluated (R341, R344)

/-- The point entry of interval mode over [t0, t1] (R343). -/
def pointIvl (o d t0 t1 : Xr) : DWord :=
  let a := Xr.add .rn o (Xr.mul t0 d)
  let b := Xr.add .rn o (Xr.mul t1 d)
  if a.isNan || b.isNan then writeIvl Ivl.all else writeIvl ⟨xrMin a b, xrMax a b⟩

/-- The interval of a program over a segment of a ray of six words (R341). -/
def evalInterval (p : BrickPort) (fp : Word) (prog : List Word × List Word) (ray : List Word) (t0 t1 : Word) : Scan (Eval DWord) :=
  (intervalOps p fp).eval (writeIvl Ivl.all) prog.2 (writeIvl ⟨f32 t0, f32 t1⟩) true prog.1 0 [] []
    ((List.range 3).map (fun i => pointIvl (f32 (wAt ray i)) (f32 (wAt ray (3 + i))) (f32 t0) (f32 t1))) []

/-- tm and th of a segment (R344). -/
def midOf (t0 t1 : Word) : Word := toF32 .rn (Xr.div (Xr.add .rn (f32 t0) (f32 t1)) (.fin false 2 1))
def halfOfSeg (t0 t1 : Word) : Word :=
  let m := f32 (midOf t0 t1)
  toF32 .ru (xrMax (Xr.sub .ru (f32 t1) m) (Xr.sub .ru m (f32 t0)))

/-- |d| rounded up (R346). -/
def lengthUp (ray : List Word) : Xr :=
  let sq (i : Nat) : Xr := Xr.mul (f32 (wAt ray (3 + i))) (f32 (wAt ray (3 + i)))
  f32 (toF32 .ru (sqrtOf (Xr.add .rn (Xr.add .rn (sq 0) (sq 1)) (sq 2))))

/-- The interval of a program over a segment, by affine forms (R344). -/
def evalAffine (p : BrickPort) (fp : Word) (prog : List Word × List Word) (ray : List Word) (t0 t1 : Word) : Scan (Eval DWord) := do
  let tm := midOf t0 t1
  let th := halfOfSeg t0 t1
  let rho := f32 (toF32 .ru (Xr.mul (f32 th) (lengthUp ray)))
  let entry (i : Nat) : Aff :=
    let c := toF32 .rn (Xr.add .rn (f32 (wAt ray i)) (Xr.mul (f32 tm) (f32 (wAt ray (3 + i)))))
    let s := toF32 .rn (Xr.mul (f32 th) (f32 (wAt ray (3 + i))))
    ⟨c, s, sumErr [errX c, errX s], false⟩
  let r ← (affineOps p fp rho).eval Aff.zero prog.2 ⟨tm, th, 0, false⟩ true prog.1 0 [] [] ((List.range 3).map entry) []
  match r with
  | .value v _ => pure (.value (writeIvl v.ivl) [])
  | .call k => pure (.call k)

/-- The point value of a program at t (R344). -/
def evalPoint (p : BrickPort) (fp : Word) (prog : List Word × List Word) (ray : List Word) (t : Word) : Scan Word := do
  let at_ (i : Nat) : Word := toF32 .rn (Xr.add .rn (f32 (wAt ray i)) (Xr.mul (f32 t) (f32 (wAt ray (3 + i)))))
  let r ← (pointOps p fp).eval nanW prog.2 t false prog.1 0 [] [] ((List.range 3).map at_) []
  match r with
  | .value v _ => pure v
  | .call _ => pure nanW

-- the node segment and the end of a march (R348)

/-- The bounds of a node's box; a NaN bound has no stated meaning and is a free number (log entry 18). -/
def boxBounds : List Word → Scan (List Xr)
  | [] => pure []
  | w :: r => do
    let x ← if f32Nan w then (do let q ← Scan.num w; pure q.toXr) else pure (f32 w)
    let rest ← boxBounds r
    pure (x :: rest)

/-- The node segment of a ray of six words in a box of six words; none where the box is empty or not met (R348). -/
def nodeSegment (ray box : List Word) (tmin tmax : Word) : Scan (Option (Word × Word)) := do
  let o ← Scan.vec (ray.take 3)
  let d ← Scan.vec (ray.drop 3)
  let b ← boxBounds box
  match slabs o d (b.take 3) (b.drop 3) with
  | none => pure none
  | some (x, y) =>
    let ta := toF32 .rd x
    let tb := toF32 .ru y
    let t0 := if Xr.lt (f32 tmin) (f32 ta) then ta else tmin
    let t1 := if Xr.lt (f32 tb) (f32 tmax) then tb else tmax
    pure (if Xr.lt (f32 t1) (f32 t0) then none else some (t0, t1))

/-- narrow (R348), with EPSX of MARCHCFG (R347). -/
def narrow (marchcfg t0 t1 : Word) : Bool :=
  let w := f32 (toF32 .ru (Xr.sub .ru (f32 t1) (f32 t0)))
  let u : Xr := match f32 t1 with | .inf _ => .inf false | _ => ((Q.ofInt 2).mul (ulpQ t1)).toXr
  let epsx := bits marchcfg.toNat 15 8
  Xr.le w (if epsx = 0xFF then u else xrMax (sx8Value epsx) u)

/-- CERT of two point values (R349). -/
def certOf (a b : Word) : Bool :=
  let x := Xr.mul (f32 a) (f32 b)
  !f32Nan a && !f32Nan b && Xr.le x Xr.zero

end Sys2Proof.Machine
end

