-- ==== Sys2Proof/Machine/Tree.lean ====
section
/-! DEFINITION. Ray slots (R319 to R321, R323), the tree walker (R326 to R333) and the marcher (R347 to R351). -/

namespace Sys2Proof.Machine

-- slots

/-- Word i of a slot's image (R320). -/
def Slot.word (x : Slot) (i : Nat) : Word := kget 0 x.img i

/-- A slot with words of its image written. -/
def Slot.put (x : Slot) (ws : List (Nat × Word)) : Slot := { x with img := ws.foldl (fun m e => kset 0 m e.1 e.2) x.img }

/-- The states of R319. -/
def Slot.state (x : Slot) : Nat := bits (x.word 29).toNat 12 11

/-- The entries on a slot's stack. -/
def Slot.depth (x : Slot) : Nat := x.spilled + x.stack.length

/-- A status word (R323). -/
def statusWord (code info level : Nat) (front : Bool) : Word := wd (code + level * 2 ^ 9 + b2n front * 2 ^ 12 + info % 2 ^ 16 * 2 ^ 16)

namespace RayCode

def miss : Nat := 0x00
def hit : Nat := 0x01
def callany : Nat := 0x02
def callisect : Nat := 0x03
def callfield : Nat := 0x04
def entermesh : Nat := 0x05
def isohit : Nat := 0x06
def exit : Nat := 0x07
def remote : Nat := 0x08
def end_ : Nat := 0x09
def located : Nat := 0x0A
def evfull : Nat := 0x0B
def steplimit : Nat := 0x0C
def badscene : Nat := 0x10
def fault : Nat := 0x11
def stackovf : Nat := 0x12
def notfound : Nat := 0x13
def badstate : Nat := 0x14
def nocell : Nat := 0x15
def badmode : Nat := 0x16
def fhit : Nat := 0x20
def fnone : Nat := 0x21
def fwork : Nat := 0x22

end RayCode

/-- INSTID where there is no instance (R320). -/
def noInst : Word := 0xFFFFFFFF#32

/-- What one move of a call comes to: it goes on, or it delivers a quad and its slot is DONE or PARKED. -/
inductive Beat where
  | go (x : Slot)
  | out (x : Slot) (quad : List Word)
  deriving DecidableEq, Repr

/-- A slot whose call has ended: DONE, with a status word and FADDR, and nothing of the walk (R319, R320). -/
def Slot.done (x : Slot) (status : Word) (faddr : Nat) : Slot :=
  let y := { x with lvls := [], stack := [], spilled := 0, meshes := [], rest := none, nft := [], progs := [], call := none, spl := none,
                    best := none, cand := none, march := none, stop := none, evictedAt := none, keep := [] }
  y.put [(28, status), (29, wd (3 * 2 ^ 11)), (30, wd faddr), (31, wd (faddr / 2 ^ 32))]

/-- A slot that parks, at an instance level (R331). -/
def Slot.park (x : Slot) (status : Word) (level clock : Nat) : Slot :=
  { (x.put [(28, status), (29, wd (x.depth + level * 2 ^ 8 + 2 * 2 ^ 11)), (30, 0), (31, 0)]) with parkedAt := clock }

/-- The clock, in a scan. -/
def Scan.clock : Scan Nat := fun s => (.ok s.clock, s)

-- the stack and its spill region (R321)

/-- Where an entry of the stack lies in the spill region. -/
def entryVa (base i : Nat) : Nat := base + 0xA0 + 16 * i

/-- The spill region as the acting agent accesses it: R and W, at device scope (R321); a lost word cannot be used. -/
def spillPort (asid : Nat) : Port := fun va n => fun s =>
  match translate s asid va .rw with
  | .error f => (.error (.fault va f), noteUnit s asid (actorClass s) va .rw)
  | .ok _ => devicePort asid va n s

/-- Writes words to the spill region. -/
def spillWrite (asid : Nat) : Nat → List Word → Scan Unit
  | _, [] => pure ()
  | va, w :: r => do
    (fun s => match translate s asid va .rw with
      | .error f => (.error (.fault va f), s)
      | .ok p =>
        let t := noteUnit s asid (actorClass s) va .rw
        if busErr s (p.pa va) then (.error (.fault va .busErr), t)
        else if linesBad s.poisonLines (p.pa va) 4 then (.error (.fault va .eccu), t)
        else (.ok (), writeAs t s.order.actor { Acc.store with strong := true, scope := 4 } (.phys (p.pa va)) (leBytes 4 w.toNat)) : Scan Unit)
    spillWrite asid (va + 4) r

/-- Reads n words of the spill region. -/
def spillRead (asid : Nat) : Nat → Nat → Scan (List Word)
  | _, 0 => pure []
  | va, n + 1 => do
    let w ← spillPort asid va 4
    let r ← spillRead asid (va + 4) n
    pure (wd w :: r)

/-- An entry's four words. -/
def StackEntry.words (e : StackEntry) : List Word := [e.ref.lo, e.ref.hi, e.t, e.w]

/-- Pushes an entry: the top eight are held internally, deeper ones lie in the region (R321). -/
def pushEntry (asid : Nat) (x : Slot) (e : StackEntry) : Scan Slot :=
  if (if x.spl.isSome then 54 else 8) ≤ x.depth then throw .overflow
  else if x.stack.length < 8 then pure { x with stack := e :: x.stack }
  else do
    let base := x.spl.getD 0
    let low := (x.stack.getLast?).getD e
    spillWrite asid (entryVa base x.spilled) low.words
    pure { x with stack := e :: x.stack.dropLast, spilled := x.spilled + 1 }

/-- Pops an entry; the engine then takes back the entry that has become its eighth (R321). -/
def popEntry (asid : Nat) (x : Slot) : Scan (Option StackEntry × Slot) :=
  match x.stack with
  | [] => pure (none, x)
  | e :: r =>
    if x.spilled = 0 then pure (some e, { x with stack := r })
    else do
      let ws ← spillRead asid (entryVa (x.spl.getD 0) (x.spilled - 1)) 4
      let low : StackEntry := { ref := Word.pair (wAt ws 0) (wAt ws 1), t := wAt ws 2, w := wAt ws 3 }
      pure (some e, { x with stack := r ++ [low], spilled := x.spilled - 1 })

/-- Pushes entries so that the first of the list is popped first. -/
def pushAll (asid : Nat) (x : Slot) : List StackEntry → Scan Slot
  | [] => pure x
  | e :: r => do
    let y ← pushAll asid x r
    pushEntry asid y e

/-- Drops the stack to a depth. -/
def dropTo (asid base : Nat) : Nat → Slot → Scan Slot
  | 0, x => pure x
  | n + 1, x => if x.depth ≤ base then pure x else do
    let r ← popEntry asid x
    dropTo asid base n r.2

-- levels (R89, R330)

/-- The ray (origin, direction) of a level. -/
def Slot.rayAt (x : Slot) (level : Nat) : List Word :=
  let world := [x.word 0, x.word 1, x.word 2, x.word 4, x.word 5, x.word 6]
  if level = 0 then world else ((x.lvls[level - 1]?).map Lvl.ray).getD world

/-- CALLBASE of a level: the sum over the instance path. -/
def Slot.callbase (x : Slot) (level : Nat) : Word := (x.lvls.take level).foldl (fun a l => a + l.callbase) 0
/-- NOANY on the path (R331). -/
def Slot.noany (x : Slot) (level : Nat) : Bool := (x.lvls.take level).any Lvl.noany
/-- FLIP, an odd number of times on the path (R329). -/
def Slot.flip (x : Slot) (level : Nat) : Bool := (x.lvls.take level).foldl (fun a l => a != l.flip) false
/-- INSTID of the innermost instance. -/
def Slot.instAt (x : Slot) (level : Nat) : Word := if level = 0 then noInst else ((x.lvls[level - 1]?).map Lvl.inst).getD noInst

/-- The segment of a level's ray within the current limits. -/
def segAt (x : Slot) (level : Nat) : Scan Seg := do
  let r := x.rayAt level
  let o ← Scan.vec (r.take 3)
  let d ← Scan.vec (r.drop 3)
  pure { o := o, d := d, t0 := f32 (x.word 3), t1 := f32 (x.word 7) }

-- hits (R328, R331)

/-- A hit in the image's words. -/
def Slot.putHit (x : Slot) (h : Hit) : Slot :=
  x.put [(12, h.t), (13, h.u), (14, h.v), (15, h.ident), (16, h.inst), (17, h.callix), (18, h.userLo), (19, h.userHi)]

/-- The instance level at which a running call stands. -/
def Slot.level (x : Slot) : Nat := match x.rest with | some (e, _, _) => e.w.toNat % 8 | none => x.lvls.length

/-- A running call's slot as its image shows it: the best hit so far, the depth, the level and RUNNING (R320). -/
def Slot.live (x : Slot) : Slot :=
  (match x.best with | some b => x.putHit b | none => x).put [(29, wd (x.depth + x.level * 2 ^ 8 + 2 ^ 11))]

/-- A hit accepted: it replaces the best only when its t is less, and TMAX narrows to it (R328). -/
def Slot.accept (x : Slot) (h : Hit) : Slot :=
  let better := match x.best with | none => true | some b => Xr.lt (f32 h.t) (f32 b.t)
  ({ x with best := if better then some h else x.best }).put [(7, h.t)]

/-- The call is a MARCH, not a TRAV. -/
def Slot.isMarch (x : Slot) : Bool := match x.call with | some c => decide (c.sub = 3) | none => false
/-- .FIRST (R322). -/
def Slot.first (x : Slot) : Bool := match x.call with | some c => decide (c.sub = 0 ∧ c.m = 1) | none => false
/-- The FPCTL the call captured (R324). -/
def Slot.fp (x : Slot) : Word := match x.call with | some c => c.fpctl | none => 0
/-- The MARCHCFG the call captured (R347). -/
def Slot.cfg (x : Slot) : Word := match x.call with | some c => c.marchcfg | none => 0
/-- Marches run in affine mode (R350, R354). -/
def Slot.affine (x : Slot) : Bool :=
  match x.call with | some c => if c.sub = 3 then decide (c.m % 2 = 1) else c.marchcfg.getLsbD 0 | none => false

/-- A tree walk ends: HIT, ENTERMESH or MISS (R328, R331). -/
def finishTree (x : Slot) : Beat :=
  match x.best with
  | none =>
    let y := x.put [(12, 0), (13, 0), (14, 0), (15, 0), (16, noInst), (17, 0), (18, 0), (19, 0)]
    .out ({ y with obj := [] }.done 0 0) [0, 0, 0, noInst]
  | some h =>
    let y := { x.putHit h with obj := h.obj }
    match h.enter with
    | none =>
      let st := statusWord RayCode.hit 0 h.level h.front
      .out (y.done st 0) [st, h.t, h.ident, h.inst]
    | some (m, walk) =>
      let st := statusWord RayCode.entermesh 0 h.level false
      let tmax := match x.call with | some c => wAt c.a 7 | none => x.word 7
      .out ((y.put [(3, h.t), (7, tmax), (20, wd m), (21, wd (m / 2 ^ 32)), (22, h.ident), (23, walk)]).done st 0) [st, h.t, h.ident, h.inst]

/-- The walk goes on after an accepted hit, or ends in .FIRST mode (R328). -/
def afterAccept (x : Slot) : Beat := if x.first then finishTree x else .go x

/-- A park: the image shows the best hit so far under what the callback needs (R331, R351). -/
def parkBeat (x : Slot) (code level : Nat) (front : Bool) (h : Hit) (extra : List (Nat × Word)) (d2 d3 : Word) (clock : Nat) : Beat :=
  let y := match x.best with | some b => x.putHit b | none => x.put [(13, 0), (14, 0), (15, 0), (18, 0), (19, 0)]
  let st := statusWord code 0 level front
  .out (({ y.put extra with cand := some h, obj := h.obj }).park st level clock) [st, h.t, d2, d3]

-- the marcher (R348 to R351)

/-- A pending entry of a march (R348). -/
def marchEntry (t0 t1 : Word) (k level : Nat) : StackEntry := { ref := Word.pair t0 t1, t := 0, w := wd (level + k * 2 ^ 8 + 2 ^ 31) }

/-- A MARCH call ends (R355). -/
def finishMarch (x : Slot) (m : MarchSt) (code : Nat) (flags : Nat) (t0 t1 certV d3 : Word) : Beat :=
  let st := wd (code + flags)
  let y := x.put [(12, t0), (13, t1), (14, certV), (15, m.ident), (16, noInst), (17, m.callix), (18, m.userLo), (19, m.userHi)]
  .out ({ y with obj := [] }.done st 0) [st, t0, t1, d3]

/-- A march that finds nothing (R348). -/
def marchNone (x : Slot) (m : MarchSt) : Beat :=
  if x.isMarch then finishMarch x m RayCode.fnone 0 0 0 0 (wd m.evals) else .go { x with march := none }

/-- A hit of a march in a tree walk (R350). -/
def marchHit (x : Slot) (m : MarchSt) (level : Nat) (t0 t1 : Word) (cert front : Bool) : Hit :=
  { t := t0, u := t1, v := if cert then 0x3F800000#32 else 0, ident := m.ident, inst := x.instAt level, callix := m.callix, userLo := m.userLo,
    userHi := m.userHi, level := level, front := front, obj := x.rayAt level, enter := none }

/-- A march parks on a segment (R351). -/
def marchPark (x : Slot) (m : MarchSt) (level : Nat) (t0 t1 k : Word) (clock : Nat) : Beat :=
  let h := marchHit x m level t0 t1 false false
  let x := { x with keep := [x.word 24, x.word 25, x.word 26, x.word 27] }
  let extra := [(12, t0), (16, x.instAt level), (17, m.callix), (18, m.userLo), (19, m.userHi), (24, t0), (25, t1), (26, k), (27, 0)] ++
    (if x.isMarch then [(15, m.ident)] else [])
  if x.isMarch then parkBeat x RayCode.callfield 0 false h extra m.ident (wd m.evals) clock
  else parkBeat x RayCode.callfield level false h extra m.callix h.inst clock

/-- A march begins on the node segment, or parks on it, or has none (R348, R351). -/
def marchStart (asid : Nat) (x : Slot) (m : MarchSt) (level : Nat) (opaq : Bool) (seg : Option (Word × Word)) : Scan Beat := do
  let now ← Scan.clock
  match seg with
  | none => pure (marchNone x m)
  | some (t0, t1) =>
    if opaq then pure (marchPark { x with march := if x.isMarch then some m else none } m level t0 t1 0xFFFFFFFF#32 now)
    else do
      let y ← pushEntry asid { x with march := some m } (marchEntry t0 t1 0 level)
      pure (.go y)

/-- The end of a march with a bracket: its point values, and the hit (R349, R350, R355). -/
def marchFound (asid : Nat) (x : Slot) (m : MarchSt) (level k : Nat) (prog : List Word × List Word) (t0 t1 : Word) (nar : Bool) : Scan Beat := do
  let p := sceneBricks asid
  let ray := x.rayAt level
  let f0 ← evalPoint p x.fp prog ray t0
  let f1 ← evalPoint p x.fp prog ray t1
  let cert := certOf f0 f1
  let front := Xr.lt Xr.zero (f32 f0)
  if x.isMarch then
    pure (finishMarch x m RayCode.fhit (b2n front * 2 ^ 12 + b2n cert * 2 ^ 13 + b2n (decide (k = 20) && !nar) * 2 ^ 14) t0 t1
      (if cert then 0x3F800000#32 else 0) (wd m.evals))
  else do
    let y ← dropTo asid m.base 54 { x with march := none }
    pure (afterAccept (y.accept (marchHit x m level t0 t1 cert (front != x.flip level))))

/-- One evaluation of a march (R348). -/
def marchBeat (asid : Nat) (x : Slot) (m : MarchSt) : Scan Beat := do
  if x.depth ≤ m.base then pure (marchNone x m)
  else do
    let r ← popEntry asid x
    let e := r.1.getD (marchEntry 0 0 0 0)
    let y := r.2
    let t0 := e.ref.lo
    let t1 := e.ref.hi
    let level := e.w.toNat % 8
    let k := bits e.w.toNat 12 8
    if m.evals = 65536 then pure (.go { y with stop := some (.work t0 t1) })
    else do
      let prog := (kfind y.progs m.prog).getD ([], [])
      let p := sceneBricks asid
      let m := { m with evals := m.evals + 1 }
      let y := { y with march := some m }
      let v ← (if y.affine then evalAffine else evalInterval) p y.fp prog (y.rayAt level) t0 t1
      match v with
      | .call c => do
        let now ← Scan.clock
        pure (marchPark y m level t0 t1 c now)
      | .value w _ =>
        let f := readIvl w
        if f.isEmpty || Xr.lt Xr.zero f.lo || Xr.lt f.hi Xr.zero then pure (.go y)
        else
          let tm := midOf t0 t1
          let nar := narrow y.cfg t0 t1
          if k = 20 ∨ nar = true ∨ Xr.le (f32 tm) (f32 t0) = true ∨ Xr.le (f32 t1) (f32 tm) = true then
            marchFound asid y m level k prog t0 t1 nar
          else do
            let z ← pushEntry asid y (marchEntry tm t1 (k + 1) level)
            let z ← pushEntry asid z (marchEntry t0 tm (k + 1) level)
            pure (.go z)

/-- The program of a field node, read and checked once in a call (R340). -/
def needProg (asid : Nat) (x : Slot) (name : Nat) (n : FieldNode) : Scan Slot :=
  match kfind x.progs name with
  | some _ => pure x
  | none => do
    let p := scenePort asid
    let ws ← readProgram p n.code n.codelen
    let g ← checkProg p ws n.code n.nconst n.const
    pure { x with progs := kput x.progs name g }

-- leaves (R331)

/-- A hit of a triangle within the limits (R329). -/
def triHit (x : Slot) (f : NodeFmt) (level : Nat) (g : Seg) (v0 v1 v2 : V3) : Option (Word × Word × Word × Bool) :=
  match meetsTri x.fp g.o g.d v0 v1 v2 with
  | none => none
  | some (t, u, v, fr) =>
    let front := fr != x.flip level
    if (f.cullBack && !front) || !withinLimits t (x.word 3) (x.word 7) then none else some (t, u, v, front)

/-- A triangle's hit is accepted, or parks with CALLANY (R331). -/
def triBeat (x : Slot) (f : NodeFmt) (level : Nat) (h : Hit) (clock : Nat) : Beat :=
  if f.anyHit && !x.noany level then
    parkBeat x RayCode.callany level h.front h
      [(12, h.t), (13, h.u), (14, h.v), (15, h.ident), (16, h.inst), (17, h.callix), (18, h.userLo), (19, h.userHi)] h.ident h.inst clock
  else afterAccept (x.accept h)

/-- A TRI record (R86, R331). -/
def triRecord (asid : Nat) (x : Slot) (f : NodeFmt) (level a : Nat) : Scan Beat := do
  let ws ← (scenePort asid).words a 12
  Scan.need a (decide (fieldAt ws 0x2C 4 = 0))
  let v0 ← Scan.vec (ws.take 3)
  let v1 ← Scan.vec ((ws.drop 3).take 3)
  let v2 ← Scan.vec ((ws.drop 6).take 3)
  let g ← segAt x level
  let now ← Scan.clock
  match triHit x f level g v0 v1 v2 with
  | none => pure (.go x)
  | some (t, u, v, front) =>
    pure (triBeat x f level
      { t := t, u := u, v := v, ident := wAt ws 9, inst := x.instAt level, callix := x.callbase level + wAt ws 10, userLo := 0, userHi := 0,
        level := level, front := front, obj := x.rayAt level, enter := none } now)

/-- An OPAQUE record (R86, R331). -/
def opaqueRecord (asid : Nat) (x : Slot) (level a : Nat) : Scan Beat := do
  let ws ← (scenePort asid).words a 12
  Scan.need a (decide (fieldAt ws 0x1C 4 = 0 ∧ fieldAt ws 0x28 8 = 0))
  let g ← segAt x level
  let now ← Scan.clock
  let xs := (ws.take 6).map f32
  let entry := if xs.any Xr.isNan then some g.t0 else meetsBox g (xs.take 3) (xs.drop 3)
  match entry with
  | none => pure (.go x)
  | some t =>
    let w := outF32 x.fp .rd t
    let tmin := x.word 3
    let h : Hit :=
      { t := if Xr.lt (f32 tmin) (f32 w) then w else tmin, u := 0, v := 0, ident := 0, inst := x.instAt level,
        callix := x.callbase level + wAt ws 6, userLo := wAt ws 8, userHi := wAt ws 9, level := level, front := false, obj := x.rayAt level,
        enter := none }
    pure (parkBeat x RayCode.callisect level false h
      [(12, h.t), (16, h.inst), (17, h.callix), (18, h.userLo), (19, h.userHi)] h.callix h.inst now)

/-- A FIELD record (R350). -/
def fieldRecord (asid : Nat) (x : Slot) (level a : Nat) : Scan Beat := do
  let n ← readNode (scenePort asid) a
  let seg ← nodeSegment (x.rayAt level) n.box (x.word 3) (x.word 7)
  let m : MarchSt := { prog := a, ident := n.callid, callix := x.callbase level + n.callid, userLo := n.userLo, userHi := n.userHi,
                       base := x.depth, evals := 0 }
  let y ← if n.opaq || seg.isNone then pure x else needProg asid x a n
  marchStart asid y m level n.opaq seg

/-- A BRICKMAP record, marched as one BRICK on it (R350). -/
def brickRecord (asid : Nat) (x : Slot) (level a ix : Nat) : Scan Beat := do
  let h ← readBrickMap (scenePort asid) a
  let hi (i : Nat) : Word :=
    toF32 .ru (Xr.add .ru (f32 (h.origin.getD i 0)) (Xr.mul (Xr.ofInt (7 * (h.size.getD i 0 : Int))) (f32 h.voxel)))
  let seg ← nodeSegment (x.rayAt level) (h.origin ++ [hi 0, hi 1, hi 2]) (x.word 3) (x.word 7)
  let m : MarchSt := { prog := a, ident := wd ix, callix := x.callbase level, userLo := 0, userHi := 0, base := x.depth, evals := 0 }
  marchStart asid { x with progs := kput x.progs a ([0xB4000000#32, 0], [wd a, wd (a / 2 ^ 32)]) } m level false seg

/-- One triangle of a BFACE record's face (R86, R96, R331). DESIGN CHOICE (log entry 38): a face whose adjacency code is not BOUNDARY is
no malformed record; the code is not looked at. -/
def bfaceRecord (asid : Nat) (x : Slot) (f : NodeFmt) (e : StackEntry) (rec_ k level : Nat) : Scan Beat := do
  let p := scenePort asid
  let a := refAddr e.ref + 8 * rec_
  let ws ← p.words a 2
  Scan.need a (decide (fieldAt ws 5 3 = 0))
  let face := fieldAt ws 4 1
  let m ← readMesh p ((x.meshes.head?.map (·.2)).getD 0)
  Scan.need a (decide ((wAt ws 0).toNat < m.ncell))
  let c ← readCell p m (wAt ws 0).toNat
  Scan.need a (decide (face < c.faces.length))
  match (faceTris (c.faces.getD face []))[k]? with
  | none => pure (.go { x with rest := some (e, rec_ + 1, 0) })
  | some tri => do
    let x := { x with rest := some (e, rec_, k + 1) }
    let g ← segAt x level
    let now ← Scan.clock
    match triHit x f level g (c.at (tri.getD 0 0)) (c.at (tri.getD 1 0)) (c.at (tri.getD 2 0)) with
    | none => pure (.go x)
    | some (t, u, v, front) => do
      let cx ← Scan.freeWord
      pure (triBeat x f level
        { t := t, u := u, v := v, ident := wAt ws 0, inst := x.instAt level, callix := cx, userLo := 0, userHi := 0, level := level,
          front := front, obj := x.rayAt level, enter := some (m.addr, wd (c.tetWith tri + face * 256)) } now)

/-- The next record, or triangle, of the leaf in hand (R331). -/
def leafBeat (asid : Nat) (x : Slot) (e : StackEntry) (rec_ k : Nat) : Scan Beat :=
  let f := nodeFmt x.nft (refType e.ref)
  let level := e.w.toNat % 8
  let a := refAddr e.ref
  let y := { x with rest := some (e, rec_ + 1, 0) }
  if refCount e.ref ≤ rec_ then pure (.go { x with rest := none })
  else
    match f.kind with
    | 0x10 => triRecord asid y f level (a + 48 * rec_)
    | 0x12 => opaqueRecord asid y level (a + 48 * rec_)
    | 0x13 => fieldRecord asid y level (a + 64 * rec_)
    | 0x14 => brickRecord asid y level (a + 64 * rec_) rec_
    | _ => bfaceRecord asid x f e rec_ k level

-- interior nodes, instances and meshes (R328)

/-- The entry t of each child that is visited, by child: rounded by RD, with F32_FZO (R329, R61). -/
def visited (p : Port) (fp : Word) (f : NodeFmt) (node : Nat) (g : Seg) (time : Word) : List Nat → Scan (KMap Word)
  | [] => pure []
  | i :: r => do
    let t ← childTest p f node g time i
    let rest ← visited p fp f node g time r
    pure (match t with | some v => kput rest i (outF32 fp .rd v) | none => rest)

/-- The entries of the visited children, in order. -/
def childEntries (p : Port) (f : NodeFmt) (node level : Nat) (ts : KMap Word) : List Nat → Scan (List StackEntry)
  | [] => pure []
  | i :: r => do
    let ws ← p.words (node + f.childOff + 8 * i) 2
    let rest ← childEntries p f node level ts r
    pure ({ ref := Word.pair (wAt ws 0) (wAt ws 1), t := kget 0 ts i, w := wd level } :: rest)

/-- An interior node: its visited children are pushed, nearest first where NEARFIRST says so (R328). -/
def interiorBeat (asid : Nat) (x : Slot) (f : NodeFmt) (node level : Nat) : Scan Beat := do
  let p := scenePort asid
  let g ← segAt x level
  let ts ← visited p x.fp f node g (x.word 8) (List.range f.fanout)
  let near (i j : Nat) : Bool :=
    Xr.lt (f32 (kget 0 ts i)) (f32 (kget 0 ts j)) || (Xr.eq (f32 (kget 0 ts i)) (f32 (kget 0 ts j)) && decide (i ≤ j))
  let ord := if f.nearFirst then sortBy near (ts.map (·.1)) else ts.map (·.1)
  let es ← childEntries p f node level ts ord
  let y ← pushAll asid x es
  pure (.go y)

/-- An INST leaf: its first record is descended into, the others wait below (R328, R330). -/
def instBeat (asid : Nat) (x : Slot) (e : StackEntry) (level : Nat) : Scan Beat := do
  let a := refAddr e.ref
  Scan.need a (decide (level < 4))
  let r ← readInstance (scenePort asid) x.fp a (x.rayAt level) (x.word 8) (bits (x.word 9).toNat 15 8)
  let y ← if 1 < refCount e.ref then pushEntry asid x { e with ref := refRest e.ref 128 } else pure x
  match r with
  | none => pure (.go y)
  | some (root, l) => do
    let z ← pushEntry asid { y with lvls := x.lvls.take level ++ [l] } { ref := root, t := e.t, w := wd (level + 1) }
    pure (.go z)

/-- A MESH leaf: the boundary tree of its first header is walked, the others wait below (R93). -/
def meshBeat (asid : Nat) (x : Slot) (e : StackEntry) : Scan Beat := do
  let m ← readMesh (scenePort asid) (refAddr e.ref)
  let y ← if 1 < refCount e.ref then pushEntry asid x { e with ref := refRest e.ref 128 } else pure x
  let z ← pushEntry asid { y with meshes := (y.depth, m.addr) :: y.meshes } { e with ref := m.btree }
  pure (.go z)

/-- A node or leaf that has been popped (R82, R83, R328). DESIGN CHOICE (log entry 38): a child reference whose COUNT or TYPE is wrong
reports the address it names. -/
def nodeBeat (asid : Nat) (x : Slot) (e : StackEntry) : Scan Beat := do
  let f := nodeFmt x.nft (refType e.ref)
  let a := refAddr e.ref
  let level := e.w.toNat % 8
  let inMesh := !x.meshes.isEmpty
  Scan.need a (decide (a % 16 = 0 ∧ f.kind ≠ 0) && (if f.interior then decide (refCount e.ref = 0) else
    decide (1 ≤ refCount e.ref) && (inMesh == decide (f.kind = 0x16))))
  if f.interior then interiorBeat asid x f a level
  else if f.kind = 0x11 then instBeat asid x e level
  else if f.kind = 0x15 then meshBeat asid x e
  else pure (.go { x with rest := some (e, 0, 0) })

/-- One move of a tree walk or a march (R328). -/
def treeBeat (asid : Nat) (x : Slot) : Scan Beat :=
  match x.march with
  | some m => marchBeat asid x m
  | none =>
    match x.rest with
    | some (e, r, k) => leafBeat asid x e r k
    | none => do
      let r ← popEntry asid x
      match r.1 with
      | none => pure (finishTree x)
      | some e =>
        let y := { r.2 with meshes := r.2.meshes.filter (fun m => decide (m.1 ≤ r.2.depth)), lvls := r.2.lvls.take (e.w.toNat % 8) }
        if Xr.lt (f32 (y.word 7)) (f32 e.t) || decide (refAddr e.ref = 0) then pure (.go y) else nodeBeat asid y e

/-- RRES's verdict on a slot that parked with a code: none is BADMODE (R332, R351). -/
def verdict (asid : Nat) (x : Slot) (code v : Nat) (a : List Word) : Option (Scan Beat) :=
  let y := { x.put ([24, 25, 26, 27].zip x.keep) with cand := none, keep := [] }
  -- the march in hand ends inside a tree walk, and goes on in a MARCH
  let on (z : Slot) : Scan Slot :=
    match z.march with
    | some m => if z.isMarch then pure z else dropTo asid m.base 54 { z with march := none }
    | none => pure z
  let t := wAt a 0
  match x.cand with
  | none => none
  | some h =>
    if code = RayCode.callany then
      match v with
      | 0 => some (pure (.go y))
      | 1 => some (pure (afterAccept (y.accept h)))
      | 2 => some (pure (finishTree (y.accept h)))
      | _ => none
    else
      match v with
      | 0 => some (do let z ← on y; pure (.go z))
      | 3 =>
        if !f32Nan t && withinLimits t (x.word 3) (x.word 7) then
          match x.isMarch, x.march with
          | true, some m =>
            let st := wd (RayCode.fhit + 2 ^ 12)
            let z := y.put [(12, t), (13, wAt a 1), (14, wAt a 2), (15, wAt a 3), (16, noInst)]
            some (pure (.out ({ z with obj := [] }.done st 0) [st, t, t, wd m.evals]))
          | true, none => none
          | false, _ => some (do
              let z ← on y
              pure (afterAccept (z.accept { h with t := t, u := wAt a 1, v := wAt a 2, ident := wAt a 3, front := true, enter := none })))
        else some (do let z ← on y; pure (.go z))
      | _ => none

end Sys2Proof.Machine
end

