-- ==== Sys2Proof/Machine/Cell.lean ====
section
/-! DEFINITION. The cell walker (R334 to R338). -/

namespace Sys2Proof.Machine

/-- Where a cell walk stands: the cell, the face and triangle of entry, the sub-tetrahedron, and t. -/
structure Stand where
  cell : Cell
  entry : Option (Nat × List Nat)
  tet : Nat
  t : Word

/-- The WALK word (R320). -/
def Stand.walk (w : Stand) : Word := wd (w.tet % 256 + (match w.entry with | some e => e.1 | none => 0xFF) * 256)

/-- The sign of an edge, a zero decided by the global indices (R334). -/
def cellSide (o d : V3) (pos : Nat → V3) (a b : Nat) : Int :=
  let s := edgeSign o d (pos a) (pos b)
  if s ≠ 0 then s else if a < b then 1 else -1

/-- The ray leaves through this triangle (R334). -/
def leavesBy (o d : V3) (pos : Nat → V3) (tri : List Nat) : Bool :=
  let v (i : Nat) : Nat := tri.getD i 0
  decide (0 < cellSide o d pos (v 0) (v 1) ∧ 0 < cellSide o d pos (v 1) (v 2) ∧ 0 < cellSide o d pos (v 2) (v 0))

/-- Two triangles have the same vertices. -/
def sameTri (a b : List Nat) : Bool := a.all (fun v => decide (v ∈ b)) && b.all (fun v => decide (v ∈ a))

/-- The exact t at which a line meets a triangle's plane. -/
def planeT (o d : V3) (pos : Nat → V3) (tri : List Nat) : Q :=
  let a := pos (tri.getD 0 0)
  let n := V3.cross ((pos (tri.getD 1 0)).sub a) ((pos (tri.getD 2 0)).sub a)
  Q.div (V3.dot (a.sub o) n) (V3.dot d n)

/-- The later of two t. -/
def laterT (a b : Word) : Word := if Xr.lt (f32 a) (f32 b) then b else a

/-- Of the triangles that qualify in a cell whose faces are not plane, the one met first at or after t; where none is, the one met
last. -/
def nearestExit (o d : V3) (pos : Nat → V3) (t : Q) (xs : List (Nat × List Nat)) : Option (Nat × List Nat) :=
  let at_ (x : Nat × List Nat) : Q := planeT o d pos x.2
  let pick (better : Q → Q → Bool) : List (Nat × List Nat) → Option (Nat × List Nat)
    | [] => none
    | x :: r => some (r.foldl (fun m y => if better (at_ y) (at_ m) then y else m) x)
  match xs.filter (fun x => t.le (at_ x)) with
  | [] => pick (fun a b => b.lt a) xs
  | y :: r => pick (fun a b => a.lt b) (y :: r)

/-- The exit of a cell: its face, triangle and t_out (R334), with the FPCTL of the call (R61). -/
def cellExit (fp : Word) (o d : V3) (w : Stand) : Scan (Nat × List Nat × Word) :=
  match nearestExit o d w.cell.at (f32Q w.t) (w.cell.tris.filter (fun ft => leavesBy o d w.cell.at ft.2 &&
      !(match w.entry with | some e => decide (ft.1 = e.1) && sameTri ft.2 e.2 | none => false))) with
  | none => throw (.malformed w.cell.addr)
  | some (f, tri) => pure (f, tri, laterT w.t (rnF fp (planeT o d w.cell.at tri)))

/-- Where the line crosses a sub-tetrahedron: its exact entry and exit, by the rule of the cell's triangles (R334). A line through the
cell's least vertex enters by no triangle and leaves by one: it has no entry. -/
def tetCrossing (o d : V3) (c : Cell) (j : Nat) : Option (Option Q × Q) :=
  let v := c.tets.getD j []
  let faces := (kindFaces 0).map (fun f => f.map (fun i => v.getD i 0))
  let enters (tri : List Nat) : Bool := leavesBy o d c.at [tri.getD 0 0, tri.getD 2 0, tri.getD 1 0]
  (faces.find? (leavesBy o d c.at)).map (fun b => ((faces.find? enters).map (planeT o d c.at), planeT o d c.at b))

/-- One entry comes before another; no entry is the first. -/
def enteredBefore : Option Q → Option Q → Bool
  | none, some _ => true
  | some a, some b => a.lt b
  | _, none => false

/-- The sub-tetrahedron in which the line goes on from t: of those that it crosses and leaves after t, the one it enters first; where
there is none, the one it leaves last. -/
def startTet (o d : V3) (c : Cell) (t : Q) : Nat :=
  let xs := (List.range c.tets.length).filterMap (fun j => (tetCrossing o d c j).map (fun x => (j, x.1, x.2)))
  match xs.filter (fun x => t.lt x.2.2) with
  | y :: r => (r.foldl (fun m x => if enteredBefore x.2.1 m.2.1 then x else m) y).1
  | [] => match xs with
    | y :: r => (r.foldl (fun m x => if m.2.2.lt x.2.2 then x else m) y).1
    | [] => 0

/-- The segments of the ray in a cell's sub-tetrahedra, from tetrahedron j at t0 to a limit (R334, R335). -/
def tetSegments (fp : Word) (o d : V3) (c : Cell) (limit : Word) : Nat → Nat → Option (List Nat) → Word → Scan (List (Nat × Word × Word))
  | 0, j, _, t0 => pure [(j, t0, limit)]
  | n + 1, j, entry, t0 =>
    let v := c.tets.getD j []
    let faces := (kindFaces 0).map (fun f => f.map (fun i => v.getD i 0))
    match faces.find? (fun tri => leavesBy o d c.at tri && !(match entry with | some e => sameTri tri e | none => false)) with
    | none => throw (.malformed c.addr)
    | some tri =>
      let t1 := laterT t0 (rnF fp (planeT o d c.at tri))
      match (List.range c.tets.length).find? (fun k => decide (k ≠ j) && tri.all (fun i => decide (i ∈ c.tets.getD k []))) with
      | none => pure [(j, t0, limit)]
      | some k =>
        if Xr.le (f32 limit) (f32 t1) then pure [(j, t0, limit)]
        else do
          let r ← tetSegments fp o d c limit n k (some tri) t1
          pure ((j, t0, t1) :: r)

/-- Where an exit leads (R334, R98). -/
inductive Way where
  | into (w : Stand)
  | boundary (tag : Nat)
  | remote (ix : Nat)

/-- Follows an adjacency code (R98, R334). DESIGN CHOICE (log entry 55), where R98 is silent: a link that is not named back is reported
at the neighbour's code, and the walker reports a REMOTE face's index without reading its record. -/
def followFace (p : Port) (m : Mesh) (c : Cell) (face : Nat) (tri : List Nat) (t : Word) : Scan Way := do
  let a := m.adj + 4 * (c.adji + face)
  let code ← p a 4
  match code / 2 ^ 30 with
  | 0 => do
    let n := code / 16 % 2 ^ 26
    let f := code % 16
    Scan.need a (decide (n < m.ncell))
    let c2 ← readCell p m n
    Scan.need a (decide (f < c2.faces.length))
    let b := m.adj + 4 * (c2.adji + f)
    let back ← p b 4
    Scan.need b (decide (back = c.ix * 16 + face))
    pure (.into { cell := c2, entry := some (f, tri), tet := c2.tetWith tri, t := t })
  | 1 => do
    Scan.need a (decide (code / 2 ^ 16 % 2 ^ 14 = 0))
    pure (.boundary (code % 2 ^ 16))
  | 2 => pure (.remote (code % 2 ^ 30))
  | _ => throw (.malformed a)

-- points and values (R335)

/-- A point o + t·d. -/
def pointAt (o d : V3) (t : Q) : V3 := (o.add (V3.scale t d)).norm

/-- The exact barycentric weights of a point in a sub-tetrahedron. -/
def baryOf (c : Cell) (j : Nat) (q : V3) : List Q :=
  let v := c.tets.getD j []
  let p (i : Nat) : V3 := c.at (v.getD i 0)
  let vol := tetVolume (p 0) (p 1) (p 2) (p 3)
  [Q.div (tetVolume q (p 1) (p 2) (p 3)) vol, Q.div (tetVolume (p 0) q (p 2) (p 3)) vol,
   Q.div (tetVolume (p 0) (p 1) q (p 3)) vol, Q.div (tetVolume (p 0) (p 1) (p 2) q) vol]

/-- The lowest sub-tetrahedron that contains a point (R337). -/
def tetHolding (c : Cell) (q : V3) : Option Nat :=
  (List.range c.tets.length).find? (fun j => (baryOf c j q).all (fun b => decide (0 ≤ b.num)))

/-- The channel of a mode, with what reads it. -/
structure Chan where
  ch : Option Channel
  comp : Nat
  fp : Word

/-- A sum of weighted entries. -/
def readWeighted (p : Port) (ch : Channel) (fp : Word) (comp : Nat) : List (Nat × Q) → Scan Xr
  | [] => pure Xr.zero
  | (i, b) :: r => do
    let v ← readEntry p ch fp comp i
    let rest ← readWeighted p ch fp comp r
    pure (Xr.add .rn (Xr.mul b.toXr v) rest)

/-- The channel's value at t in a sub-tetrahedron (R335), a result of the call (R61); +0 where the mesh has none. -/
def valueAt (p : Port) (k : Chan) (o d : V3) (c : Cell) (j : Nat) (t : Word) : Scan Word :=
  match k.ch with
  | none => pure 0
  | some ch =>
    if ch.byCell then do
      let v ← readEntry p ch k.fp k.comp c.ix
      pure (outF32 k.fp .rn v)
    else do
      let q ← Scan.num t
      let v ← readWeighted p ch k.fp k.comp ((c.tets.getD j []).zip (baryOf c j (pointAt o d q)))
      pure (outF32 k.fp .rn v)

-- the modes of MWALK along a ray (R336)

/-- What a walk along a ray is given: the port, the mesh, the ray, TMAX, the mode, the channel, L and CAP. -/
structure Trip where
  p : Port
  m : Mesh
  o : V3
  d : V3
  tmax : Word
  mode : Nat
  chan : Chan
  level : Word
  cap : Nat

/-- What it gathers: ACC, the event records, and the sign of the start cell's value against L. -/
structure Haul where
  acc : Word
  recs : List (List Byte)
  side : Option Int

/-- How a call of the cell walker stops: status, INFO, t, and where. -/
structure Halt where
  code : Nat
  info : Nat
  t : Word
  at_ : Stand
  d3 : Word

/-- The sign of a value against the level, which is an operand of the call (R61); none for NaN. -/
def sideOf (fp v l : Word) : Option Int :=
  let x := Xr.sub .rn (f32 v) (inF32 fp l)
  if x.isNan then none else if x.isZero then some 0 else if Xr.lt x Xr.zero then some (-1) else some 1

/-- .ISO in one segment (R336): the t of the crossing. -/
def isoIn (fp t0 t1 f0 f1 l : Word) : Option Word :=
  match sideOf fp f0 l, sideOf fp f1 l with
  | some a, some b =>
    if 0 < a * b then none
    else if Xr.eq (f32 f0) (f32 f1) then some t0
    else
      let n := Xr.mul (Xr.sub .rn (f32 t1) (f32 t0)) (Xr.sub .rn (inF32 fp l) (f32 f0))
      some (outF32 fp .rn (Xr.add .rn (f32 t0) (Xr.div n (Xr.sub .rn (f32 f1) (f32 f0)))))
  | none, _ => none
  | some _, none => none

/-- .ISO over the segments of a cell. -/
def isoSegments (g : Trip) (w : Stand) : List (Nat × Word × Word) → Scan (Option Halt)
  | [] => pure none
  | (j, t0, t1) :: r => do
    let f0 ← valueAt g.p g.chan g.o g.d w.cell j t0
    let f1 ← valueAt g.p g.chan g.o g.d w.cell j t1
    match isoIn g.chan.fp t0 t1 f0 f1 g.level with
    | some t => do
      let v ← valueAt g.p g.chan g.o g.d w.cell j t
      pure (some { code := RayCode.isohit, info := 0, t := t, at_ := { w with tet := j }, d3 := v })
    | none => isoSegments g w r

/-- .INTEGRATE over the segments of a cell (R336): ACC is an operand and a result of each sum (R61). -/
def sumSegments (g : Trip) (c : Cell) : Word → List (Nat × Word × Word) → Scan Word
  | acc, [] => pure acc
  | acc, (j, t0, t1) :: r => do
    let f0 ← valueAt g.p g.chan g.o g.d c j t0
    let f1 ← valueAt g.p g.chan g.o g.d c j t1
    let x := Xr.div (Xr.mul (Xr.sub .rn (f32 t1) (f32 t0)) (Xr.add .rn (f32 f0) (f32 f1))) (.fin false 2 1)
    sumSegments g c (outF32 g.chan.fp .rn (Xr.add .rn (inF32 g.chan.fp acc) (f32 (outF32 g.chan.fp .rn x)))) r

/-- The event record of a cell, left at t1 in a sub-tetrahedron (R336). -/
def eventRecord (g : Trip) (w : Stand) (last : Nat) (t1 : Word) (face adj : Nat) : Scan (List Byte) := do
  let v0 ← valueAt g.p g.chan g.o g.d w.cell w.tet w.t
  let v1 ← valueAt g.p g.chan g.o g.d w.cell last t1
  pure (leBytes 4 w.cell.ix ++ leBytes 4 w.cell.tag.toNat ++ leBytes 4 w.t.toNat ++ leBytes 4 t1.toNat ++ leBytes 4 v0.toNat ++
    leBytes 4 v1.toNat ++ leBytes 1 face ++ leBytes 1 w.cell.kind ++ leBytes 2 0 ++ leBytes 4 adj)

/-- The segments of a cell that a walk has entered, up to a limit. -/
def cellSegments (g : Trip) (w : Stand) (limit : Word) : Scan (List (Nat × Word × Word)) :=
  tetSegments g.chan.fp g.o g.d w.cell limit (w.cell.tets.length + 1) w.tet (w.entry.map (·.2)) w.t

/-- What a mode does in a cell, between its t and a limit, left in sub-tetrahedron last through a face with its adjacency code; it steps
between the sub-tetrahedra where the mode needs them (R334, R336). -/
def inCell (g : Trip) (w : Stand) (h : Haul) (last : Nat) (limit : Word) (face adj : Nat) : Scan (Haul × Option Halt) := do
  match g.mode with
  | 0 => do
    let r ← eventRecord g w last limit face adj
    pure ({ h with recs := h.recs ++ [r] }, none)
  | 1 =>
    match g.chan.ch with
    | some ch =>
      if ch.byCell then do
        let v ← valueAt g.p g.chan g.o g.d w.cell w.tet w.t
        let s := sideOf g.chan.fp v g.level
        let first := match h.side with | some a => some a | none => s
        let found := match s, h.side with | some b, some a => decide (b = 0 ∨ a * b < 0) | some b, none => decide (b = 0) | none, _ => false
        pure ({ h with side := first }, if found then some { code := RayCode.isohit, info := 0, t := w.t, at_ := w, d3 := v } else none)
      else do
        let segs ← cellSegments g w limit
        let r ← isoSegments g w segs
        pure (h, r)
    | none => pure (h, none)
  | _ => do
    let segs ← cellSegments g w limit
    let a ← sumSegments g w.cell h.acc segs
    pure ({ h with acc := a }, none)

/-- The third result of a stop (R336). -/
def thirdOf (g : Trip) (h : Haul) : Word := match g.mode with | 0 => wd h.recs.length | 2 => h.acc | _ => 0

/-- A walk along a ray, for at most n cell steps (R336); the value that .ISO's D + 3 holds where it stops without a hit is that at
the stopping t. -/
def rideCells (g : Trip) : Nat → Stand → Haul → Scan (Haul × Halt)
  | n, w, h =>
    let stop (h : Haul) (code info : Nat) (t : Word) (at_ : Stand) : Scan (Haul × Halt) := do
      let v ← if g.mode = 1 then valueAt g.p g.chan g.o g.d at_.cell at_.tet t else pure (thirdOf g h)
      pure (h, { code := code, info := info, t := t, at_ := at_, d3 := v })
    match n with
    | 0 => stop h RayCode.steplimit 0 w.t w
    | n + 1 =>
      if g.mode = 0 ∧ g.cap ≤ h.recs.length then stop h RayCode.evfull 0 w.t w
      else do
        let (f, tri, tout) ← cellExit g.chan.fp g.o g.d w
        if Xr.le (f32 g.tmax) (f32 tout) then do
          let i ← Scan.freeWord
          let j ← Scan.freeWord
          let last := (tetHolding w.cell (pointAt g.o g.d (f32Q g.tmax))).getD w.tet
          let r ← inCell g w h last g.tmax i.toNat j.toNat
          match r.2 with
          | some e => pure (r.1, e)
          | none => stop r.1 RayCode.end_ 0 g.tmax { w with tet := last }
        else do
          let adj ← if g.mode = 0 then g.p (g.m.adj + 4 * (w.cell.adji + f)) 4 else pure 0
          let here := { w with tet := w.cell.tetWith tri }
          let r ← inCell g w h here.tet tout f adj
          match r.2 with
          | some e => pure (r.1, e)
          | none => do
            let way ← followFace g.p g.m w.cell f tri tout
            match way with
            | .into v => rideCells g n v r.1
            | .boundary tag => stop r.1 RayCode.exit tag tout here
            | .remote ix => stop r.1 RayCode.remote ix tout here

/-- A walk along the exact segment from o to o + d, for at most n cell steps (R336). -/
def seekCells (p : Port) (fp : Word) (m : Mesh) (o d : V3) : Nat → Stand → Scan Halt
  | n, w =>
    if d.isZero then pure { code := RayCode.located, info := 0, t := w.t, at_ := w, d3 := 0 }
    else
      match n with
      | 0 => pure { code := RayCode.steplimit, info := 0, t := w.t, at_ := w, d3 := wd w.tet }
      | n + 1 => do
        let (f, tri, tout) ← cellExit fp o d w
        let last := w.cell.tetWith tri
        let here := { w with tet := last }
        if Xr.le (.fin false 1 1) (f32 tout) then pure { code := RayCode.located, info := 0, t := w.t, at_ := here, d3 := wd last }
        else do
          let way ← followFace p m w.cell f tri tout
          match way with
          | .into v => seekCells p fp m o d n v
          | .boundary tag => pure { code := RayCode.exit, info := tag, t := tout, at_ := here, d3 := wd last }
          | .remote ix => pure { code := RayCode.remote, info := ix, t := tout, at_ := here, d3 := wd last }

/-- The cell steps of a call (R336). -/
def stepLimit : Nat := 2 ^ 20

-- the calls, on a slot that is running one (R336, R337)

/-- The words of a point, rounded. -/
def vecWords (fp : Word) (v : V3) : List Word := [rnF fp v.x, rnF fp v.y, rnF fp v.z]

/-- A call that stops at the step limit waits for its end (R336). -/
def limitBeat (x : Slot) (t : Word) (cell : Nat) (d3 : Word) : Beat := .go { x with stop := some (.steps t cell d3) }

/-- A call that ends: its status and quad. -/
def endBeat (x : Slot) (code info : Nat) (d1 d2 d3 : Word) : Beat :=
  let st := statusWord code info 0 false
  .out (x.done st 0) [st, d1, d2, d3]

/-- What LOCATED sets besides MESH (R337). -/
def located (x : Slot) (w : Stand) (q : V3) (qw : List Word) : Beat :=
  let j := (tetHolding w.cell q).getD w.tet
  let b := (baryOf w.cell j q).map (rnF x.fp)
  let y := x.put [(0, wAt qw 0), (1, wAt qw 1), (2, wAt qw 2), (22, wd w.cell.ix), (23, Stand.walk { w with tet := j }),
    (24, wAt b 0), (25, wAt b 1), (26, wAt b 2), (27, wAt b 3)]
  endBeat y RayCode.located 0 0x3F800000#32 (wd w.cell.ix) (wd j)

/-- The mean of a cell's vertices (R337). -/
def centroid (c : Cell) : V3 := (V3.scale (Q.div Q.one (Q.ofInt c.pos.length)) (c.pos.foldl (fun a e => a.add e.2) V3.zero)).norm

/-- MLOC (R337). -/
def runMloc (asid : Nat) (x : Slot) (qw : List Word) (b hint : Nat) : Scan Beat := do
  let p := scenePort asid
  if qw.any f32Nan then do
    let d1 ← Scan.freeWord
    let d2 ← Scan.freeWord
    let d3 ← Scan.freeWord
    pure (endBeat x RayCode.notfound 0 d1 d2 d3)
  else do
    let m ← readMesh p b
    Scan.need b (decide (hint < m.ncell))
    let c ← readCell p m hint
    let q ← Scan.vec qw
    let o := centroid c
    let h ← seekCells p x.fp m o (q.sub o) stepLimit { cell := c, entry := none, tet := startTet o (q.sub o) c Q.zero, t := 0 }
    if h.code = RayCode.located then pure (located (x.put [(20, wd b), (21, wd (b / 2 ^ 32))]) h.at_ q qw)
    else if h.code = RayCode.steplimit then pure (limitBeat x h.t h.at_.cell.ix h.d3)
    else pure (endBeat x RayCode.notfound h.info h.t (wd h.at_.cell.ix) h.d3)

/-- The triangle of entry that a WALK word names in a cell (R320, R336). -/
def entryTriOf (c : Cell) (walk : Word) : Option (Nat × List Nat) :=
  let f := bits walk.toNat 15 8
  let v := c.tets.getD (walk.toNat % 256) []
  let ts := faceTris (c.faces.getD f [])
  if c.faces.length ≤ f then none
  else some (f, (ts.find? (fun t => t.all (fun i => decide (i ∈ v)))).getD (ts.headD []))

/-- A walk's start in the slot's cell at t (R336). -/
def standAt (p : Port) (m : Mesh) (x : Slot) (cont : Bool) (o d : V3) (t : Word) : Scan Stand := do
  let i := (x.word 22).toNat
  Scan.need m.addr (decide (i < m.ncell))
  let c ← readCell p m i
  let q ← Scan.num t
  pure { cell := c, entry := if cont then entryTriOf c (x.word 23) else none,
         tet := startTet o d c q, t := t }

/-- MWALK.LOCATE on a slot whose DIR holds Q (R336, R337). -/
def runLocate (asid : Nat) (x : Slot) (cont : Bool) : Scan Beat := do
  let p := scenePort asid
  let qw := [x.word 4, x.word 5, x.word 6]
  let m ← readMesh p ((x.word 20).toNat + (x.word 21).toNat * 2 ^ 32)
  let o ← Scan.vec [x.word 0, x.word 1, x.word 2]
  let q ← Scan.vec qw
  let d := q.sub o
  let w ← standAt p m x cont o d (x.word 12)
  let h ← seekCells p x.fp m o d stepLimit w
  if h.code = RayCode.located then pure (located x h.at_ q qw)
  else
    let y := x.put [(22, wd h.at_.cell.ix), (23, h.at_.walk)]
    if h.code = RayCode.steplimit then pure (limitBeat (y.put [(12, h.t)]) h.t h.at_.cell.ix h.d3)
    else
      let z := vecWords x.fp (pointAt o d (f32Q h.t))
      pure (endBeat (y.put [(0, wAt z 0), (1, wAt z 1), (2, wAt z 2)]) h.code h.info h.t (wd h.at_.cell.ix) h.d3)

/-- The channel of a control word (R335): BADSCENE where there is none, but for .EVENTS of a mesh without channels. -/
def chanOf (p : Port) (m : Mesh) (mode : Nat) (ctrl fp : Word) : Scan Chan := do
  let n := bits ctrl.toNat 19 16
  let comp := bits ctrl.toNat 21 20
  if mode = 0 ∧ m.nchan = 0 then pure ⟨none, comp, fp⟩
  else do
    Scan.need 0 (decide (n < m.nchan))
    let ch ← readChannel p m n
    Scan.need 0 (decide (comp < ch.comp))
    pure ⟨some ch, comp, fp⟩

/-- MWALK.EVENTS, .ISO or .INTEGRATE from the slot's cell at t (R336, R338). -/
def runWalk (asid team : Nat) (x : Slot) (cont : Bool) (mode : Nat) (ctrl par fp t : Word) : Scan Beat := do
  let p := scenePort asid
  let m ← readMesh p ((x.word 20).toNat + (x.word 21).toNat * 2 ^ 32)
  let ch ← chanOf p m mode ctrl fp
  let o ← Scan.vec [x.word 0, x.word 1, x.word 2]
  let d ← Scan.vec [x.word 4, x.word 5, x.word 6]
  let w ← standAt p m x cont o d t
  let g : Trip := { p := p, m := m, o := o, d := d, tmax := x.word 7, mode := mode, chan := ch, level := par, cap := bits ctrl.toNat 31 24 }
  let r ← rideCells g stepLimit w { acc := if mode = 2 then par else 0, recs := [], side := none }
  let h := r.2
  (fun s => (.ok (), writeAs s s.order.actor Acc.store (.scratch team par.toNat) r.1.recs.flatten) : Scan Unit)
  let y := x.put [(22, wd h.at_.cell.ix), (23, h.at_.walk), (24, h.t), (25, if mode = 2 then r.1.acc else 0),
    (26, if mode = 0 then wd r.1.recs.length else 0), (27, 0)]
  if h.code = RayCode.steplimit then pure (limitBeat y h.t h.at_.cell.ix h.d3)
  else pure (endBeat y h.code h.info h.t (wd h.at_.cell.ix) h.d3)

end Sys2Proof.Machine
end

