-- ==== Sys2Proof/Machine/Ray.lean ====
section
/-! DEFINITION. The ray instructions, their commands and the tile pre-pass (R322 to R326, R332, R333, R352 to R357). -/

namespace Sys2Proof.Machine

/-- Slot n of a team. -/
def slotOfTeam (s : State) (id n : Nat) : Slot := (kfind (getTeam s id).slots n).getD Slot.initial

/-- Stores slot n of a team. -/
def setSlot (s : State) (id n : Nat) (x : Slot) : State := modTeam s id (fun t => { t with slots := kset Slot.initial t.slots n x })

/-- The spill region of slot n that calls and evictions now use (R321). -/
def spillBase (t : Team) (n : Nat) : Option Nat :=
  if t.raysplLo.getLsbD 0 then some (bits t.raysplHi.toNat 19 0 * 2 ^ 32 + t.raysplLo.toNat / 1024 * 1024 + 1024 * n) else none

/-- A command's quad reaches its thread, with what its slot has written (R322, R338). -/
def giveQuad (s : State) (c : RayCmd) (q : List Word) : State :=
  fillResult (resultOf s c.thread s.order.actor) c.thread c.tag (q.map (fun w => ⟨w, false⟩))

-- calls (R324 to R327)

/-- What a slot's move leaves: the slot, and the quad it delivers, if any. -/
structure Ran where
  s : State
  x : Slot
  quad : Option (List Word)

/-- A call that ends without a result (R327). -/
def failCall (x : Slot) (b : Bad) : Slot × List Word :=
  let end_ (st : Word) (a : Nat) : Slot × List Word := (x.done st a, [st, 0, 0, 0])
  match b with
  | .fault va f => end_ (statusWord RayCode.fault f.code 0 false) va
  | .malformed va => end_ (statusWord RayCode.badscene 0 0 false) va
  | .overflow => end_ (statusWord RayCode.stackovf 0 0 false) 0

/-- A tree walk or march that has no best hit, or ends without a result, shows its ray, and no hit (R320, R327). -/
def bareImage (x : Slot) : Slot :=
  let y := match x.call with | some c => x.put [(3, wAt c.a 3), (7, wAt c.a 7)] | none => x
  { (y.put [(12, 0), (13, 0), (14, 0), (15, 0), (16, noInst), (17, 0), (18, 0), (19, 0)]) with obj := [] }

/-- A move of a call made; what it comes to where it fails is that of slot x0. -/
def runBeat (x0 : Slot) (m : Scan Beat) (s : State) : Ran :=
  let r := m.run.run s
  match r.1 with
  | .error b => let f := failCall x0 b; { s := r.2, x := f.1, quad := some f.2 }
  | .ok (.go x) => { s := r.2, x := x, quad := none }
  | .ok (.out x q) => { s := r.2, x := x, quad := some q }

/-- What a slot's region holds comes back: its image, its path and the stack entries that the engine held (R324, R332). The engine keeps
the rest of the walk itself (log entry 39). -/
def reload (asid : Nat) (x : Slot) : Scan Slot :=
  match x.evictedAt with
  | none => pure x
  | some b => do
    let ws ← spillRead asid b 40
    let es ← spillRead asid (entryVa b x.spilled) (4 * x.stack.length)
    let entry (i : Nat) : StackEntry := { ref := Word.pair (wAt es (4 * i)) (wAt es (4 * i + 1)), t := wAt es (4 * i + 2), w := wAt es (4 * i + 3) }
    pure ({ x with stack := (List.range x.stack.length).reverse.map entry, evictedAt := none }.put
      (((List.range 32).map (fun i => (i, wAt ws i))) ++ [(29, x.word 29)]))

/-- What a slot gives up to its region (R321): its image, its path, and the stack entries that the engine holds. -/
def spillSlot (asid b : Nat) (x : Slot) : Scan Unit := do
  spillWrite asid b ((List.range 32).map x.word)
  spillWrite asid (b + 0x80) ((List.range 4).flatMap (fun i => let a := ((x.lvls[i]?).map Lvl.addr).getD 0; [wd a, wd (a / 2 ^ 32)]))
  spillWrite asid (entryVa b x.spilled) (x.stack.reverse.flatMap StackEntry.words)

/-- DIR is zero, a component is NaN, or TMIN > TMAX (R326). -/
def missesAll (a : List Word) : Bool :=
  (a.take 8).any f32Nan || ((a.drop 4).take 3).all (fun w => (f32 w).isZero) || Xr.lt (f32 (wAt a 7)) (f32 (wAt a 3))

/-- The ray of a group in the image (R320, R322). -/
def rayWords (a : List Word) : List (Nat × Word) := (List.range 8).map (fun i => (i, wAt a i))

/-- A pair as an address. -/
def pairAddr (b : List Word) : Nat := (wAt b 0).toNat + (wAt b 1).toNat * 2 ^ 32

/-- A slot running a call. -/
def Slot.running (x : Slot) (c : RayCmd) (spl : Option Nat) : Slot :=
  { (x.put [(28, 0), (29, wd (2 ^ 11)), (30, 0), (31, 0)]) with call := some c, spl := spl, obj := [] }

/-- The end with MISS before any memory is read (R326). -/
def missNow (s : State) (x : Slot) : Ran :=
  { s := s, x := (x.put [(16, noInst)]).done 0 0, quad := some [0, 0, 0, noInst] }

/-- A control word's reserved bits (R322). -/
def ctrlBad (c : Word) : Bool := decide (bits c.toNat 23 22 ≠ 0)

/-- TRAV starts (R326, R328). What the slot holds of a mesh stays (R319). -/
def startTrav (s : State) (id n : Nat) (x : Slot) (c : RayCmd) : Ran :=
  let t := getTeam s id
  let y := (x.put (rayWords c.a ++ [(8, wAt c.c 1), (9, wAt c.c 0), (10, wAt c.b 0), (11, wAt c.b 1)])).running c (spillBase t n)
  if ctrlBad (wAt c.c 0) then runBeat (bareImage y) (throw (.malformed 0)) s
  else if missesAll c.a then missNow s y
  else
    runBeat (bareImage y) (do
      let (root, nft) ← readScene (scenePort t.asid) (pairAddr c.b)
      let z ← pushEntry t.asid { y with nft := nft } { ref := root, t := wAt c.a 3, w := 0 }
      pure (.go z)) s

/-- Reads n words of a team's scratch. -/
def readScratchWords (id : Nat) : Nat → Nat → Scan (List Word)
  | _, 0 => pure []
  | a, n + 1 => do
    let w ← (fun s => match readAs s s.order.actor Acc.read (.scratch id a) 4 with
      | .ok (v, t) => (.ok (wd v), t)
      | .error f => (.error (.fault a f), s) : Scan Word)
    let r ← readScratchWords id (a + 4) n
    pure (w :: r)

/-- A march of a prune block (R353, R354). -/
def blockMarch (id asid : Nat) (x : Slot) (a : Nat) : Scan Beat := do
  let d ← (fun s => (.ok (dataSize (getTeam s id).desc), s) : Scan Nat)
  Scan.need a (decide (a % 16 = 0 ∧ a + 64 ≤ d))
  let h ← readScratchWords id a 16
  let len := (wAt h 0).toNat
  let flags := fieldAt h 6 1
  Scan.need a (decide (len ≤ 1008 ∧ flags < 8 ∧ (flags ≠ 0 → len = 0) ∧ fieldAt h 7 1 = 0 ∧ fieldAt h 0x2C 4 = 0 ∧
    fieldAt h 0x38 8 = 0 ∧ a + 64 + 4 * len ≤ d))
  let name := 2 ^ 64 + a
  let m : MarchSt := { prog := name, ident := wAt h 10, callix := wAt h 10, userLo := wAt h 12, userHi := wAt h 13, base := 0, evals := 0 }
  if flags % 2 = 1 then pure (marchNone x m)
  else do
    let p := scenePort asid
    let seg ← nodeSegment (x.rayAt 0) ((h.drop 4).take 6) (x.word 3) (x.word 7)
    if flags / 2 % 2 = 1 then marchStart asid x m 0 true seg
    else do
      let n ← readNode p (fieldAt h 8 8)
      if flags / 4 = 1 then do
        let y ← if seg.isNone then pure x else needProg asid x name n
        marchStart asid y m 0 false seg
      else do
        let code ← readScratchWords id (a + 64) len
        if seg.isNone then pure (marchNone x m)
        else do
          let g ← checkProg p (toEnd code) (a + 64) (fieldAt h 4 2) n.const
          marchStart asid { x with progs := kput x.progs name g } m 0 false seg

/-- A march of a field node named by its address (R355). -/
def nodeMarch (asid : Nat) (x : Slot) (a : Nat) : Scan Beat := do
  let n ← readNode (scenePort asid) a
  let seg ← nodeSegment (x.rayAt 0) n.box (x.word 3) (x.word 7)
  let m : MarchSt := { prog := a, ident := n.callid, callix := n.callid, userLo := n.userLo, userHi := n.userHi, base := 0, evals := 0 }
  let y ← if n.opaq || seg.isNone then pure x else needProg asid x a n
  marchStart asid y m 0 n.opaq seg

/-- MARCH starts (R355). -/
def startMarch (s : State) (id n : Nat) (x : Slot) (c : RayCmd) : Ran :=
  let t := getTeam s id
  let y := bareImage ((x.put (rayWords c.a ++ [(9, wAt c.c 0), (10, wAt c.b 0), (11, wAt c.b 1)])).running c (spillBase t n))
  if bits (wAt c.c 0).toNat 31 16 ≠ 0 then runBeat y (throw (.malformed 0)) s
  else if missesAll c.a then missNow s y
  else runBeat y (if 2 ≤ c.m then blockMarch id t.asid y (wAt c.b 0).toNat else nodeMarch t.asid y (pairAddr c.b)) s

/-- A call of the cell walker that finds no cell to start from (R336): the other registers of its quad have no stated value. -/
def noCell (x : Slot) : Scan Beat := do
  let d1 ← Scan.freeWord
  let d2 ← Scan.freeWord
  let d3 ← Scan.freeWord
  pure (endBeat x RayCode.nocell 0 d1 d2 d3)

/-- MLOC starts (R337). -/
def startMloc (s : State) (id n : Nat) (x : Slot) (c : RayCmd) : Ran :=
  let t := getTeam s id
  let y := (x.put [(9, wAt c.c 0), (10, wAt c.b 0), (11, wAt c.b 1)]).running c (spillBase t n)
  if ctrlBad (wAt c.c 0) then runBeat y (throw (.malformed 0)) s
  else runBeat y (runMloc t.asid y c.a (pairAddr c.b) (wAt c.c 1).toNat) s

/-- MWALK.LOCATE starts (R336). -/
def startLocate (s : State) (id n : Nat) (x : Slot) (c : RayCmd) : Ran :=
  let t := getTeam s id
  let cont := decide (c.e % 2 = 1)
  let last := (x.word 28).toNat % 256
  let root := if cont then [(9, wAt c.c 0), (10, x.word 20), (11, x.word 21)] else [(9, wAt c.c 0), (10, wAt c.b 0), (11, wAt c.b 1)]
  let y := (x.put root).running c (spillBase t n)
  if ctrlBad (wAt c.c 0) then runBeat y (throw (.malformed 0)) s
  else if cont then
    (if last = RayCode.steplimit then runBeat y (runLocate t.asid y true) s else runBeat y (noCell y) s)
  else if ¬ (wAt c.b 0 = x.word 20 ∧ wAt c.b 1 = x.word 21) ∨ last ≠ RayCode.located then runBeat y (noCell y) s
  else if (c.a.take 3).any f32Nan then
    runBeat y (do
      let d1 ← Scan.freeWord
      let d2 ← Scan.freeWord
      let d3 ← Scan.freeWord
      pure (.out x [statusWord RayCode.notfound 0 0 false, d1, d2, d3])) s
  else
    let z := y.put [(4, wAt c.a 0), (5, wAt c.a 1), (6, wAt c.a 2), (3, 0), (7, 0x3F800000#32), (12, 0)]
    runBeat z (runLocate t.asid z false) s

/-- MWALK.EVENTS, .ISO and .INTEGRATE start (R336). -/
def startWalk (s : State) (id n : Nat) (x : Slot) (c : RayCmd) : Ran :=
  let t := getTeam s id
  let cont := decide (c.e % 2 = 1)
  let last := (x.word 28).toNat % 256
  let mesh := decide (x.word 20 = 0 ∧ x.word 21 = 0)
  let ctrl := wAt c.c 0
  if cont then
    let y := (x.put [(9, ctrl), (10, x.word 20), (11, x.word 21)]).running c (spillBase t n)
    if ctrlBad ctrl then runBeat y (throw (.malformed 0)) s
    else if mesh then runBeat y (noCell y) s
    else runBeat y (runWalk t.asid id y true c.m ctrl (wAt c.c 1) c.fpctl (if last = RayCode.entermesh then x.word 12 else x.word 24)) s
  else
    let y := (x.put (rayWords c.a ++ [(9, ctrl), (10, wAt c.b 0), (11, wAt c.b 1)])).running c (spillBase t n)
    if ctrlBad ctrl then runBeat y (throw (.malformed 0)) s
    else if missesAll c.a then missNow s y
    else if mesh || !decide (wAt c.b 0 = x.word 20 ∧ wAt c.b 1 = x.word 21) then runBeat y (noCell y) s
    else runBeat y (runWalk t.asid id y false c.m ctrl (wAt c.c 1) c.fpctl (wAt c.a 3)) s

/-- A command that ends at once with a status and leaves the slot as it is. -/
def endHere (s : State) (x : Slot) (code info : Nat) : Ran := { s := s, x := x, quad := some [statusWord code info 0 false, 0, 0, 0] }

/-- A parked slot whose walk goes on for a command: RUNNING, in the region the call began with (R319, R332). -/
def Slot.resumed (x : Slot) (k c : RayCmd) : Slot :=
  { x with call := some { k with thread := c.thread, tag := c.tag } }.put [(28, 0), (29, wd (2 ^ 11)), (30, 0), (31, 0)]

/-- RRES (R332): the parked walk goes on with a verdict; its next result goes to this command. A verdict that the park does not take is
BADMODE and leaves it parked; reserved control bits leave it too (DESIGN CHOICE, log entry 39). -/
def startRres (s : State) (id : Nat) (x : Slot) (c : RayCmd) : Ran :=
  let asid := (getTeam s id).asid
  if ctrlBad (wAt c.c 0) then endHere s x RayCode.badscene 0
  else
    match x.call with
    | none => endHere s x RayCode.badmode 0
    | some k =>
      runBeat (bareImage x) (do
        let y ← reload asid x
        match verdict asid (y.resumed k c) ((y.word 28).toNat % 256) c.m c.a with
        | some v => v
        | none => do
          let d1 ← Scan.freeWord
          let d2 ← Scan.freeWord
          let d3 ← Scan.freeWord
          pure (.out y [statusWord RayCode.badmode 0 0 false, d1, d2, d3])) s

/-- RGET (R333). -/
def getChunk (x : Slot) (m n : Nat) : List Word :=
  let o := if x.obj.length = 6 then x.obj else x.rayAt 0
  if m = 1 then (if n = 0 then [wAt o 0, wAt o 1, wAt o 2, x.word 3] else [wAt o 3, wAt o 4, wAt o 5, x.word 7])
  else (List.range 4).map (fun j => x.word (4 * n + j))

/-- RGET starts (R333); an evicted slot comes back first (R332). Reserved control bits, or a region that cannot be read, end it and leave
the slot as it is (DESIGN CHOICE, log entry 39). -/
def startRget (s : State) (id : Nat) (x : Slot) (c : RayCmd) : Ran :=
  if ctrlBad (wAt c.c 0) then endHere s x RayCode.badscene 0
  else
    let r := (reload (getTeam s id).asid x).run.run s
    match r.1 with
    | .ok y => { s := r.2, x := y, quad := some (getChunk y c.m (wAt c.b 0).toNat) }
    | .error (.fault _ f) => endHere r.2 x RayCode.fault f.code
    | .error (.malformed _) => endHere r.2 x RayCode.badscene 0
    | .error .overflow => endHere r.2 x RayCode.stackovf 0

/-- RREL starts (R325); with reserved control bits it leaves the slot as it is (DESIGN CHOICE, log entry 39). -/
def startRrel (s : State) (x : Slot) (c : RayCmd) : Ran :=
  { s := s, x := if ctrlBad (wAt c.c 0) then x else { Slot.initial with queue := x.queue }, quad := none }

/-- A slot that a call may start on; one that holds no ray has no instance either (R319, R320). -/
def Slot.ready (x : Slot) : Slot := if x.state = 0 then x.put [(16, noInst)] else x

/-- A command finds the slot in a state it does not allow (R325). -/
def badState (s : State) (x : Slot) : Ran := endHere s x RayCode.badstate 0

/-- A command starts on a slot that runs no call (R324, R325). -/
def startCommand (s : State) (id n : Nat) (x : Slot) (c : RayCmd) : Ran :=
  let free := decide (x.state = 0 ∨ x.state = 3)
  let y := x.ready
  match c.sub with
  | 0 => if free then startTrav s id n y c else badState s x
  | 1 => if free then (if c.m = 3 then startLocate s id n y c else startWalk s id n y c) else badState s x
  | 2 => if free then startMloc s id n y c else badState s x
  | 3 => if free then startMarch s id n y c else badState s x
  | 4 => if x.state = 2 then startRres s id x c else badState s x
  | 5 => startRrel s x c
  | _ => startRget s id x c

/-- What a slot's move leaves, stored; a quad goes to the command that waits for it. -/
def settle (id n : Nat) (c : RayCmd) (r : Ran) : State :=
  let s := setSlot r.s id n r.x
  match r.quad with | some q => giveQuad s c q | none => s

/-- A MARCH.BLK waits for its thread's earlier FPRUNEs (R357). -/
def waitsForPrune (s : State) (id : Nat) (c : RayCmd) : Bool :=
  decide (c.sub = 3 ∧ 2 ≤ c.m) && (getCore s (getTeam s id).home).pruneq.any (fun q => decide (q.thread = c.thread ∧ q.tag < c.tag))

/-- RAY_COMMAND_START (R324): the slot's next command starts, or its call in progress makes one more move, a call that was stopped from
its region (R324, R357). -/
def execRayCommandStart (team slot : Nat) (s : State) : Host.Outcome State Fault Refusal :=
  .next (match kfind s.teams team with
    | none => s
    | some t =>
      let x := slotOfTeam s team slot
      if x.stop.isSome ∨ t.hold = .retiring then s
      else if x.state = 1 then
        match x.call with
        | some c => settle team slot c (runBeat (bareImage x) (do let y ← reload t.asid x; treeBeat t.asid y) (asAgent s (slotAgent team slot)))
        | none => s
      else
        match x.queue with
        | [] => s
        | c :: q => if waitsForPrune s team c then s
          else settle team slot c (startCommand (startCall s (slotAgent team slot) c.after) team slot { x with queue := q } c))

/-- STEPLIMIT (R336). -/
def execSteplimit (team slot : Nat) (s : State) : Host.Outcome State Fault Refusal :=
  .next (let x := slotOfTeam s team slot
    match x.stop, x.call with
    | some (.steps t cell d3), some c =>
      settle team slot c (runBeat x (do
        let y ← reload (getTeam s team).asid x
        pure (endBeat y RayCode.steplimit 0 t (wd cell) d3)) (asAgent s (slotAgent team slot)))
    | some (.work _ _), _ => s
    | some (.steps _ _ _), none => s
    | none, _ => s)

/-- FWORK (R348, R350, R355): a MARCH ends; inside a tree walk the segment's start is offered as an uncertified hit, whose face has
no stated value, and the walk goes on. -/
def execFwork (team slot : Nat) (s : State) : Host.Outcome State Fault Refusal :=
  .next (let x := slotOfTeam s team slot
    match x.stop, x.call, x.march with
    | some (.work t0 t1), some c, some m =>
      let y := { x with stop := none }
      let s := asAgent s (slotAgent team slot)
      let asid := (getTeam s team).asid
      if y.isMarch then settle team slot c (runBeat y (do
        let y ← reload asid y
        pure (finishMarch y m RayCode.fwork 0 t0 t1 0 (wd 65536))) s)
      else
        settle team slot c (runBeat (bareImage y) (do
          let y ← reload asid y
          let f ← Scan.freeWord
          let level := y.lvls.length
          let z ← dropTo asid m.base 54 { y with march := none }
          pure (afterAccept (z.accept (marchHit z m level t0 t1 false (f.getLsbD 0))))) s)
    | some (.work _ _), some _, none => s
    | some (.work _ _), none, _ => s
    | some (.steps _ _ _), _, _ => s
    | none, _, _ => s)

/-- SLOT_EVICT (R332); the slots of a team that retires write nothing more (R424). -/
def execSlotEvict (team slot : Nat) (s : State) : Host.Outcome State Fault Refusal :=
  .next (match kfind s.teams team with
    | none => s
    | some t =>
      let x := slotOfTeam s team slot
      match spillBase t slot with
      | none => s
      | some b =>
        if x.state ≠ 2 ∨ x.evictedAt.isSome = true ∨ s.clock < x.parkedAt + 65536 ∨ t.hold = .retiring then s
        else
          let r := (spillSlot t.asid b x).run.run (asAgent s (slotAgent team slot))
          match r.1 with
          | .ok _ => setSlot r.2 team slot { x with evictedAt := some b }
          | .error _ => r.2)

-- the tile pre-pass (R352, R353, R356)

/-- The stack depth before each word of a checked program. -/
def depthsBefore : List Word → Nat → List Nat
  | [], _ => []
  | w :: r, d => d :: depthsBefore r (d - (opShape (opcOf w)).2.1 + (opShape (opcOf w)).2.2)

/-- The start of the span that ends before word j and leaves depth n + 1 (R352): it begins at depth n; once above n the stack never
falls below n + 1; the XF and XPOP of it are balanced. Going back from its end, up says that the word that rises from n is yet to come:
only XF and XPOP stand before it, as in R352's own example. A copy of an entry below n leaves that entry alone, but a SWAP or ROT that
moves one does not give a span its own value (DEDUCED, log entry 37). -/
def spanStart (code : List Word) (deps : List Nat) (n : Nat) : Bool → Nat → Int → Option Nat
  | _, 0, _ => none
  | up, j + 1, bal =>
    let op := opcOf (code.getD j 0)
    let bal := bal + (if op = 7 then 1 else if op = 6 then -1 else 0)
    let d := deps.getD j 0
    let frame := decide (op = 6 ∨ op = 7)
    let moves := decide ((op = 9 ∧ d < n + 2) ∨ (op = 12 ∧ d < n + 3))
    if bal < 0 ∨ d < n ∨ moves then none
    else if up && decide (n < d) then spanStart code deps n true j bal
    else if d = n && (up || frame) then (if bal = 0 then some j else spanStart code deps n false j bal)
    else none

/-- A word from i to j − 1 copies an entry that lies below depth n (R352). -/
def copiesBelow (code : List Word) (deps : List Nat) (n i j : Nat) : Bool :=
  (upTo i (j - 1)).any (fun w =>
    let op := opcOf (code.getD w 0)
    let d := deps.getD w 0
    decide ((op = 8 ∧ d ≤ n) ∨ (op = 11 ∧ d ≤ n + 1)))

/-- The words a prunable operation at j loses, when its operands' intervals decide it (R352); an empty interval has no order. Span A stays
where span B copies from it or below it, for each removal keeps the program's value (DEDUCED, log entry 37). -/
def pruneAt (code pool : List Word) (deps : List Nat) (j : Nat) (a b : Ivl) : List Nat :=
  let op := opcOf (code.getD j 0)
  let d := deps.getD j 0
  let gap := if 0x15 ≤ op then gapOf (wAt pool (opK (code.getD j 0))) else Xr.zero
  let below (x y : Ivl) : Bool := Xr.le (Xr.add .rn x.hi gap) y.lo
  let isMin := decide (op = 0x13 ∨ op = 0x15)
  match spanStart code deps (d - 1) true j 0 with
  | none => []
  | some jb =>
    match spanStart code deps (d - 2) true jb 0 with
    | none => []
    | some ja =>
      if a.isEmpty || b.isEmpty then []
      else if (if isMin then below a b else below b a) then upTo jb j
      else if (if isMin then below b a else below a b) && !copiesBelow code deps (d - 1) jb j then j :: (upTo ja (jb - 1))
      else []

/-- All the words removed (R352). -/
def pruneAll (code pool : List Word) (deps : List Nat) : List (Nat × DWord × DWord) → List Nat → List Nat
  | [], gone => gone
  | (j, a, b) :: r, gone =>
    if j ∈ gone then pruneAll code pool deps r gone
    else pruneAll code pool deps r ((pruneAt code pool deps j (readIvl a) (readIvl b)).filter (fun i => !decide (i ∈ gone)) ++ gone)

/-- The MIN, MAX, SMIN and SMAX among the words removed: one inside a removed span is removed with it (R352, R356; log entry 37). -/
def prunedOps (code : List Word) (gone : List Nat) : Nat :=
  (gone.filter (fun i => decide (0x13 ≤ opcOf (code.getD i 0) ∧ opcOf (code.getD i 0) ≤ 0x16))).length

/-- The greater (or lesser) of two bounds. -/
def pickBound (hi : Bool) (a b : Word) : Word :=
  if f32Nan a then b else if f32Nan b then a
  else if (if hi then Xr.le (f32 a) (f32 b) else Xr.le (f32 b) (f32 a)) then a else b

/-- The block that an FPRUNE writes, and its quad (R352, R353, R356). -/
def pruneBlock (asid : Nat) (c : PruneCmd) : Scan (List Byte × List Word) := do
  let p := scenePort asid
  let n ← readNode p c.node
  let q := (List.range 3).map (fun i => pickBound false (wAt c.box i) (wAt n.box i)) ++
    (List.range 3).map (fun i => pickBound true (wAt c.box (4 + i)) (wAt n.box (3 + i)))
  let block (flags : Nat) (code : List Word) : List Byte :=
    leBytes 4 code.length ++ leBytes 2 n.nconst ++ leBytes 1 flags ++ leBytes 1 0 ++ leBytes 8 c.node ++
      q.flatMap (fun w => leBytes 4 w.toNat) ++ leBytes 4 n.callid.toNat ++ leBytes 4 0 ++ leBytes 4 n.userLo.toNat ++ leBytes 4 n.userHi.toNat ++
      leBytes 8 0 ++ code.flatMap (fun w => leBytes 4 w.toNat)
  if n.opaq then pure (block 2 [], [0x23, 0, 0, 0])
  else do
    let ws ← readProgram p n.code n.codelen
    let (code, pool) ← checkProg p ws n.code n.nconst n.const
    let r ← (intervalOps (sceneBricks asid) c.fpctl).eval (writeIvl Ivl.all) pool (writeIvl Ivl.all) false code 0 [] []
      ((List.range 3).map (fun i => writeIvl ⟨f32 (wAt q i), f32 (wAt q (3 + i))⟩)) []
    match r with
    | .call _ => pure (block 0 code, [0x23, wd code.length, 0, 0])
    | .value v tr =>
      let g := pruneAll code pool (depthsBefore code 0) tr []
      let spec := (List.range code.length).filter (fun i => !decide (i ∈ g)) |>.map (fun i => code.getD i 0)
      let f := readIvl v
      let none_ := f.isEmpty || Xr.lt Xr.zero f.lo || Xr.lt f.hi Xr.zero
      let big := decide (1008 < spec.length)
      let out := if none_ || big then [] else spec
      pure (block (b2n none_ + 4 * b2n big) out,
        if big then [0x24, 0, 0, 0] else [0x23, wd out.length, wd (prunedOps code g), wd g.length])

/-- FPRUNE_EXECUTE (R357); the command of a team that retires is dropped (R424). -/
def execFpruneExecute (core : Nat) (s : State) : Host.Outcome State Fault Refusal :=
  .next (match (getCore s core).pruneq with
    | [] => s
    | c :: q =>
      let s := modCore s core (fun x => { x with pruneq := q })
      if (getTeam s c.team).hold = .retiring then s
      else
        let me := slotAgent c.team 511
        let r := (pruneBlock (getTeam s c.team).asid c).run.run (startCall s me c.after)
        let give (s : State) (ws : List Word) : State := fillResult (resultOf s c.thread me) c.thread c.tag (ws.map (fun w => ⟨w, false⟩))
        match r.1 with
        | .ok (bs, quad) => give (writeAs r.2 me Acc.store (.scratch c.team c.block) bs) quad
        | .error b => give r.2 (failCall Slot.initial b).2)

-- issue (R322, R324, R354)

/-- A command enters its slot's queue (R324). -/
def enterSlot (s : State) (c : Ctx) (ctrl : Word) (a b x : List Word) : Act :=
  let id := keyTeam c.k
  let n := ctrl.toNat % 256
  let y := slotOfTeam s id n
  if !roomIn s (groupOf s c.k).core y.queue.length 4 then .error .stall
  else
    let cmd : RayCmd := { thread := c.k, tag := s.fresh, sub := c.raw.sub, m := c.raw.m, e := c.raw.e, a := a, b := b, c := x,
                          fpctl := fpctlOf s c, marchcfg := (getThread s c.k).marchcfg, after := kget [] s.order.acqView c.k }
    let s1 := postResult s c.k (if c.raw.sub = 5 then [] else dests c 4) none .plain
    .ok (setSlot { s1 with fresh := s.fresh + 1 } id n { y with queue := y.queue ++ [cmd] })

/-- The bits of a list of values. -/
def bitsOf (vs : List RVal) : List Word := vs.map RVal.bits

/-- A ray instruction's checks and capture (R324): na registers of A, nb of B and nc of C; one register of B or C may be any source. -/
def actRay (na nb nc : Nat) (c : Ctx) (s : State) : Act := do
  let t := teamOf s c.k
  let a ← if na = 0 then .ok [] else srcN s c c.raw.a na
  let b ← if nb = 0 then .ok [] else if nb = 1 then (src s c .int c.raw.b).map (fun v => [v]) else srcN s c c.raw.b nb
  let x ← if nc = 1 then (src s c .int c.raw.c).map (fun v => [v]) else srcN s c c.raw.c nc
  let ctrl := wAt (bitsOf x) 0
  if anyBad a || anyBad b || anyBad x then poisonTrap
  else if t.desc.rays ≤ ctrl.toNat % 256 then trapOf Trap.rayerr 1
  else
    let buf := (wAt (bitsOf x) 1).toNat
    let events := decide (c.raw.sub = 1 ∧ c.raw.m = 0)
    if events && decide (buf % 16 ≠ 0) then .error (.trap Trap.align 0 (placeOf .scratch buf))
    else if events && decide (dataSize t.desc < buf + 32 * bits ctrl.toNat 31 24) then .error (.trap Trap.space 0 (placeOf .scratch buf))
    else enterSlot s c ctrl (bitsOf a) (if c.raw.sub = 6 then [wd c.raw.b] else bitsOf b) (bitsOf x)

/-- MWALK reads Q for .LOCATE and a ray group otherwise; with CONT, neither A nor B (R336). -/
def actMwalk (c : Ctx) (s : State) : Act :=
  if c.raw.e % 2 = 1 then actRay 0 0 2 c s else actRay (if c.raw.m = 3 then 3 else 8) 2 2 c s

/-- MARCH names a node by a pair, or a block by one register (R354). -/
def actMarch (c : Ctx) (s : State) : Act := actRay 8 (if 2 ≤ c.raw.m then 1 else 2) 1 c s

/-- RRES reads A for .REPORT alone (R322). -/
def actRres (c : Ctx) (s : State) : Act := actRay (if c.raw.m = 3 then 4 else 0) 0 1 c s

/-- FPRUNE enters the pre-pass queue of its home engine (R354, R357). -/
def actFprune (c : Ctx) (s : State) : Act := do
  let t := teamOf s c.k
  let a ← srcN s c c.raw.a 8
  let b ← srcN s c c.raw.b 2
  let x ← src s c .int c.raw.c
  let at_ := x.bits.toNat
  if anyBad a || anyBad b || x.poison then poisonTrap
  else if at_ % 16 ≠ 0 then .error (.trap Trap.align 0 (placeOf .scratch at_))
  else if dataSize t.desc < at_ + 4096 then .error (.trap Trap.space 0 (placeOf .scratch at_))
  else if !roomIn s (groupOf s c.k).core (getCore s t.home).pruneq.length 8 then .error .stall
  else
    let cmd : PruneCmd := { team := keyTeam c.k, thread := c.k, tag := s.fresh, box := bitsOf a, node := pairAddr (bitsOf b), block := at_,
                            fpctl := fpctlOf s c, after := kget [] s.order.acqView c.k }
    let s1 := postResult s c.k (dests c 4) none .plain
    .ok (modCore { s1 with fresh := s.fresh + 1 } t.home (fun y => { y with pruneq := y.pruneq ++ [cmd] }))

/-- TRAV (R322, R328). -/
def execTrav (w : XForm) (s : State) : Host.Outcome State Fault Refusal := .next (issue (.trav w) (actRay 8 2 2) s)
/-- MWALK (R336). -/
def execMwalk (w : XForm) (s : State) : Host.Outcome State Fault Refusal := .next (issue (.mwalk w) actMwalk s)
/-- MLOC (R337). -/
def execMloc (w : XForm) (s : State) : Host.Outcome State Fault Refusal := .next (issue (.mloc w) (actRay 3 2 2) s)
/-- MARCH (R355). -/
def execMarch (w : XForm) (s : State) : Host.Outcome State Fault Refusal := .next (issue (.march w) actMarch s)
/-- RRES (R332). -/
def execRres (w : XForm) (s : State) : Host.Outcome State Fault Refusal := .next (issue (.rres w) actRres s)
/-- RREL (R325). -/
def execRrel (w : XForm) (s : State) : Host.Outcome State Fault Refusal := .next (issue (.rrel w) (actRay 0 0 1) s)
/-- RGET (R333). -/
def execRget (w : XForm) (s : State) : Host.Outcome State Fault Refusal := .next (issue (.rget w) (actRay 0 0 1) s)
/-- FPRUNE (R354). -/
def execFprune (w : XForm) (s : State) : Host.Outcome State Fault Refusal := .next (issue (.fprune w) actFprune s)

end Sys2Proof.Machine
end

