-- ==== Sys2Proof/Machine/Retire.lean ====
section
/-! DEFINITION. Retiring teams (R424) and killing grids (R426 to R429). -/

namespace Sys2Proof.Machine

/-- A thread that has ended (R178, R427). -/
def Thread.ended (t : Thread) : Thread :=
  { t with exited := true, pend := [], view := none, next := none, seq := none, wait := .none, joinPc := none, regs := { t.regs with x := [] } }

/-- A team has halted: no core that holds a group of it has a bundle in progress (R408). -/
def teamQuiet (s : State) (id : Nat) : Bool :=
  decide ((getTeam s id).hold = .halted) ||
    s.groups.all (fun e => decide (e.1 / 32 ≠ id) || e.2.swapped.isSome || (getCore s e.2.core).bundles.isEmpty)

/-- The entries of a key table that belong to none of the teams (keys are team · w + index). -/
def withoutTeams {α : Type} (w : Nat) (ids : List Nat) (m : KMap α) : KMap α := m.filter (fun e => !decide (e.1 / w ∈ ids))

/-- The units have ended the team's commands: engine, publish and matrix (R424). -/
def unitsEnded (s : State) (id : Nat) : Bool :=
  let c := getCore s (getTeam s id).home
  c.engq.all (fun q => decide (q.team ≠ some id)) && c.mxq.all (fun q => decide (q.team ≠ id)) &&
    s.pubs.all (fun p => decide (p.team ≠ some id))

/-- A team leaves the machine, with its groups, its threads and what the units hold of it. -/
def removeTeam (s : State) (id : Nat) : State :=
  let home := (getTeam s id).home
  let s := retireViews s id (getTeam s id).grid
  let s := if (getCore s home).mxOwner = some id then modCore s home (fun c => { c with mxOwner := none, mxCfg := 0, planes := [] }) else s
  let s := if (getCore s home).pruneq.any (fun q => decide (q.team = id)) then
      modCore s home (fun c => { c with pruneq := c.pruneq.filter (fun q => decide (q.team ≠ id)) }) else s
  { s with
    teams := kdel s.teams id, groups := withoutTeams 32 [id] s.groups, threads := withoutTeams 1024 [id] s.threads,
    rasterWaits := s.rasterWaits.filter (fun w => w.isEnd || decide (w.team ≠ id)),
    waits := s.waits.filter (fun w => match w with | .cont _ g => decide (g / 32 ≠ id) | .team _ => true) }

/-- A team's reclamation ends (R424, R132). -/
def reclaim (s : State) (id : Nat) : State :=
  match kfind s.teams id with
  | none => s
  | some t => if t.hold = .retiring ∧ unitsEnded s id = true then removeTeam (spillPending s id) id else s

/-- RECLAMATION_COMPLETE (R424). -/
def execReclamationComplete (team : Nat) (s : State) : Host.Outcome State Fault Refusal := .next (reclaim s team)

-- kills

/-- The teams of a grid: resident, and held by SAVE. -/
def residentOf (s : State) (pod : Nat) : List Nat := (s.teams.filter (fun e => decide (e.2.grid = pod))).map (·.1)
def savedOf (s : State) (pod : Nat) : List Nat := (s.saved.filter (fun t => decide (t.team.grid = pod))).map (·.id)

/-- The continuation pods in flight that hold swapped-out groups of the teams. -/
def contPods (s : State) (ids : List Nat) : List Nat :=
  ((s.groups.filter (fun e => decide (e.1 / 32 ∈ ids))).filterMap (fun e => e.2.swapped)).filter (fun p => (kfind s.flight p).isSome)

/-- A continuation pod of a killed grid completes with KILLED (R427). -/
def killCont (s : State) (pa : Nat) : State :=
  let s := { s with waits := s.waits.filter (fun w => match w with | .cont p _ => decide (p ≠ pa) | .team _ => true) }
  complete (dequeue s pa) pa stKilled

/-- The KILL record of a grid (R434). -/
def killRecord (s : State) (g : Grid) : State :=
  let c := g.killed.getD (0, 0)
  writeKill s (match residentOf s g.pod with | id :: _ => traceAtTeam s id | [] => noPlace g.asid) c.1 c.2 g.va

/-- The continuations of a killed grid complete one by one, as far as the replay log has room (R427, R437). -/
def killConts (s : State) (ps : List Nat) : State := ps.foldl (fun s p => if completionBlocked s then s else killCont s p) s

/-- A killed grid's teams have halted: its continuations complete; then every thread ends, held images are discarded, and the KILL record is
written (R427). The cores' other groups pick again from the halt on (R408). -/
def finishKill (s : State) (pod : Nat) : State :=
  match findGrid s pod with
  | none => s
  | some g =>
    let ids := residentOf s pod
    let old := savedOf s pod
    if g.killed.isNone || g.killDone || !ids.all (teamQuiet s) then s
    else
      let s := ids.foldl (fun s id => modTeam s id (fun t => { t with hold := .halted })) s
      let s := killConts s (contPods s (ids ++ old))
      if contPods s (ids ++ old) ≠ [] then s
      else
      let s := old.foldl (fun s id => retireViews s id pod) s
      let s := { s with saved := s.saved.filter (fun t => !decide (t.id ∈ old)), groups := withoutTeams 32 old s.groups,
                        threads := withoutTeams 1024 old s.threads,
                        waits := s.waits.filter (fun w => match w with | .team id => !decide (id ∈ old) | .cont _ _ => true) }
      let s := ids.foldl (fun s id =>
        let s := (threadsOfTeam s id).foldl (fun s k => modThread s k Thread.ended) s
        modTeam s id (fun t => { t with hold := .retiring })) s
      let s := killRecord s g
      modGrid s pod (fun g => { g with killDone := true })

/-- Every killed grid that can be finished. -/
def finishKills (s : State) : State := (s.grids.map (·.pod)).foldl finishKill s

/-- A team has a group on a core, or one that has been granted a move to it (R407, R422, R428). -/
def standsOn (s : State) (core id : Nat) : Bool :=
  decide ((getTeam s id).home = core) ||
    (List.range (teamGroups (getTeam s id))).any (fun i =>
      let g := id * 32 + i
      (decide ((getGroup s g).core = core) && (getGroup s g).swapped.isNone) || (getGroup s g).moving.any (fun m => decide (m.core = core)))

/-- SEL and VALUE of PMTCTL and KILLCTL select a team (R407, R428). -/
def selects (s : State) (sel value id : Nat) : Bool :=
  let t := getTeam s id
  match sel with
  | 0 => standsOn s value id
  | 1 => decide (t.asid = value)
  | 2 => decide (teamPodVa s t = value)
  | _ => true

/-- SEL and VALUE select a pod by its address space or address (R428). -/
def selectsPod (sel value asid va : Nat) : Bool :=
  match sel with
  | 0 => false
  | 1 => decide (asid = value)
  | 2 => decide (va = value)
  | _ => true

/-- KILLCTL with GO (R428). -/
def killSelected (s : State) (sel value : Nat) : State :=
  let running := (s.grids.filter (fun g => selectsPod sel value g.asid g.va ||
    (decide (sel = 0) && (residentOf s g.pod).any (fun id => standsOn s value id)))).map (·.pod)
  let armed := (s.flight.filter (fun e => selectsPod sel value e.2.asid e.2.va && decide (podKind s e.1 = 0) &&
    decide (podStatus s e.1 = stArmed ∨ podStatus s e.1 = stReady) && (findGrid s e.1).isNone)).map (·.1)
  let s := running.foldl (fun s p => markKilled s p 5) s
  let s := { s with killBusy := running.filter (fun p => (findGrid s p).isSome) ++ armed }
  armed.foldl (fun s p => unitTake (.kill p) s) s

/-- KILL_COMMAND: a write while BUSY is 1 is ignored (R428). -/
def execKillCommand (sel : BitVec 2) (value : BitVec 52) (s : State) : Host.Outcome State Fault Refusal :=
  .next (if s.booted = false ∨ s.killBusy ≠ [] then s else killSelected s sel.toNat value.toNat)

end Sys2Proof.Machine
end

