-- ==== Sys2Proof/Machine/Preempt.lean ====
section
/-! DEFINITION. Pre-emption (R407 to R416), debug stops (R417) and fences (R422). -/

namespace Sys2Proof.Machine

-- operations on PMTCTL

/-- The cores that hold a group of the teams, or will when a granted move ends. -/
def coresOfTeams (s : State) (ids : List Nat) : List Nat :=
  dedup (ids.flatMap (fun id => (presentGroups s id).map (fun g => (getGroup s g).core)))

/-- An operation begins: its teams are stopped, and the cores that hold their groups are asked to halt (R408). -/
def beginOp (s : State) (p : PmtOp) : State :=
  let moving := p.teams.filter (fun id => !decide (id ∈ p.held))
  let s := (coresOfTeams s moving).foldl (fun s c => modCore s c (fun x => { x with halting := true })) s
  let s := moving.foldl (fun s id => modTeam s id (fun t => { t with hold := .stopping })) s
  { s with pmt := some p, pmtPartial := if p.op = 1 then false else s.pmtPartial }

/-- The resident teams that an operation can act on: neither killed nor retiring. -/
def activeTeams (s : State) (m : Nat → Bool) : List Nat :=
  (s.teams.filter (fun e => m e.1 && !e.2.killed && decide (e.2.hold ≠ .retiring))).map (·.1)

/-- Those of the teams that a HALT holds. -/
def haltedTeams (s : State) (ids : List Nat) : List Nat := ids.filter (fun id => decide ((getTeam s id).hold = .halted))

/-- SAVE of the teams that match (R407, R410, R416). -/
def beginSave (s : State) (sel value : Nat) (m : Nat → Bool) (fence : Option Nat) : State :=
  let ids := activeTeams s m
  beginOp s { op := 1, sel := sel, value := value, teams := ids, held := haltedTeams s ids, halted := false, fence := fence }

/-- HALT of the teams that match (R407). -/
def beginHalt (s : State) (sel value : Nat) (m : Nat → Bool) : State :=
  let ids := (activeTeams s m).filter (fun id => decide ((getTeam s id).hold = .none))
  beginOp s { op := 2, sel := sel, value := value, teams := ids, held := [], halted := false, fence := none }

/-- The next request that waits for PMTCTL: a checkpoint (R449), a HALT instruction's halt (R417), a fence (R422). -/
def nextRequest (s : State) : State :=
  if s.pmt.isSome then s
  else if s.ckptWait then beginSave { s with ckptWait := false } 3 0 (fun _ => true) none
  else match s.haltWaits with
    | pod :: r =>
      let va := match findGrid s pod with | some g => g.va | none => 0
      beginHalt { s with haltWaits := r } 2 va (fun id => decide ((getTeam s id).grid = pod))
    | [] => match s.cores.find? (fun c => c.2.fencing) with
      | some (core, _) => beginSave s 0 core (fun id => standsOn s core id) (some core)
      | none => s

/-- True when no live core set holds what a grid's teams need any more (R131). -/
def noLonger (s : State) (g : Grid) : Bool :=
  !(rectangles (startOf g.desc) g.desc.cluw g.desc.cluh).any (fun ms => ms.all (liveCore s))

/-- A core leaves placement; the errors that led to its fence are recorded as fenced, and the teams a fence saved wait to be restored
(R131, R422, R423). -/
def finishFence (s : State) (core : Nat) : State :=
  let here (x : Seen) : Bool := decide (x.core = some core)
  let s := ((s.errors.filter here).filter (·.lasting)).foldl (errRecord 3) s
  let s := { s with errors := s.errors.filter (fun x => !here x) }
  let s := modCore s core (fun c => { c with fenced := true, fencing := false, testing := false })
  let s := { s with grids := s.grids.map (fun g => if !placementOver g && noLonger s g then { g with stopped := some stNoFit } else g) }
  let ids := (s.saved.filter (fun t => t.released && decide (core ∈ t.cores) && !decide (Restore.team t.id ∈ s.waits))).map (·.id)
  { s with waits := s.waits ++ ids.map Restore.team }

/-- The operation is over, and the next request is taken up. -/
def finishOp (s : State) (p : PmtOp) : State :=
  let s := { s with pmt := none }
  nextRequest (match p.fence with | some core => finishFence s core | none => s)

/-- The teams of an operation that are still there. -/
def stillThere (s : State) (p : PmtOp) : PmtOp := { p with teams := activeTeams s (fun id => decide (id ∈ p.teams)) }

/-- The cores asked to halt have finished their bundles, and no group of the teams is being moved (R408, R231). -/
def coresQuiet (s : State) (p : PmtOp) : Bool :=
  s.cores.all (fun c => !c.2.halting || c.2.bundles.isEmpty) &&
    p.teams.all (fun id => (presentGroups s id).all (fun g => (getGroup s g).moving.isNone))

/-- The grids that an operation has halted as grids (R417). -/
def haltedGrids (s : State) (p : PmtOp) : List Nat :=
  if p.op = 2 ∧ p.sel = 2 then ((s.grids.filter (fun g => decide (g.va = p.value ∧ ¬ g.pod ∈ s.gridHalts))).map (·.pod)) else []

/-- Every core that holds a selected team has halted: the others' groups pick again, and the operation goes on or is over (R408). -/
def coreHalt (s : State) : State :=
  let s := finishKills s
  match s.pmt with
  | none => nextRequest s
  | some p0 =>
    let p := stillThere s p0
    if p.halted then (if p.teams = [] then finishOp s p else { s with pmt := some p })
    else if coresQuiet s p then
      let s := { s with cores := s.cores.map (fun c => (c.1, { c.2 with halting := false })) }
      let s := p.teams.foldl (fun s id => modTeam s id (fun t => { t with hold := .halted })) s
      let s := { s with gridHalts := s.gridHalts ++ haltedGrids s p }
      if p.op = 2 ∨ p.teams = [] then finishOp s p else { s with pmt := some { p with halted := true } }
    else { s with pmt := some p }

/-- CORE_HALT (R408), and the halt of killed grids (R427). -/
def execCoreHalt (s : State) : Host.Outcome State Fault Refusal := .next (coreHalt s)

/-- PMTCTL with OP SAVE (R407): ignored while BUSY is 1. -/
def execPmtctlSave (sel : BitVec 2) (value : BitVec 52) (s : State) : Host.Outcome State Fault Refusal :=
  .next (if s.booted = false ∨ s.pmt.isSome = true then s
    else beginSave s sel.toNat value.toNat (fun id => selects s sel.toNat value.toNat id) none)

/-- PMTCTL with OP HALT (R407). -/
def execPmtctlHalt (sel : BitVec 2) (value : BitVec 52) (s : State) : Host.Outcome State Fault Refusal :=
  .next (if s.booted = false ∨ s.pmt.isSome = true then s
    else beginHalt s sel.toNat value.toNat (fun id => selects s sel.toNat value.toNat id))

/-- A resident team's threads blocked at a HALT go on (R417). -/
def wakeHalted (s : State) (id : Nat) : State :=
  (threadsOfTeam s id).foldl (fun s k => if (getThread s k).wait = .halted ∧ (getThread s k).exited = false then wakeJoining s k else s) s

/-- A resident team's groups pick again: the threads that become ready start with age 0 (R139, R407). -/
def startAgain (s : State) (id : Nat) : State :=
  (threadsOfTeam s id).foldl (fun s k => if (getThread s k).exited then s else modThread s k (fun t => { t with age := 0, overdue := none }))
    (modTeam s id (fun t => { t with hold := .none }))

/-- SEL and VALUE select a saved team. -/
def selectsSaved (s : State) (sel value : Nat) (t : SavedTeam) : Bool :=
  match sel with
  | 0 => decide (value ∈ t.cores)
  | 1 => decide (t.team.asid = value)
  | 2 => decide (teamPodVa s t.team = value)
  | _ => true

/-- RESUME releases a grid's halt: it selects the grid, or, by cores, leaves no team of it halted (R417). -/
def released (s : State) (sel value pod : Nat) : Bool :=
  (match findGrid s pod with | some g => selectsPod sel value g.asid g.va | none => true) ||
    (decide (sel = 0) && (residentOf s pod).all (fun id => decide ((getTeam s id).hold ≠ .halted)))

/-- RESUME: halted teams go on, with the threads blocked at a HALT, those of a team that none held among them (R417); saved teams wait to be
restored, in the order they were saved (R415). -/
def resumeTeams (s : State) (sel value : Nat) : State :=
  let ids := (activeTeams s (fun id => selects s sel value id)).filter (fun id => decide ((getTeam s id).hold = .none ∨ (getTeam s id).hold = .halted))
  let s := (haltedTeams s ids).foldl startAgain s
  let s := ids.foldl wakeHalted s
  let m (t : SavedTeam) : Bool := selectsSaved s sel value t
  let fresh := (s.saved.filter (fun t => m t && !t.released)).map (·.id)
  { s with
    gridHalts := s.gridHalts.filter (fun pod => !released s sel value pod),
    saved := s.saved.map (fun t => if m t then { t with released := true, held := false, halts := [] } else t),
    waits := s.waits ++ fresh.map Restore.team }

/-- PMTCTL with OP RESUME (R407, R415). -/
def execPmtctlResume (sel : BitVec 2) (value : BitVec 52) (s : State) : Host.Outcome State Fault Refusal :=
  .next (if s.booted = false ∨ s.pmt.isSome = true then s else resumeTeams s sel.toNat value.toNat)

-- saving a team

/-- The names of the results that commands of the team's ray slots owe (R324). -/
def rayTags (t : Team) : List Nat := t.slots.flatMap (fun e => (e.2.queue.map (·.tag)) ++ (match e.2.call with | some c => [c.tag] | none => []))

/-- Nothing of the team is under way but its ray calls (R410). -/
def saveReady (s : State) (id : Nat) : Bool :=
  let t := getTeam s id
  let tags := rayTags t
  unitsEnded s id && (getCore s t.home).pruneq.all (fun q => decide (q.team ≠ id)) &&
    (presentGroups s id).all (fun g => (liveOfGroup s g).all (fun k =>
      (getThread s k).pend.all (fun p => p.value.isSome || decide (p.tag ∈ tags))))

/-- The running calls of a team's slots stopped: each writes its image, path and stack to the spill region it began with, from where it
goes on (R321, R324); none where a call must end first. -/
def stopCalls (s : State) (id : Nat) : Option State :=
  let t := getTeam s id
  t.slots.foldl (fun (a : Option State) e =>
    match a with
    | none => none
    | some s =>
      if e.2.state ≠ 1 ∨ e.2.evictedAt.isSome = true then some s
      else match e.2.spl with
        | none => none
        | some b =>
          let r := (spillSlot t.asid b e.2.live).run.run (asAgent s (slotAgent id e.1))
          match r.1 with | .ok _ => some (setSlot r.2 id e.1 { e.2.live with evictedAt := some b }) | .error _ => none) (some s)

/-- The first free offset in the pool for an image (R407). -/
def poolFit (s : State) (size : Nat) : Option Nat :=
  firstFit (s.saved.map (fun t => (t.off, t.size))) (65536 * 2 ^ (s.pmtpool.toNat % 32)) size

/-- The team is not saved: it goes on in place, or stays held by HALT, and PARTIAL is set (R410). -/
def resumeInPlace (s : State) (p : PmtOp) (id : Nat) : State :=
  let s := { s with pmtPartial := true }
  if id ∈ p.held then s else startAgain s id

/-- A load whose result is pending can still be unperformed: none of its thread's writes or fences has come after it, and its access met no
fault. -/
def canWait (s : State) (k : Nat) (p : Pending) : Bool :=
  match p.kind with
  | .load _ ev _ _ _ =>
    (match p.value with | some vs => vs.all (fun v => !v.poison) | none => false) && decide (kget 0 (viewOf s.order k) k ≤ ev) &&
      (match kfind s.order.selfFence k with | some f => decide (f < ev) | none => true)
  | .plain => false | .sfu _ => false | .collective => false

/-- The loads of thread k that a save finds not yet performed: the last of those that can be, a free choice how many (R411). -/
def leftLoads (s : State) (k : Nat) : List Nat × State :=
  let ps := (getThread s k).pend.filter (canWait s k)
  let c := choosePlace s (List.range (ps.length + 1))
  ((ps.drop (ps.length - c.1)).map (·.tag), c.2)

/-- A pending result is that of a load of one of the instructions. -/
def Pending.loadOf (p : Pending) (m : Nat → Bool) : Bool :=
  match p.kind with | .load op _ _ _ _ => m op | .plain => false | .sfu _ => false | .collective => false

/-- Results are delivered before a save, but those of loads that are left to the replay list; of these, the oldest are performed until a
group has eight (R410, R411). A thread that is left none stands in the handler it was being entered into. -/
def deliverSaved (s : State) (g : Nat) : State :=
  let ks := liveOfGroup s g
  let r := ks.foldl (fun x k => let y := leftLoads x.2 k; (x.1 ++ y.1, y.2)) (([] : List Nat), s)
  let s := ks.foldl (fun s k => deliver s k (fun p => !decide (p.tag ∈ r.1))) r.2
  let ops := (replays s g).map (·.op)
  let old := ops.take (ops.length - 8)
  ks.foldl (fun s k => enteredHandler (deliver s k (fun p => p.loadOf (fun n => decide (n ∈ old)))) k) s

/-- A saved team's scratch is what its image holds, which a mate in its cluster finds there (R237, R414, log entry 27). -/
def settleImage (s : State) (id pa n : Nat) : State :=
  let s := if (getTeam s id).mates.length ≤ 1 then s else settleMem s pa n
  let mine (part : Nat) : Bool := decide (part % 3 = 2 ∧ part / 3 / 2 ^ 17 = id)
  { s with order := { s.order with hist := s.order.hist.filter (fun e => !mine e.1), floor := s.order.floor.filter (fun e => !mine e.1) } }

/-- The team's image is in the pool at an offset, and the team leaves its cores, its pending launches to their queues (R113, R410); its
swapped-out groups stay swapped out. -/
def storeTeam (s : State) (p : PmtOp) (id off : Nat) (img : List Byte) : State :=
  let s := (presentGroups s id).foldl noteTwin (spillPending s id)
  let t := getTeam s id
  let gs := presentGroups s id
  let ks := gs.flatMap (liveOfGroup s)
  let sv : SavedTeam :=
    { id := id, off := off, size := img.length,
      team := { t with scratch := [], acc := [], inner := [], steps := [], tids := [] },
      cores := dedup (t.home :: gs.map (fun g => (getGroup s g).core)), released := p.fence.isSome, held := p.fence.isSome && decide (id ∈ p.held),
      halts := ks.filter (fun k => decide ((getThread s k).wait = .halted)),
      entering := ks.filter (fun k => decide ((getThread s k).wait = .entering)),
      reached := (ks.map (fun k => (k, (getThread s k).joined))).filter (fun e => decide (e.2 ≠ [])),
      inside := ks.filterMap (fun k => let t := getThread s k; if t.intrap then t.seq.map (fun q => (k, (q, t.regs.x))) else none),
      pend := (ks.map (fun k => (k, (getThread s k).pend.filter (fun p => !p.loadOf (fun _ => true))))).filter (fun e => decide (e.2 ≠ [])),
      flush := ((threadsOfTeam s id).filter (fun k => !(getThread s k).exited)).map (fun k => (getThread s k).flush) }
  let s := settleImage (unitWrite s launchAgent (poolBase s + off) img) id (poolBase s + off) img.length
  let s := if (getCore s t.home).mxOwner = some id then modCore s t.home (fun c => { c with mxOwner := none, mxCfg := 0, planes := [] }) else s
  { s with
    teams := kdel s.teams id, groups := s.groups.filter (fun e => !decide (e.1 ∈ gs)),
    threads := s.threads.filter (fun e => !(decide (keyGroup e.1 ∈ gs))),
    saved := s.saved ++ [sv] }

/-- Saves a halted team (R410). -/
def saveTeam (s : State) (p : PmtOp) (id : Nat) : State :=
  if !saveReady s id then s
  else match stopCalls s id with
    | none => s
    | some s =>
      let s := (presentGroups s id).foldl deliverSaved s
      let img := teamImage s id
      let done : State :=
        match poolFit s img.length with
        | none => resumeInPlace s p id
        | some off =>
          let pa := poolBase s + off
          if busErr s pa || busErr s (pa + img.length - 1) || linesBad s.poisonLines pa img.length then resumeInPlace s p id
          else storeTeam s p id off img
      let p := { p with teams := p.teams.filter (fun x => decide (x ≠ id)) }
      if p.teams = [] then finishOp done p else { done with pmt := some p }

/-- TEAM_SAVE (R410). -/
def execTeamSave (team : Nat) (s : State) : Host.Outcome State Fault Refusal :=
  .next (match s.pmt with
    | none => s
    | some p =>
      if p.op = 1 ∧ p.halted = true ∧ team ∈ (stillThere s p).teams then saveTeam s (stillThere s p) team else s)

-- HALT

/-- A halt of the grid is pending or in force (R417): one that waits for PMTCTL, one that is being made, or one made since its release. -/
def haltStands (s : State) (pod : Nat) : Bool :=
  let va := match findGrid s pod with | some g => g.va | none => 0
  decide (pod ∈ s.haltWaits) || decide (pod ∈ s.gridHalts) || (match s.pmt with | some p => decide (p.op = 2 ∧ p.sel = 2 ∧ p.value = va) | none => false)

/-- HALT, for one thread (R417). -/
def actHalt (c : Ctx) (s : State) : Act := do
  let a ← src s c .int c.raw.a
  if a.poison then poisonTrap
  else
    let t := teamOf s c.k
    -- a release at system scope (R375)
    let s := releaseAt s c.k 5
    let s := if s.haltstat.getLsbD 63 then s
      else { s with haltstat := BitVec.ofNat 64 (2 ^ 63 + bits (teamPodVa s t) 51 6 * 64),
                    haltpc := Word.pair c.pc (pctOf (getThread s c.k).eqp c.form) }
    let s := if haltStands s t.grid then s else nextRequest { s with haltWaits := s.haltWaits ++ [t.grid] }
    match bundleAt s s.focus.1 s.focus.2 with
    | none => .ok s
    | some b =>
      let s := modThread (runTrailer s b c.k) c.k (fun t => { t with wait := .halted })
      let s := arrive s c.k (fallThrough b)
      .ok (releaseJoins (leave s s.focus.1 s.focus.2 c.k) (keyGroup c.k))

/-- STOP records, one for each group of the bundle, whatever RLMODE holds (R417, R434). -/
def noteStop (i : Instr) (b : Bundle) (s0 : State) (did : List Nat) (s : State) : State :=
  (byGroup did).foldl (fun s e =>
    match e.2 with
    | [] => s
    | k :: _ =>
      let code := match src (readied s0 b i k) (ctxOf b i k) .int (ctxOf b i k).raw.a with | .ok v => v.bits.toNat | .error _ => 0
      traceWrite s [traceBytes s.clock 9 (traceAtThread s0 k (groupMask e.2) b.pc) (leBytes 4 code)]) s

/-- HALT (R417). -/
def execHalt (w : TForm) (s : State) : Host.Outcome State Fault Refusal := .next (issueWith (.halt w) actHalt (noteStop (.halt w)) s)

end Sys2Proof.Machine
end

