-- ==== Sys2Proof/Machine/Part.lean ====
section
/-! DEFINITION. The part: power states (R447), SECFUSE (R18), bring-up (R448), the checkpoint (R449) and the counter samples (R435). -/

namespace Sys2Proof.Machine

-- power

/-- A pre-emption, a kill or a checkpoint is under way, and power requests wait (R447). -/
def partBusy (s : State) : Bool := s.pmt.isSome || decide (s.killBusy ≠ []) || s.ckptBusy

/-- No engine command is in flight on the part (R247, R447). -/
def enginesIdle (s : State) : Bool := s.cores.all (fun c => c.2.engq.isEmpty) && s.pubs.isEmpty

/-- Doorbell writes held in RETAIN, in the order they came (R447). -/
def releaseDoorbells (s : State) : State :=
  s.heldDoorbells.foldl (fun s d => unitTake (.doorbell (d.1 % 256) (d.1 / 256) d.2) s) { s with heldDoorbells := [] }

/-- The requested power state takes effect, if it may now; at the return to RUN the doorbells held in RETAIN are delivered (R447). -/
def applyPower (s : State) : State :=
  if s.pwrReq = s.pwrCur ∨ partBusy s = true then s
  else if s.pwrReq = 2 then (if s.teams = [] ∧ enginesIdle s = true then { s with pwrCur := 2 } else s)
  else
    let s1 := { s with pwrCur := s.pwrReq }
    if s1.pwrCur = 0 then releaseDoorbells s1 else s1

/-- A write of REQ; between RUN and IDLE the change is immediate (R446, R447). -/
def requestPower (req : Nat) (s : State) : State :=
  let s := { s with pwrReq := req }
  if req < 2 ∧ s.pwrCur < 2 then applyPower s else s

/-- PWRCTL_RUN (R447). -/
def execPwrctlRun (s : State) : Host.Outcome State Fault Refusal := .next (requestPower 0 s)
/-- PWRCTL_IDLE (R447). -/
def execPwrctlIdle (s : State) : Host.Outcome State Fault Refusal := .next (requestPower 1 s)
/-- PWRCTL_RETAIN (R447). -/
def execPwrctlRetain (s : State) : Host.Outcome State Fault Refusal := .next (requestPower 2 s)
/-- POWER_STATE_CHANGE (R447). -/
def execPowerStateChange (s : State) : Host.Outcome State Fault Refusal := .next (applyPower s)

-- the fuse

/-- SECADV: the key advances COUNT by one step, to 64 at most (R18, R446). -/
def advanceFuse (key : Word) (s : State) : State := if key = 0x5EC00001#32 ∧ s.secCount < 64 then { s with secCount := s.secCount + 1 } else s

/-- SECADV (R446). -/
def execSecadv (key : Word) (s : State) : Host.Outcome State Fault Refusal := .next (advanceFuse key s)

-- bring-up

/-- One past device memory's last byte (R251). -/
def deviceTop : Nat := 0x03000000000

/-- The part brings itself up (R448). -/
def bringUp (b : Boot) (s : State) : State :=
  if s.booted || s.fwBad then s
  else if b.firmware < s.secCount then { s with fwBad := true }
  else
    let s := (b.failing.filter (fun c => decide (c < 216))).foldl (fun s c => modCore s c (fun x => { x with fenced := true })) s
    { s with
      mem := s.mem.filter (fun c => decide (deviceTop ≤ c.1)), poisonLines := [], carve := [], carvePoison := [],
      marcfgActive := 0, peerUp := dedup (b.peers.filter (fun p => decide (p < 8))), unfitted := b.unfitted, booted := true, clock := 0,
      order := Order.initial, marrow := [] }

/-- BRING_UP (R448). -/
def execBringUp (boot : Boot) (s : State) : Host.Outcome State Fault Refusal := .next (bringUp boot s)

-- the checkpoint

/-- The bytes of carved Marrow (R247). -/
def carveBytes (s : State) : Nat := s.marcfgActive * 192 * 2 ^ 20
/-- The bytes a checkpoint copies (R449). -/
def ckptBytes (s : State) : Nat := deviceTop + carveBytes s

/-- A write of CKPTCTL: GO starts a checkpoint, unless one is under way or its destination would leave the Loben Link range
(R446, R449, R451). -/
def startCheckpoint (value : DWord) (s : State) : State :=
  let base := bits value.toNat 43 12 * 4096
  if value.getLsbD 63 = false ∨ s.booted = false ∨ s.ckptBusy = true then s
  else if isCompanion base && isCompanion (base + ckptBytes s - 1) then
    nextRequest { s with ckptBusy := true, ckptErr := false, ckptBase := base, ckptWait := true }
  else s

/-- CKPTCTL_GO (R449). -/
def execCkptctlGo (value : DWord) (s : State) : Host.Outcome State Fault Refusal := .next (startCheckpoint value s)

/-- Bytes of no stated value, in the place of data that cannot be read. -/
def freeBytes (n : Nat) (s : State) : List Byte × State :=
  ((List.range n).map (fun i => BitVec.ofNat 8 (Config.choice (s.fresh + i))), { s with fresh := s.fresh + n })

/-- A table copied into memory at base, as far as its first n bytes go; what lay there is gone. -/
def copyTable (m : KMap Byte) (base n : Nat) (mem : KMap Byte) : KMap Byte :=
  (m.filter (fun e => decide (e.1 < n))).foldl (fun a e => kset 0 a (base + e.1) e.2)
    (mem.filter (fun e => !decide (base ≤ e.1 ∧ e.1 < base + n)))

/-- Lines that cannot be read leave free values at the copy. -/
def copyBadLines (bad : List Nat) (base n : Nat) (s : State) : State :=
  (bad.filter (fun l => decide (128 * l + 128 ≤ n))).foldl (fun s l => let r := freeBytes 128 s; settleMem { r.2 with mem := ksetList 0 r.2.mem (base + 128 * l) r.1 } (base + 128 * l) 128) s

/-- The first n bytes of the checkpoint's copy (R449). -/
def copyOut (n : Nat) (s : State) : State :=
  let nd := min n deviceTop
  let nc := n - nd
  let s := settleMem { s with mem := copyTable s.carve (s.ckptBase + deviceTop) nc (copyTable s.mem s.ckptBase nd s.mem) } s.ckptBase n
  copyBadLines s.carvePoison (s.ckptBase + deviceTop) nc (copyBadLines s.poisonLines s.ckptBase nd s)

/-- The checkpoint's copy ends: whole, or on a failed write after a free number of bytes (R449). -/
def endCheckpoint (failed : Bool) (s : State) : State :=
  if !s.ckptBusy || s.ckptWait || s.pmt.isSome then s
  else if failed then
    let d := draw s
    { copyOut (Config.choice d.1 % ckptBytes s) d.2 with ckptBusy := false, ckptErr := true }
  else { copyOut (ckptBytes s) s with ckptBusy := false }

/-- CHECKPOINT_END (R449). -/
def execCheckpointEnd (failed : Bool) (s : State) : Host.Outcome State Fault Refusal := .next (endCheckpoint failed s)

-- counter samples

/-- The cycles of a sample interval; 0 for no samples (R431). -/
def samplePeriod (rlmode : Word) : Nat := let p := bits rlmode.toNat 23 19; if p = 0 then 0 else 2 ^ (p + 9)

/-- The twelve counters of a core, as a record holds them (R435). -/
def counterBytes (c : Core) : List Byte := (List.range 12).flatMap (fun n => leBytes 4 (kget 0 c.counters n))

/-- The counter record of a live core at a tick; its counters are cleared (R435). -/
def sampleCore (tick_ : Nat) (s : State) (core : Nat) : State :=
  let c := getCore s core
  if c.fenced then s
  else
    let r := ringWrite s s.counterRing 64
      [leBytes 8 tick_ ++ leBytes 1 core ++ leBytes 1 ((match classOfCore core with | .d => 0 | .l => 1) + 2 * b2n c.fencing) ++
        List.replicate 6 0#8 ++ counterBytes c]
    modCore { r.1 with counterRing := r.2 } core (fun c => { c with counters := [] })

/-- The sample of the next tick, once its cycle has come (R435). -/
def sampleTick (s : State) : State :=
  let p := samplePeriod s.rlmode
  if s.booted = false ∨ p = 0 ∨ s.clock < s.nextTick then s
  else { (List.range 216).foldl (sampleCore s.nextTick) s with nextTick := s.nextTick + p }

/-- COUNTER_SAMPLE (R435). -/
def execCounterSample (s : State) : Host.Outcome State Fault Refusal := .next (sampleTick s)

end Sys2Proof.Machine
end

