-- ==== Sys2Proof/Machine/Counters.lean ====
section
/-! DEFINITION. The passing of time: the clock (R430), the counters that count cycles, and their samples at each tick (R435). -/

namespace Sys2Proof.Machine

/-- A picker with no bundle in progress and no ready thread (R138, R435). -/
def idlePicker (s : State) (core picker : Nat) : Bool :=
  (bundleAt s core picker).isNone &&
    (readyOf s (((groupsOn s core picker).flatMap (liveOfGroup s)).map (standingOf s))).isEmpty

/-- An instruction that waits at issue for the special-function unit or for a queue, and for nothing else (R197, R284, R306, R324, R357). -/
def queues (i : Instr) : Bool := decide (pipe i = .b ∧ latency i = .long) || decide (instrOp i = 0xF3 ∨ instrOp i = 0xF4 ∨ instrOp i = 0xF5)

/-- A picker whose bundle waits at issue for the special-function unit or a queue. -/
def queuedPicker (s : State) (core picker : Nat) : Bool :=
  (bundleAt s core picker).any (fun b => b.rest.isSome && (match decodeWords (codeFrom b b.pc) with | .ok (i, _) => queues i | .error _ => false))

/-- The cycles, of n, that a picker's bundle waits for results of fixed latency: a free number (R146, log entry 4). -/
def stalledCycles (s : State) (n core picker : Nat) : Nat :=
  if (bundleAt s core picker).any (fun b => b.rest.isNone) then Config.stall (1024 * s.clock + 4 * core + picker) % (n + 1) else 0

/-- The threads of a core that are blocked in BARW. -/
def barThreads (s : State) (core : Nat) : Nat :=
  (s.threads.filter (fun e => !e.2.exited && decide ((groupOf s e.1).core = core) &&
    (match e.2.wait with | .barw _ _ => true | .none => false | .join _ => false | .halted => false | .yielded => false | .entering => false))).length

/-- A D-core's ray engine is running a call of a team of the core. -/
def rayRunning (s : State) (core : Nat) : Bool :=
  s.teams.any (fun e => decide (e.2.home = core) && e.2.slots.any (fun x => decide (x.2.state = 1)))

/-- What n cycles add to a core's counters IDLE, DEPWAIT, UNITWAIT, BARWAIT, MXBUSY and RAYBUSY, by number (R435). -/
def cycleCounts (s : State) (n core : Nat) : List (Nat × Nat) :=
  let ps := List.range (pickersOf (classOfCore core))
  let d := decide (classOfCore core = .d)
  [(1, n * (ps.filter (idlePicker s core)).length), (2, (ps.map (stalledCycles s n core)).foldl (· + ·) 0),
    (3, n * (ps.filter (queuedPicker s core)).length), (5, n * barThreads s core),
    (6, n * b2n (d && !(getCore s core).mxq.isEmpty)), (7, n * b2n (d && rayRunning s core))]

/-- The cores' counters after n cycles in which nothing else happens. -/
def countCycles (n : Nat) (s : State) : State :=
  (List.range 216).foldl (fun s' core =>
    if (getCore s core).fenced then s'
    else (cycleCounts s n core).foldl (fun s' e => if e.2 = 0 then s' else bump s' core e.1 e.2) s') s

/-- n cycles pass; each tick among them, of at most fuel, is sampled in its own cycle (R435). -/
def passCycles : Nat → Nat → State → State
  | 0, n, s => let s := countCycles n s; { s with clock := s.clock + n }
  | fuel + 1, n, s =>
    let d := s.nextTick - s.clock
    if n < d then let s := countCycles n s; { s with clock := s.clock + n }
    else let t := countCycles d s; passCycles fuel (n - d) (sampleTick { t with clock := t.clock + d })

/-- The clock moves on with each step, by one cycle and a free number more (R430, log entry 4); the counters are sampled at each tick
that it passes. -/
def tick (s : State) : State :=
  let n := 1 + Config.elapsed s.fresh
  let p := samplePeriod s.rlmode
  let s := { s with fresh := s.fresh + 1 }
  if p = 0 ∨ s.booted = false then { s with clock := s.clock + n } else passCycles ((s.clock + n - s.nextTick) / p + 1) n s

end Sys2Proof.Machine
end

