-- ==== Sys2Proof/Machine/Auto.lean ====
section
/-! DEFINITION. The turns of the schedule: the turn that comes when the agenda names none, and the placing of one instruction. -/

namespace Sys2Proof.Machine

/-- The turns of a core: its pickers, its queues and its engine. -/
def coreTurns (s : State) (core : Nat) : List Turn :=
  let c := getCore s core
  (List.range (pickersOf (classOfCore core))).flatMap (fun p => [.issue core p, .event (.pick core p)]) ++
    [.event (.engineCommandStart core), .event (.fpruneExecute core)] ++
    c.engq.flatMap (fun q => [.event (.engineBytesLand core q.id 1), .event (.engineCommandEnd core q.id)]) ++
    (List.range c.mxq.length).map (fun i => .event (.matrixCommandExecute core i))

/-- The turns of a resident team: its slots, its pending launches, its end. -/
def teamTurns (s : State) (id : Nat) (t : Team) : List Turn :=
  [.event (.reclamationComplete id), .event (.teamSave id)] ++
    (List.range t.pendq.length).map (fun i => .event (.pendingEntryRelease id i)) ++
    t.slots.flatMap (fun e =>
      [.event (.rayCommandStart id e.1), .event (.slotEvict id e.1), .event (.steplimit id e.1), .event (.fwork id e.1)]) ++
    s.targets.map (fun x => .event (.binReplay id x.2))

/-- The turns of a thread. -/
def threadTurns (k : Nat) (t : Thread) : List Turn :=
  [.event (.overdue k), .event (.joinWaitTimeout k)] ++ (List.range t.pend.length).map (fun i => .event (.resultArrival k i))

/-- Every turn that may come of itself; one that is not enabled changes nothing. Hardware errors and the companion's acts come from the
agenda alone (log entries 3 and 11); tile and outcome are free. -/
def ownTurns (s : State) (free : Nat) : List Turn :=
  (List.range 216).flatMap (coreTurns s) ++ s.teams.flatMap (fun e => teamTurns s e.1 e.2) ++
    s.threads.flatMap (fun e => threadTurns e.1 e.2) ++
    s.groups.flatMap (fun e => [.event (.groupMove e.1), .event (.convergenceMismatch e.1)]) ++
    s.grids.flatMap (fun g => [.event (.podComplete g.pod), .event (.reductionDrain g.pod), .event (.teamPlacement g.pod)]) ++
    (List.range s.waits.length).flatMap (fun i => [.event (.contResume i), .event (.teamRestore i)]) ++
    s.accCounts.map (fun e => .event (.accessCounterRecord (e.1 / 2 ^ 31) (e.1 % 2 ^ 31))) ++
    s.pubs.map (fun p => .event (.pubExchange p.core p.id)) ++
    s.binq.map (fun e => .event (.binTriangle e.1)) ++
    s.targets.map (fun x => .event (.tileClose x.1 x.2 free)) ++
    s.errors.map (fun x => .event (.selfTest x.error.place (if free % 2 = 0 then .transient else .lasting))) ++
    [.event (.readyQueuePop false), .event (.readyQueuePop true), .event .tlbinvDone, .event .carveChange, .event .coreHalt,
      .event .powerStateChange, .event .counterSample, .event (.checkpointEnd (decide (free % 2 = 1)))]

/-- The turn that comes when the agenda is empty: bring-up first (R448), then any turn the part may take of itself (log entry 3). -/
def autoTurn (s : State) : Option Turn :=
  if s.fwBad then none
  else if s.booted = false then some (.event (.bringUp { firmware := Config.firmware, failing := Config.failing, peers := Config.peers, unfitted := Config.unfitted }))
  else (ownTurns s (Config.choice (s.fresh + 1)))[Config.choice s.fresh % (ownTurns s (Config.choice (s.fresh + 1))).length]?

/-- True for a picker that a core has (R122). -/
def pickerExists (core picker : Nat) : Bool := decide (core < 216 ∧ picker < pickersOf (classOfCore core))

/-- True for an event of the part, not an instruction of a program. -/
def isEvent (i : Instr) : Bool := (instrRaw i).isNone

/-- The core and picker on which State.withFetchWord places an instruction: a D-core, or the L-core of quad 0 for PAD (log
entry 7). -/
def probeCore (i : Option Instr) : Nat := match i with | some (.pad _) => 19 | _ => 0

/-- The words State.withFetchWord places: the instruction's, and a trailer that awaits nothing (R38) where the D-form needs one. -/
def probeCode (i : Option Instr) (ws : List Word) : List Word :=
  match i with
  | some (.pad _) => ws.take 3
  | some (.runt _) => ws.take 1
  | some (.runh _) => ws.take 3
  | some j => ws.take (lenOf j) ++ [0x70FFFFFC#32]
  | none => ws.take 1 ++ [0x70FFFFFC#32]

/-- The state with one thread of a new team standing in a bundle of its own at an instruction, which has the next turn (log entry 7). -/
def placeWord (s : State) (i : Option Instr) (ws : List Word) : State :=
  let core := probeCore i
  let id := s.nextTeam
  let k := id * 1024
  let d : Desc := { Desc.initial with vregd := 64, vregl := 64, uregs := 128, bars := 1, teamx := 1, teamy := 1, teamz := 1 }
  let isHead := match i with | some (.runh _) => true | some (.pad _) => true | _ => false
  let b : Bundle :=
    { threads := [k], form := classOfCore core, pc := if isHead then 0 else 4, base := if isHead then 0 else 4, code := probeCode i ws,
      seq := { head := 0, packet := 0, xmask := 0xFFFF, begun := false }, set := none, rest := none, probe := false, arrivals := [],
      ahead := [], early := none }
  let s := setTeam s id { Team.initial with home := core, desc := d, start := classOfCore core }
  let s := setGroup s (id * 32) { Group.initial with core := core }
  let s := setThread s k Thread.initial
  { setBundle s core 0 (some b) with nextTeam := id + 1, focus := (core, 0), agenda := .issue core 0 :: s.agenda }

end Sys2Proof.Machine
end

