-- ==== Sys2Proof/Machine/Errors.lean ====
section
/-! DEFINITION. Hardware errors and self-tests (R419 to R423). -/

namespace Sys2Proof.Machine

/-- A line marked poisoned (R243). -/
def markLine (l : Nat) (bad : List Nat) : List Nat := if l ∈ bad then bad else l :: bad

/-- Register code of a thread marked poisoned; its bits are no longer known (R241, R419). -/
def poisonRegister (s : State) (k code : Nat) : State :=
  let d := draw s
  let v : RVal := ⟨Config.count d.1, true⟩
  if (kfind s.threads k).isNone ∨ 80 ≤ code then s
  else if code < 64 ∨ (kfind (getThread s k).regs.x code).isSome then writeReg d.2 k code v
  else s

/-- An accumulator element's error: its value by the team's accumulator type, OVF, and MXSTAT (R310, R419). -/
def accError (s : State) (team element : Nat) (inner : Bool) : State :=
  match kfind s.teams team with
  | none => s
  | some t =>
    if tileCount t.desc * 1024 ≤ element then s
    else
      let d := draw s
      let t := if inner then { t with inner := kset 0 t.inner element 0 } else t
      let s := d.2
      let s := if cfgFloat (getCore s t.home).mxCfg then putTiles s team ({ t with acc := kset 0 t.acc element 0x7FC00001#32 }, 0)
        else putTiles s team (setOvf ({ t with acc := kset 0 t.acc element 0x80000000#32 }, 0) (element / 1024) 1)
      mxBad s team (Config.choice d.1 % 8) 1

/-- The teams' grids are killed with a cause (R426). -/
def killTeams (s : State) (ids : List Nat) (cause : Nat) : State :=
  (dedup ((ids.filterMap (kfind s.teams)).map (·.grid))).foldl (fun s p => markKilled s p cause) s

/-- What an uncorrected error does (R419, R422). -/
def errorEffect (p : ErrPlace) (s : State) : State :=
  match p with
  | .deviceLine l => if 128 * l < deviceTop then poisonLine s false l else s
  | .marrowLine l => if 128 * l < deviceTop then poisonLine s false l else s
  | .carveLine l => if 128 * l < carveBytes s then poisonLine s true l else s
  | .scratchWord team word =>
    if (kfind s.teams team).isNone ∨ scratchSize (getTeam s team).desc ≤ 4 * word then s
    else if barrierWord s team word then killTeams s [team] 3
    else poisonWord s team word
  | .threadRegister k code => poisonRegister s k code
  | .uniformRegister g n =>
    if (kfind s.groups g).isNone ∨ (getTeam s (g / 32)).desc.uregs ≤ n then s
    else let d := draw s; writeUni d.2 g n ⟨Config.count d.1, true⟩
  | .accElement team e => accError s team e false
  | .innerElement team e => accError s team e true
  | .stateStructure core a teams =>
    let s := killTeams s teams 3
    match a with
    | .codebook => modCore s core (fun c => { c with codebook := [] })
    | .planes => modCore s core (fun c => { c with planes := [] })
    | .ofTeams => s
  | .redBuffer core picker =>
    let pods := dedup ((redBuffer s core picker).map (·.grid))
    let s := pods.foldl (fun s p => markKilled s p 4) s
    modCore s core (fun c => { c with redbuf := kset [] c.redbuf picker [] })
  | .cleanCopy _ => s
  | .other _ => s

/-- Two errors lie in one structure. -/
def sameStructure (x y : Seen) : Bool := decide (x.error.structureCode = y.error.structureCode ∧ x.core = y.core)

/-- Cycles in a second (R430). -/
def second : Nat := 2250000000

/-- A self-test of the error's structure is due: an uncorrected error, or a 16th corrected one within 1 s (R421). -/
def testDue (s : State) (x : Seen) : Bool :=
  decide (errClass s x.error ≠ 0) ||
    decide (16 ≤ (s.errors.filter (fun y => sameStructure x y && decide (errClass s y.error = 0 ∧ y.clock ≤ x.clock ∧ x.clock < y.clock + second))).length)

/-- An error is detected: it acts, it is recorded, and where a test is due its core takes no new team (R419, R421, R423). -/
def detect (e : HwError) (s : State) : State :=
  let x : Seen := { clock := s.clock, core := placeCore s e.place, error := e, lasting := false }
  let s := errRecord 0 s x
  let s := { s with errors := s.errors ++ [x] }
  let due := testDue s x
  let s := if errClass s e = 0 then s else errorEffect e.place s
  match x.core with
  | some c => if due then modCore s c (fun y => { y with testing := true }) else s
  | none => s

/-- HARDWARE_ERROR (R419). -/
def execHardwareError (error : HwError) (s : State) : Host.Outcome State Fault Refusal := .next (if s.booted then detect error s else s)

/-- The test of an error's structure ends (R421). -/
def endTest (x : Seen) (o : TestOutcome) (s : State) : State :=
  let s := errRecord (match o with | .transient => 1 | .lasting => 2) s x
  let others := s.errors.filter (fun y => !sameStructure x y)
  match o, x.core with
  | .transient, some c =>
    modCore { s with errors := others } c (fun y => { y with testing := others.any (fun z => decide (z.core = some c) && testDue s z) })
  | .transient, none => { s with errors := others }
  | .lasting, some c =>
    let s := { s with errors := others ++ [{ x with lasting := true }] }
    if (getCore s c).fenced then s else nextRequest (modCore s c (fun y => { y with fencing := true }))
  | .lasting, none =>
    match x.error.place with
    | .marrowLine l => { s with errors := others, retired := markLine l s.retired }
    | _ => { s with errors := others }

/-- SELF_TEST (R421). -/
def execSelfTest (place : ErrPlace) (outcome : TestOutcome) (s : State) : Host.Outcome State Fault Refusal :=
  .next (match s.errors.find? (fun x => decide (x.error.place = place) && !x.lasting && testDue s x) with
    | none => s
    | some x => endTest x outcome s)

end Sys2Proof.Machine
end

