-- ==== Sys2Proof/Machine/Group.lean ====
section
/-! DEFINITION. The group collectives (R202 to R215). -/

namespace Sys2Proof.Machine

/-- Thread j's operand of a collective, a value of the first thread's where it cannot be read. -/
def srcOf (s : State) (c : Ctx) (j code : Nat) : RVal :=
  match src s { c with k := j } .int code with | .ok v => v | .error _ => RVal.zero
def srcDOf (s : State) (c : Ctx) (j code : Nat) : DVal :=
  match srcD s { c with k := j } .n64 code with | .ok v => v | .error _ => ⟨0, false⟩

/-- The thread key of index t in the group when it is present, that is among ks (R202). -/
def presentAt (c : Ctx) (ks : List Nat) (t : Nat) : Option Nat :=
  ks.find? (fun j => decide (j = groupThread (keyGroup c.k) t ∧ t < 32))

/-- A result for each present thread (R205). -/
def postAll (c : Ctx) (ks : List Nat) (n : Nat) (f : Nat → List RVal) (s : State) : State :=
  ks.foldl (fun s' j => postResult s' j (if 112 ≤ c.raw.d ∧ c.raw.d < 120 then [c.raw.d] else dests c n) (some (f j)) .collective) s

/-- A predicate as a result. -/
def predR (v bad : Bool) : List RVal := [⟨if v then 1 else 0, bad⟩]

/-- GSHF (R208). -/
def actGshf (c : Ctx) (ks : List Nat) (s : State) : Act :=
  let sh := 32 / 2 ^ c.raw.b
  let one (j : Nat) : List RVal :=
    let i := keyLin j % 32
    let b := if c.raw.m = 3 then srcOf s c j c.raw.b else RVal.zero
    let t : Option Nat :=
      match c.raw.m with
      | 0 => if sh ≤ i then some (i - sh) else none
      | 1 => some (i + sh)
      | 2 => some (i ^^^ sh)
      | _ => some b.bits.toNat
    let v := match t.bind (presentAt c ks) with
      | some h => srcOf s c h c.raw.a
      | none => srcOf s c j c.raw.d
    [⟨v.bits, v.poison || b.poison⟩]
  .ok (postAll c ks 1 one s)

/-- GBC (R209). -/
def actGbc (c : Ctx) (ks : List Nat) (s : State) : Act :=
  let b := srcOf s c c.k c.raw.b
  let from_ := presentAt c ks b.bits.toNat
  if c.raw.m = 1 then
    .ok (postAll c ks 2 (fun j =>
      let v := match from_ with | some h => srcDOf s c h c.raw.a | none => srcDOf s c j c.raw.d
      [⟨v.bits.lo, v.poison || b.poison⟩, ⟨v.bits.hi, v.poison || b.poison⟩]) s)
  else
    .ok (postAll c ks 1 (fun j =>
      let v := match from_ with | some h => srcOf s c h c.raw.a | none => srcOf s c j c.raw.d
      [⟨v.bits, v.poison || b.poison⟩]) s)

/-- q(t) of a present thread (R210); live is LIVE. -/
def voteOf (s : State) (c : Ctx) (live : Bool) (j : Nat) : Bool :=
  if live then true else Bool.xor (readP s j (c.raw.a - 112)).val (decide (2 ≤ c.raw.m))
/-- True when a predicate that takes part is poisoned (R207). -/
def voteBad (s : State) (c : Ctx) (live : Bool) (ks : List Nat) : Bool :=
  !live && ks.any (fun j => (readP s j (c.raw.a - 112)).poison)

/-- GVOTE (R210). -/
def actGvote (c : Ctx) (ks : List Nat) (s : State) : Act :=
  let v := if c.raw.m % 2 = 0 then ks.any (voteOf s c false)
    else (List.range 32).all (fun t => match presentAt c ks t with | some j => voteOf s c false j | none => false)
  .ok (postAll c ks 1 (fun _ => predR v (voteBad s c false ks)) s)

/-- LIVE of GBALL and GELECT (R206). -/
def liveBit (c : Ctx) : Bool := decide (c.raw.m % 2 = 1)

/-- GBALL (R210). -/
def actGball (c : Ctx) (ks : List Nat) (s : State) : Act :=
  let v := ks.foldl (fun m j => if voteOf s c (liveBit c) j then m + 2 ^ (keyLin j % 32) else m) 0
  .ok (postAll c ks 1 (fun _ => [⟨wd v, voteBad s c (liveBit c) ks⟩]) s)

/-- GMATCH (R211). -/
def actGmatch (c : Ctx) (ks : List Nat) (s : State) : Act :=
  let val (j : Nat) : DVal :=
    if c.raw.m = 1 then srcDOf s c j c.raw.a else let v := srcOf s c j c.raw.a; ⟨v.bits.setWidth 64, v.poison⟩
  let bad := ks.any (fun j => (val j).poison)
  .ok (postAll c ks 1 (fun i =>
    [⟨wd (ks.foldl (fun m j => if (val j).bits = (val i).bits then m + 2 ^ (keyLin j % 32) else m) 0), bad⟩]) s)

/-- GELECT (R212). -/
def actGelect (c : Ctx) (ks : List Nat) (s : State) : Act :=
  let win := ks.find? (voteOf s c (liveBit c))
  .ok (postAll c ks 1 (fun j => predR (decide (win = some j)) (voteBad s c (liveBit c) ks)) s)

/-- The operation of GRED and GSCAN on two words (R213); fp is the FPCTL that R205 names. -/
def combOp (opn typ : Nat) (m : Rm) (fp : Word) (a b : Word) : Word :=
  let ty := if typ = 0 then 0 else 1
  match opn with
  | 0 => if typ = 2 then outF32 fp m (Xr.add m (inF32 fp a) (inF32 fp b)) else a + b
  | 1 => if typ = 2 then outF32 fp .rn (fminX (inF32 fp a) (inF32 fp b))
    else if compareInt 3 (valTy ty (a.setWidth 64)) (valTy ty (b.setWidth 64)) then a else b
  | 2 => if typ = 2 then outF32 fp .rn (fmaxX (inF32 fp a) (inF32 fp b))
    else if compareInt 5 (valTy ty (a.setWidth 64)) (valTy ty (b.setWidth 64)) then a else b
  | 3 => a &&& b
  | 4 => a ||| b
  | _ => a ^^^ b

/-- comb of R214, with marks. -/
def combR (f : Word → Word → Word) : Option RVal → Option RVal → Option RVal
  | none, b => b
  | some a, none => some a
  | some a, some b => some ⟨f a.bits b.bits, a.poison || b.poison⟩

/-- One step of the butterfly at distance m (R214). -/
def flyStep (f : Word → Word → Word) (m : Nat) (x : List (Option RVal)) : List (Option RVal) :=
  (List.range 32).map (fun t => combR f (x[Nat.min t (t ^^^ m)]?.getD none) (x[Nat.max t (t ^^^ m)]?.getD none))

/-- The butterfly of R214. -/
def butterfly (f : Word → Word → Word) (x : List (Option RVal)) : Option RVal :=
  (flyStep f 1 (flyStep f 2 (flyStep f 4 (flyStep f 8 (flyStep f 16 x))))).headD none

/-- A thread's value of GRED and GSCAN: F32 after FZI (R213). -/
def redSrc (s : State) (c : Ctx) (typ : Nat) (fp : Word) (j : Nat) : RVal :=
  match src s { c with k := j } (if typ = 2 then .f32 else .int) c.raw.a with
  | .ok v => ⟨if typ = 2 && fziOf fp .f32 && isSubnormal .f32 v.bits.toNat then v.bits &&& 0x80000000#32 else v.bits, v.poison⟩
  | .error _ => RVal.zero

/-- The reduction over the present threads whose index passes a test. -/
def reduceOver (c : Ctx) (ks : List Nat) (s : State) (test : Nat → Bool) : Option RVal :=
  let opn := c.raw.b / 16
  let typ := c.raw.b / 4 % 4
  let fp := (getThread s c.k).fpctl
  butterfly (combOp opn typ (rmOf c.raw.m) fp)
    ((List.range 32).map (fun t => if test t then (presentAt c ks t).map (redSrc s c typ fp) else none))

/-- GRED (R214). -/
def actGred (c : Ctx) (ks : List Nat) (s : State) : Act :=
  let v := (reduceOver c ks s (fun _ => true)).getD RVal.zero
  .ok (postAll c ks 1 (fun _ => [v]) s)

/-- GSCAN (R214); a result of none is the fill. -/
def actGscan (c : Ctx) (ks : List Nat) (s : State) : Act :=
  let ex := decide (c.raw.b / 2 % 2 = 1)
  .ok (postAll c ks 1 (fun j =>
    let i := keyLin j % 32
    [(reduceOver c ks s (fun t => if ex then decide (t < i) else decide (t ≤ i))).getD (srcOf s c j c.raw.d)]) s)

/-- GSYNC: what any present thread has done comes before what each goes on to do (R215). -/
def actGsync (_ : Ctx) (ks : List Nat) (s : State) : Act := .ok (syncAll s ks)

/-- GSHF (R208). -/
def execGshf (w : TForm) (s : State) : Host.Outcome State Fault Refusal :=
  .next (issueConvergent (.gshf w) actGshf s)

/-- GBC (R209). -/
def execGbc (w : TForm) (s : State) : Host.Outcome State Fault Refusal :=
  .next (issueConvergent (.gbc w) actGbc s)

/-- GVOTE (R210). -/
def execGvote (w : TForm) (s : State) : Host.Outcome State Fault Refusal :=
  .next (issueConvergent (.gvote w) actGvote s)

/-- GBALL (R210). -/
def execGball (w : TForm) (s : State) : Host.Outcome State Fault Refusal :=
  .next (issueConvergent (.gball w) actGball s)

/-- GRED (R214). -/
def execGred (w : TForm) (s : State) : Host.Outcome State Fault Refusal :=
  .next (issueConvergent (.gred w) actGred s)

/-- GSCAN (R214). -/
def execGscan (w : TForm) (s : State) : Host.Outcome State Fault Refusal :=
  .next (issueConvergent (.gscan w) actGscan s)

/-- GMATCH (R211). -/
def execGmatch (w : TForm) (s : State) : Host.Outcome State Fault Refusal :=
  .next (issueConvergent (.gmatch w) actGmatch s)

/-- GELECT (R212). -/
def execGelect (w : TForm) (s : State) : Host.Outcome State Fault Refusal :=
  .next (issueConvergent (.gelect w) actGelect s)

/-- GSYNC (R215). -/
def execGsync (w : TForm) (s : State) : Host.Outcome State Fault Refusal :=
  .next (issueConvergent (.gsync w) actGsync s)

end Sys2Proof.Machine
end

