-- ==== Sys2Proof/Machine/IntVal.lean ====
section
/-! DEFINITION. What the integer and bit instructions compute (R154, R159 to R168), on values in 64 bits: a 32-bit value stands in
the low word, the high word zero. m is the type code TY unless it is said otherwise. -/

namespace Sys2Proof.Machine

/-- The width of TY (R154). -/
def widthTy (m : Nat) : Nat := if 2 ≤ m then 64 else 32

/-- wrap(x, w) (R159). -/
def wrapTy (m : Nat) (x : Int) : DWord := if 2 ≤ m then BitVec.ofInt 64 x else (BitVec.ofInt 32 x).setWidth 64

/-- The value of the width of TY, signed. -/
def signedTy (m : Nat) (v : DWord) : Int := if 2 ≤ m then v.toInt else v.lo.toInt

def addV (m : Nat) (a b : DWord) : DWord := wrapTy m (valTy m a + valTy m b)
def subV (m : Nat) (a b : DWord) : DWord := wrapTy m (valTy m a - valTy m b)
def mulV (m : Nat) (a b : DWord) : DWord := wrapTy m (valTy m a * valTy m b)
def mulhV (m : Nat) (a b : DWord) : DWord := wrapTy m (valTy m a * valTy m b / 2 ^ widthTy m)
def madV (m : Nat) (a b d : DWord) : DWord := wrapTy m (valTy m a * valTy m b + valTy m d)
/-- MADW: A and B are 32-bit, signed when m is 0 (R159). -/
def madwV (m : Nat) (a b d : DWord) : DWord := wrapTy 3 (valTy m a * valTy m b + d.toNat)
def minV (m : Nat) (a b : DWord) : DWord := if valTy m a ≤ valTy m b then a else b
def maxV (m : Nat) (a b : DWord) : DWord := if valTy m b ≤ valTy m a then a else b
/-- ABS and NEG narrow as M says: 1 and 3 saturate (R159). -/
def satV (m : Nat) (x : Int) : DWord := wrapTy m (if m % 2 = 1 then min x (2 ^ (widthTy m - 1) - 1) else x)
def absV (m : Nat) (a : DWord) : DWord := satV m (signedTy m a).natAbs
def negV (m : Nat) (a : DWord) : DWord := satV m (-signedTy m a)

def andV (a b : DWord) : DWord := a &&& b
def orV (a b : DWord) : DWord := a ||| b
def xorV (a b : DWord) : DWord := a ^^^ b
def andnV (a b : DWord) : DWord := a &&& ~~~b
def notV (m : Nat) (a : DWord) : DWord := wrapTy m (~~~a).toNat

def shlV (m : Nat) (a : DWord) (n : Nat) : DWord := if n < widthTy m then wrapTy m (a.toNat * 2 ^ n) else 0
def shrV (m : Nat) (a : DWord) (n : Nat) : DWord := if n < widthTy m then wrapTy m (a.toNat / 2 ^ n) else 0
def sarV (m : Nat) (a : DWord) (n : Nat) : DWord :=
  if n < widthTy m then wrapTy m (signedTy m a / 2 ^ n) else if signedTy m a < 0 then wrapTy m (-1) else 0
def rotlV (m : Nat) (a : DWord) (n : Nat) : DWord :=
  let k := n % widthTy m
  wrapTy m (a.toNat * 2 ^ k) ||| wrapTy m (a.toNat / 2 ^ (widthTy m - k))

/-- The length of a field clipped to the width (R163). -/
def clip (pos len w : Nat) : Nat := if w ≤ pos then 0 else min len (w - pos)

def bfxV (m : Nat) (a : DWord) (desc : Nat) : DWord :=
  let pos := desc % 256
  let len := clip pos (desc / 256 % 256) (widthTy m)
  let f := a.toNat / 2 ^ pos % 2 ^ len
  if len = 0 then 0
  else if m % 2 = 0 ∧ f / 2 ^ (len - 1) = 1 then wrapTy m ((f : Int) - 2 ^ len)
  else wrapTy m f
def bfiV (m : Nat) (a d : DWord) (desc : Nat) : DWord :=
  let pos := desc % 256
  let len := clip pos (desc / 256 % 256) (widthTy m)
  let mask := (2 ^ len - 1) * 2 ^ pos
  wrapTy m (((d &&& ~~~(BitVec.ofNat 64 mask)) ||| (BitVec.ofNat 64 (a.toNat % 2 ^ len * 2 ^ pos))).toNat)
def bmskV (m pos len : Nat) : DWord := wrapTy m (((2 ^ clip pos len (widthTy m) - 1) * 2 ^ (if widthTy m ≤ pos then 0 else pos) : Nat))

/-- The one bits among the low n. -/
def popcount : Nat → Nat → Nat
  | 0, _ => 0
  | n + 1, v => v % 2 + popcount n (v / 2)
/-- The zero bits below the lowest one bit, at most n. -/
def trailing : Nat → Nat → Nat
  | 0, _ => 0
  | n + 1, v => if v % 2 = 1 then 0 else 1 + trailing n (v / 2)
/-- The low n bits in reverse order. -/
def reverseBits : Nat → Nat → Nat
  | 0, _ => 0
  | n + 1, v => v % 2 * 2 ^ n + reverseBits n (v / 2)

def popcV (m : Nat) (a : DWord) : DWord := BitVec.ofNat 64 (popcount (widthTy m) a.toNat)
def clzV (m : Nat) (a : DWord) : DWord :=
  BitVec.ofNat 64 (if a.toNat = 0 then widthTy m else widthTy m - 1 - Nat.log2 a.toNat)
def ctzV (m : Nat) (a : DWord) : DWord := BitVec.ofNat 64 (trailing (widthTy m) a.toNat)
def brevV (m : Nat) (a : DWord) : DWord := BitVec.ofNat 64 (reverseBits (widthTy m) a.toNat)

/-- LEA: a plus the signed 32-bit b times 2^m (R167). -/
def leaV (m : Nat) (a : DWord) (b : Word) : DWord := wrapTy 3 (a.toNat + b.toInt * 2 ^ m)

/-- Byte i of PRMT's result (R165). -/
def prmtByte (a b c : Nat) (i : Nat) : Nat :=
  let s := c / 16 ^ i % 16
  let y := (a + b * 2 ^ 32) / 256 ^ (s % 8) % 256
  if 8 ≤ s then (if 128 ≤ y then 255 else 0) else y
def prmtV (a b c : Word) : Word :=
  wd (prmtByte a.toNat b.toNat c.toNat 0 + prmtByte a.toNat b.toNat c.toNat 1 * 256 + prmtByte a.toNat b.toNat c.toNat 2 * 65536 +
    prmtByte a.toNat b.toNat c.toNat 3 * 16777216)

/-- FSHL and FSHR (R166). -/
def fshlV (a b c : Word) : Word := wd ((a.toNat * 2 ^ 32 + b.toNat) * 2 ^ (min c.toNat 32) / 2 ^ 32)
def fshrV (a b c : Word) : Word := wd ((a.toNat * 2 ^ 32 + b.toNat) / 2 ^ (min c.toNat 32))

end Sys2Proof.Machine
end

