-- ==== Sys2Proof/Machine/Int.lean ====
section
/-! DEFINITION. The integer, bit, select and move instructions (R154 to R171). -/

namespace Sys2Proof.Machine

/-- Two value operands and a destination, all of TY's width (R154). -/
def alu2 (f : Nat → DWord → DWord → DWord) (c : Ctx) (s : State) : Act := do
  let m := c.raw.m
  let a ← srcV s c m c.raw.a
  let b ← srcV s c m c.raw.b
  .ok (dstV s c m ⟨f m a.bits b.bits, a.poison || b.poison⟩)

/-- One value operand and a destination. -/
def alu1 (f : Nat → DWord → DWord) (c : Ctx) (s : State) : Act := do
  let m := c.raw.m
  let a ← srcV s c m c.raw.a
  .ok (dstV s c m ⟨f m a.bits, a.poison⟩)

/-- A signed value operand, whatever M's low bit says of saturation, and a destination (R159). -/
def aluSat (f : Nat → DWord → DWord) (c : Ctx) (s : State) : Act := do
  let m := c.raw.m
  let a ← srcV s c (m / 2 * 2) c.raw.a
  .ok (dstV s c m ⟨f m a.bits, a.poison⟩)

/-- A value operand and a 32-bit amount or descriptor (R154). -/
def aluAmt (f : Nat → DWord → Nat → DWord) (c : Ctx) (s : State) : Act := do
  let m := c.raw.m
  let a ← srcV s c m c.raw.a
  let b ← src s c .int c.raw.b
  .ok (dstV s c m ⟨f m a.bits b.bits.toNat, a.poison || b.poison⟩)

/-- A value operand counted into one 32-bit register (R164). -/
def aluCount (f : Nat → DWord → DWord) (c : Ctx) (s : State) : Act := do
  let m := c.raw.m
  let a ← srcV s c m c.raw.a
  .ok (dst s c ⟨(f m a.bits).lo, a.poison⟩)

/-- MAD and BFI read their destination too (R156). -/
def aluAcc (f : Nat → DWord → DWord → DWord → DWord) (c : Ctx) (s : State) : Act := do
  let m := c.raw.m
  let a ← srcV s c m c.raw.a
  let b ← srcV s c m c.raw.b
  let d ← srcV s c m c.raw.d
  .ok (dstV s c m ⟨f m a.bits b.bits d.bits, a.poison || b.poison || d.poison⟩)

/-- ADDC and SUBB: 32-bit, with the carry predicate p(4+M) in and out (R160). -/
def aluCarry (f : Word → Word → Bool → Word × Bool) (c : Ctx) (s : State) : Act := do
  let a ← src s c .int c.raw.a
  let b ← src s c .int c.raw.b
  let p := readP s c.k (carryNum c.raw.m)
  let r := f a.bits b.bits p.val
  let bad := a.poison || b.poison || p.poison
  .ok (writeP (dst s c ⟨r.1, bad⟩) c.k (carryNum c.raw.m) ⟨r.2, bad⟩)

def actMadw (c : Ctx) (s : State) : Act := do
  let a ← src s c .int c.raw.a
  let b ← src s c .int c.raw.b
  let d ← srcD s c .n64 c.raw.d
  .ok (dstD s c ⟨madwV c.raw.m (a.bits.setWidth 64) (b.bits.setWidth 64) d.bits, a.poison || b.poison || d.poison⟩)

def actBfi (c : Ctx) (s : State) : Act := do
  let m := c.raw.m
  let a ← srcV s c m c.raw.a
  let b ← src s c .int c.raw.b
  let d ← srcV s c m c.raw.d
  .ok (dstV s c m ⟨bfiV m a.bits d.bits b.bits.toNat, a.poison || b.poison || d.poison⟩)

def actBmsk (c : Ctx) (s : State) : Act := do
  let a ← src s c .int c.raw.a
  let b ← src s c .int c.raw.b
  .ok (dstV s c c.raw.m ⟨bmskV c.raw.m a.bits.toNat b.bits.toNat, a.poison || b.poison⟩)

def actLea (c : Ctx) (s : State) : Act := do
  let a ← srcD s c .n64 c.raw.a
  let b ← src s c .int c.raw.b
  .ok (dstD s c ⟨leaV c.raw.m a.bits b.bits, a.poison || b.poison⟩)

/-- MOVI: IMM16 sign-extended (R170). -/
def actMovi (c : Ctx) (s : State) : Act := .ok (dst s c ⟨(BitVec.ofNat 16 c.raw.imm).signExtend 32, false⟩)

/-- MOVHI: IMM16 above the destination's low half (R170). -/
def actMovhi (c : Ctx) (s : State) : Act := do
  let d ← src s c .int c.raw.d
  .ok (dst s c ⟨wd (c.raw.imm * 65536 + d.bits.toNat % 65536), d.poison⟩)

/-- V2G: a uniform register takes the first thread's value (R171). DESIGN CHOICE (log entry 56): with M = 2 a literal A is sign-extended,
as a .S64 operand is; V2G has no suffix that R27 names. -/
def actV2g (c : Ctx) (s : State) : Act := do
  let a ← srcV s c c.raw.m c.raw.a
  let g := keyGroup c.k
  let n := c.raw.d - 80
  if 2 ≤ c.raw.m then
    .ok (writeUni (writeUni s g n ⟨a.bits.lo, a.poison⟩) g (n + 1) ⟨a.bits.hi, a.poison⟩)
  else .ok (writeUni s g n ⟨a.bits.lo, a.poison⟩)

/-- IMM9, sign-extended to 32 bits (R45). -/
def imm9 (c : Ctx) : Word := (BitVec.ofNat 9 c.raw.imm).signExtend 32

/-- A format-I instruction: 32 bits, b is IMM9 (R45). -/
def aluImm (f : DWord → Word → DWord) (c : Ctx) (s : State) : Act := do
  let a ← src s c .int c.raw.a
  .ok (dst s c ⟨(f (a.bits.setWidth 64) (imm9 c)).lo, a.poison⟩)

/-- The comparison of CMP and CMPV with its predicate combination (R168). -/
def compared (c : Ctx) (s : State) : Except Stop PVal := do
  let m := c.raw.m
  let a ← srcV s c m c.raw.a
  let b ← srcV s c m c.raw.b
  let bop := c.raw.e / 8 % 4
  let p := if bop = 0 then PVal.zero else srcP s c c.raw.c
  .ok ⟨combine bop (compareInt (c.raw.e % 8) (valTy m a.bits) (valTy m b.bits)) p.val (decide (c.raw.e / 32 % 2 = 1)),
    a.poison || b.poison || p.poison⟩

def actCmp (c : Ctx) (s : State) : Act := do
  let r ← compared c s
  .ok (dstP s c r)

def actCmpv (c : Ctx) (s : State) : Act := do
  let r ← compared c s
  .ok (dst s c ⟨if r.val then 0xFFFFFFFF#32 else 0, r.poison⟩)

/-- SEL: its result is poisoned when its predicate or the operand it selects is (R157, R169). -/
def actSel (c : Ctx) (s : State) : Act := do
  let m := c.raw.m
  let a ← srcV s c m c.raw.a
  let b ← srcV s c m c.raw.b
  let p := srcP s c c.raw.c
  let v := if Bool.xor p.val (decide (c.raw.e % 2 = 1)) then a else b
  .ok (dstV s c m ⟨v.bits, v.poison || p.poison⟩)

/-- Three 32-bit operands. -/
def alu3 (f : Word → Word → Word → Word) (c : Ctx) (s : State) : Act := do
  let a ← src s c .int c.raw.a
  let b ← src s c .int c.raw.b
  let d ← src s c .int c.raw.c
  .ok (dst s c ⟨f a.bits b.bits d.bits, a.poison || b.poison || d.poison⟩)

/-- A uniform-pipe form: the instruction named by SUB, on the uniform registers of the group (R47, R158). -/
def actUniform (c : Ctx) (s : State) : Act :=
  let m := c.raw.m
  let a := uniV s c m c.raw.a
  let b := uniB s c m
  let a32 : DVal := uniV s c 1 c.raw.a
  let b32 : DVal := uniB s c 1
  let d := uniV s c m c.raw.d
  let out2 (v : DWord) : Act := .ok (dstUniV s c m ⟨v, a.poison || b.poison⟩)
  let out1 (v : DWord) : Act := .ok (dstUniV s c m ⟨v, a.poison⟩)
  let outAmt (v : DWord) : Act := .ok (dstUniV s c m ⟨v, a.poison || b32.poison⟩)
  let carry (f : Word → Word → Bool → Word × Bool) : Act :=
    let p := readP s c.k (carryNum m)
    let r := f a32.bits.lo b32.bits.lo p.val
    let bad := a32.poison || b32.poison || p.poison
    let s := dstUniV s c 1 ⟨r.1.setWidth 64, bad⟩
    .ok ((liveOfGroup s (keyGroup c.k)).foldl (fun s k => writeP s k (carryNum m) ⟨r.2, bad⟩) s)
  match c.raw.sub with
  | 0x00 => out2 (addV m a.bits b.bits)
  | 0x01 => carry addCarry
  | 0x02 => out2 (subV m a.bits b.bits)
  | 0x03 => carry subBorrow
  | 0x04 => out2 (mulV m a.bits b.bits)
  | 0x05 => out2 (mulhV m a.bits b.bits)
  | 0x06 => .ok (dstUniV s c m ⟨madV m a.bits b.bits d.bits, a.poison || b.poison || d.poison⟩)
  | 0x07 =>
    let d := uniD s c c.raw.d
    .ok (dstUniV s c 3 ⟨madwV m a32.bits b32.bits d.bits, a32.poison || b32.poison || d.poison⟩)
  | 0x08 => out2 (minV m a.bits b.bits)
  | 0x09 => out2 (maxV m a.bits b.bits)
  | 0x0A => out1 (absV m a.bits)
  | 0x0B => out1 (negV m a.bits)
  | 0x0C => out2 (andV a.bits b.bits)
  | 0x0D => out2 (orV a.bits b.bits)
  | 0x0E => out2 (xorV a.bits b.bits)
  | 0x0F => out2 (andnV a.bits b.bits)
  | 0x10 => out1 (notV m a.bits)
  | 0x11 => outAmt (shlV m a.bits b32.bits.toNat)
  | 0x12 => outAmt (shrV m a.bits b32.bits.toNat)
  | 0x13 => outAmt (sarV m a.bits b32.bits.toNat)
  | 0x14 => outAmt (rotlV m a.bits b32.bits.toNat)
  | 0x15 => outAmt (bfxV m a.bits b32.bits.toNat)
  | 0x16 => .ok (dstUniV s c m ⟨bfiV m a.bits d.bits b32.bits.toNat, a.poison || b32.poison || d.poison⟩)
  | 0x17 => .ok (dstUniV s c m ⟨bmskV m a32.bits.toNat b32.bits.toNat, a32.poison || b32.poison⟩)
  | 0x18 => .ok (dstUniV s c 1 ⟨popcV m a.bits, a.poison⟩)
  | 0x19 => .ok (dstUniV s c 1 ⟨clzV m a.bits, a.poison⟩)
  | 0x1A => .ok (dstUniV s c 1 ⟨ctzV m a.bits, a.poison⟩)
  | 0x1B => out1 (brevV m a.bits)
  | 0x1C =>
    let a := uniD s c c.raw.a
    .ok (dstUniV s c 3 ⟨leaV m a.bits b32.bits.lo, a.poison || b32.poison⟩)
  | _ => out1 a.bits

/-- ADD (R159). -/
def execAdd (w : TForm) (s : State) : Host.Outcome State Fault Refusal :=
  .next (issue (.add w) (alu2 addV) s)

/-- ADDC (R160). -/
def execAddc (w : TForm) (s : State) : Host.Outcome State Fault Refusal :=
  .next (issue (.addc w) (aluCarry addCarry) s)

/-- SUB (R159). -/
def execSub (w : TForm) (s : State) : Host.Outcome State Fault Refusal :=
  .next (issue (.sub w) (alu2 subV) s)

/-- SUBB (R160). -/
def execSubb (w : TForm) (s : State) : Host.Outcome State Fault Refusal :=
  .next (issue (.subb w) (aluCarry subBorrow) s)

/-- MUL (R159). -/
def execMul (w : TForm) (s : State) : Host.Outcome State Fault Refusal :=
  .next (issue (.mul w) (alu2 mulV) s)

/-- MULH (R159). -/
def execMulh (w : TForm) (s : State) : Host.Outcome State Fault Refusal :=
  .next (issue (.mulh w) (alu2 mulhV) s)

/-- MAD (R156, R159). -/
def execMad (w : TForm) (s : State) : Host.Outcome State Fault Refusal :=
  .next (issue (.mad w) (aluAcc madV) s)

/-- MADW (R156, R159). -/
def execMadw (w : TForm) (s : State) : Host.Outcome State Fault Refusal :=
  .next (issue (.madw w) actMadw s)

/-- MIN (R159). -/
def execMin (w : TForm) (s : State) : Host.Outcome State Fault Refusal :=
  .next (issue (.min w) (alu2 minV) s)

/-- MAX (R159). -/
def execMax (w : TForm) (s : State) : Host.Outcome State Fault Refusal :=
  .next (issue (.max w) (alu2 maxV) s)

/-- ABS (R159). -/
def execAbs (w : TForm) (s : State) : Host.Outcome State Fault Refusal :=
  .next (issue (.abs w) (aluSat absV) s)

/-- NEG (R159). -/
def execNeg (w : TForm) (s : State) : Host.Outcome State Fault Refusal :=
  .next (issue (.neg w) (aluSat negV) s)

/-- AND (R161). -/
def execAnd (w : TForm) (s : State) : Host.Outcome State Fault Refusal :=
  .next (issue (.and w) (alu2 (fun _ => andV)) s)

/-- OR (R161). -/
def execOr (w : TForm) (s : State) : Host.Outcome State Fault Refusal :=
  .next (issue (.or w) (alu2 (fun _ => orV)) s)

/-- XOR (R161). -/
def execXor (w : TForm) (s : State) : Host.Outcome State Fault Refusal :=
  .next (issue (.xor w) (alu2 (fun _ => xorV)) s)

/-- ANDN (R161). -/
def execAndn (w : TForm) (s : State) : Host.Outcome State Fault Refusal :=
  .next (issue (.andn w) (alu2 (fun _ => andnV)) s)

/-- NOT (R161). -/
def execNot (w : TForm) (s : State) : Host.Outcome State Fault Refusal :=
  .next (issue (.not w) (alu1 notV) s)

/-- SHL (R162). -/
def execShl (w : TForm) (s : State) : Host.Outcome State Fault Refusal :=
  .next (issue (.shl w) (aluAmt shlV) s)

/-- SHR (R162). -/
def execShr (w : TForm) (s : State) : Host.Outcome State Fault Refusal :=
  .next (issue (.shr w) (aluAmt shrV) s)

/-- SAR (R162). -/
def execSar (w : TForm) (s : State) : Host.Outcome State Fault Refusal :=
  .next (issue (.sar w) (aluAmt sarV) s)

/-- ROTL (R162). -/
def execRotl (w : TForm) (s : State) : Host.Outcome State Fault Refusal :=
  .next (issue (.rotl w) (aluAmt rotlV) s)

/-- BFX (R163). -/
def execBfx (w : TForm) (s : State) : Host.Outcome State Fault Refusal :=
  .next (issue (.bfx w) (aluAmt bfxV) s)

/-- BFI (R156, R163). -/
def execBfi (w : TForm) (s : State) : Host.Outcome State Fault Refusal :=
  .next (issue (.bfi w) actBfi s)

/-- BMSK (R163). -/
def execBmsk (w : TForm) (s : State) : Host.Outcome State Fault Refusal :=
  .next (issue (.bmsk w) actBmsk s)

/-- POPC (R164). -/
def execPopc (w : TForm) (s : State) : Host.Outcome State Fault Refusal :=
  .next (issue (.popc w) (aluCount popcV) s)

/-- CLZ (R164). -/
def execClz (w : TForm) (s : State) : Host.Outcome State Fault Refusal :=
  .next (issue (.clz w) (aluCount clzV) s)

/-- CTZ (R164). -/
def execCtz (w : TForm) (s : State) : Host.Outcome State Fault Refusal :=
  .next (issue (.ctz w) (aluCount ctzV) s)

/-- BREV (R164). -/
def execBrev (w : TForm) (s : State) : Host.Outcome State Fault Refusal :=
  .next (issue (.brev w) (alu1 brevV) s)

/-- LEA (R167). -/
def execLea (w : TForm) (s : State) : Host.Outcome State Fault Refusal :=
  .next (issue (.lea w) actLea s)

/-- MOV (R170). -/
def execMov (w : TForm) (s : State) : Host.Outcome State Fault Refusal :=
  .next (issue (.mov w) (alu1 (fun _ a => a)) s)

/-- MOVI (R170). -/
def execMovi (w : WForm) (s : State) : Host.Outcome State Fault Refusal :=
  .next (issue (.movi w) actMovi s)

/-- MOVHI (R156, R170). -/
def execMovhi (w : WForm) (s : State) : Host.Outcome State Fault Refusal :=
  .next (issue (.movhi w) actMovhi s)

/-- V2G (R171). -/
def execV2g (w : TForm) (s : State) : Host.Outcome State Fault Refusal :=
  .next (issueGroups (.v2g w) actV2g s)

/-- ADD with IMM9 (R159). -/
def execAddI (w : IForm) (s : State) : Host.Outcome State Fault Refusal :=
  .next (issue (.addI w) (aluImm (fun a b => addV 1 a (b.setWidth 64))) s)

/-- AND with IMM9 (R161). -/
def execAndI (w : IForm) (s : State) : Host.Outcome State Fault Refusal :=
  .next (issue (.andI w) (aluImm (fun a b => andV a (b.setWidth 64))) s)

/-- OR with IMM9 (R161). -/
def execOrI (w : IForm) (s : State) : Host.Outcome State Fault Refusal :=
  .next (issue (.orI w) (aluImm (fun a b => orV a (b.setWidth 64))) s)

/-- XOR with IMM9 (R161). -/
def execXorI (w : IForm) (s : State) : Host.Outcome State Fault Refusal :=
  .next (issue (.xorI w) (aluImm (fun a b => xorV a (b.setWidth 64))) s)

/-- SHL by IMM9 (R162). -/
def execShlI (w : IForm) (s : State) : Host.Outcome State Fault Refusal :=
  .next (issue (.shlI w) (aluImm (fun a b => shlV 1 a b.toNat)) s)

/-- SHR by IMM9 (R162). -/
def execShrI (w : IForm) (s : State) : Host.Outcome State Fault Refusal :=
  .next (issue (.shrI w) (aluImm (fun a b => shrV 1 a b.toNat)) s)

/-- SAR by IMM9 (R162). -/
def execSarI (w : IForm) (s : State) : Host.Outcome State Fault Refusal :=
  .next (issue (.sarI w) (aluImm (fun a b => sarV 1 a b.toNat)) s)

/-- CMP (R168). -/
def execCmp (w : XForm) (s : State) : Host.Outcome State Fault Refusal :=
  .next (issue (.cmp w) actCmp s)

/-- CMPV (R168). -/
def execCmpv (w : XForm) (s : State) : Host.Outcome State Fault Refusal :=
  .next (issue (.cmpv w) actCmpv s)

/-- SEL (R169). -/
def execSel (w : XForm) (s : State) : Host.Outcome State Fault Refusal :=
  .next (issue (.sel w) actSel s)

/-- PRMT (R165). -/
def execPrmt (w : XForm) (s : State) : Host.Outcome State Fault Refusal :=
  .next (issue (.prmt w) (alu3 prmtV) s)

/-- FSHL (R166). -/
def execFshl (w : XForm) (s : State) : Host.Outcome State Fault Refusal :=
  .next (issue (.fshl w) (alu3 fshlV) s)

/-- FSHR (R166). -/
def execFshr (w : XForm) (s : State) : Host.Outcome State Fault Refusal :=
  .next (issue (.fshr w) (alu3 fshrV) s)

/-- A uniform-pipe form, once for each group with threads in the bundle (R47, R158). -/
def execUniformPipeOp (sub : BitVec 8) (w : XForm) (s : State) : Host.Outcome State Fault Refusal :=
  .next (issueGroups (.uniformPipeOp sub w) actUniform s)

end Sys2Proof.Machine
end

