-- ==== Sys2Proof/Machine/Mmio.lean ====
section
/-! DEFINITION. The management window (R445, R451): its registers as the companion reads and writes them, with the events that a
write starts (R245, R247, R260, R262). -/

namespace Sys2Proof.Machine

-- the registers whose writes act

/-- A write of TLBINV starts an invalidation, unless one is under way (R260). -/
def startTlbinv (mode asid va : Nat) (s : State) : State :=
  if s.booted = false ∨ s.tlbinv.isSome = true ∨ 2 < mode then s else { s with tlbinv := some (mode, asid % 65536, va) }

/-- Every core has acknowledged: the last-page registers named are empty (R257, R260). -/
def endTlbinv (s : State) : State :=
  match s.tlbinv with
  | none => s
  | some (mode, asid, va) =>
    { dropTranslations s (if mode = 2 then none else some asid) (if mode = 0 then some va else none) with tlbinv := none }

/-- A write of MARCFG (R247). -/
def writeMarcfg (v : Word) (s : State) : State :=
  if s.booted = false ∨ v.toNat % 8 = 7 then s else { s with marcfgReq := v.toNat % 8 }

/-- The carve-out becomes what is requested, once no team is resident and no engine command in flight (R247). -/
def changeCarve (s : State) : State :=
  if s.marcfgReq = s.marcfgActive ∨ s.teams ≠ [] ∨ enginesIdle s = false then s
  else
    let s := { s with marcfgActive := s.marcfgReq }
    let n := carveBytes s
    trimMarrow { s with carve := s.carve.filter (fun e => decide (e.1 < n)), carvePoison := s.carvePoison.filter (fun l => decide (128 * l < n)),
                        order := { s.order with hist := s.order.hist.filter (fun e => decide (e.1 % 3 ≠ 1)) } }

/-- A write of L1CFG of a core; the lines and bricks displaced, free choices where there are any, are dropped (R245, log entry 42). -/
def writeL1cfg (core : Nat) (v : Word) (s : State) : State :=
  if s.booted = false ∨ 216 ≤ core ∨ classOfCore core = .l ∨ v.toNat % 4 = 3 then s
  else modCore s core (fun c => displace { c with l1cfg := v.toNat % 4 })

/-- A write of ACCCTL; clearing EN discards all counts (R262). -/
def writeAccctl (v : Word) (s : State) : State :=
  if s.booted = false then s
  else { s with accctl := v &&& 0x8000FFFF#32, accCounts := if v.getLsbD 31 then s.accCounts else [] }

/-- The record of a count that has reached THRESH (R262). -/
def recordAccess (asid region : Nat) (s : State) : State :=
  let key := asid * 2 ^ 31 + region
  if region < 2 ^ 31 ∧ accDue s key = true then accRecord s key else s

/-- TLBINV_PAGE (R260). -/
def execTlbinvPage (asid va : Nat) (s : State) : Host.Outcome State Fault Refusal := .next (startTlbinv 0 asid va s)
/-- TLBINV_ASID (R260). -/
def execTlbinvAsid (asid : Nat) (s : State) : Host.Outcome State Fault Refusal := .next (startTlbinv 1 asid 0 s)
/-- TLBINV_ALL (R260). -/
def execTlbinvAll (s : State) : Host.Outcome State Fault Refusal := .next (startTlbinv 2 0 0 s)
/-- TLBINV_DONE (R260). -/
def execTlbinvDone (s : State) : Host.Outcome State Fault Refusal := .next (endTlbinv s)
/-- MARCFG_WRITE (R247). -/
def execMarcfgWrite (value : Word) (s : State) : Host.Outcome State Fault Refusal := .next (writeMarcfg value s)
/-- CARVE_CHANGE (R247). -/
def execCarveChange (s : State) : Host.Outcome State Fault Refusal := .next (changeCarve s)
/-- L1CFG_WRITE (R245). -/
def execL1cfgWrite (core : Nat) (value : Word) (s : State) : Host.Outcome State Fault Refusal := .next (writeL1cfg core value s)
/-- ACCCTL_WRITE (R262). -/
def execAccctlWrite (value : Word) (s : State) : Host.Outcome State Fault Refusal := .next (writeAccctl value s)
/-- ACCESS_COUNTER_RECORD (R262). -/
def execAccessCounterRecord (asid region : Nat) (s : State) : Host.Outcome State Fault Refusal := .next (recordAccess asid region s)

-- the other registers

/-- A register's fields: those of v where the mask has ones (R7). -/
def fields (mask : Nat) (v : DWord) : DWord := v &&& BitVec.ofNat 64 mask

/-- A BASE register of a ring: a SIZE above 8 is ignored (R262). -/
def ringBase (r : Ring) (v : DWord) : Ring := if 8 < v.toNat % 16 then r else { r with base := fields 0x00000FFFFFFFF00F v }

/-- A write of PMTPOOL (R407, R451). -/
def writePmtpool (v : DWord) (s : State) : State :=
  let size := v.toNat % 32
  if s.saved ≠ [] ∨ 16 < size ∨ deviceTop < bits v.toNat 43 16 * 65536 + 65536 * 2 ^ size then s
  else { s with pmtpool := fields 0x00000FFFFFFF001F v }

/-- A write of PUBTAB (R292, R451). -/
def writePubtab (v : DWord) (s : State) : State :=
  let size := v.toNat % 8
  if 4 < size ∨ deviceTop < bits v.toNat 43 12 * 4096 + 4096 * 2 ^ size then s else { afterCompanion s with pubtab := fields 0x00000FFFFFFFF007 v }

/-- A write of REDSPILL (R395, R451). -/
def writeRedspill (v : DWord) (s : State) : State :=
  let size := v.toNat % 16
  if s.redSpilled ≠ [] ∨ 8 < size ∨ deviceTop < bits v.toNat 43 16 * 65536 + 65536 * 2 ^ size then s
  else { s with redspill := fields 0x80000FFFFFFF000F v }

/-- A write of RLMODE: a PERIOD of 22 to 31 is ignored (R431); counting begins anew where there was no PERIOD (R435; DESIGN CHOICE, log
entry 4). -/
def writeRlmode (v : Word) (s : State) : State :=
  if 22 ≤ bits v.toNat 23 19 then s
  else
    let p := samplePeriod s.rlmode
    let s := if p = 0 then { s with cores := s.cores.map (fun c => (c.1, { c.2 with counters := [] })) } else s
    let q := samplePeriod v
    { s with rlmode := v &&& 0xC0F8001F#32, nextTick := if q = 0 then 0 else (s.clock / q + 1) * q }

/-- The setting of a register of 32 bits that has no behaviour of its own (R7, R110, R262, R423, R432). -/
def setWord (off : Nat) (v : Word) (s : State) : State :=
  match off with
  | 0x000000 => { s with lqweight := v }
  | 0x000004 => { s with dberr := v }
  | 0x000008 => { s with lqerr := v }
  | 0x200028 => { s with mclass := v }
  | 0x200054 => { s with accRing := { s.accRing with tail := v } }
  | 0x200058 => { s with accRing := { s.accRing with drop := v } }
  | 0x20008C => { s with errRing := { s.errRing with tail := v } }
  | 0x200090 => { s with errRing := { s.errRing with drop := v } }
  | 0x2000A0 => writeRlmode v s
  | 0x2000BC => { s with traceRing := { s.traceRing with tail := v } }
  | 0x2000C0 => { s with traceRing := { s.traceRing with drop := v } }
  | 0x2000D4 => { s with counterRing := { s.counterRing with tail := v } }
  | 0x2000D8 => { s with counterRing := { s.counterRing with drop := v } }
  | 0x2000EC => retryActs (logRecover { s with logRing := { s.logRing with tail := v } })
  | 0x2000F0 => { s with logRing := { s.logRing with drop := v } }
  | _ =>
    if 0x1000 ≤ off ∧ off < 0x1400 ∧ off % 4 = 0 then { s with dbbind := kset 0 s.dbbind ((off - 0x1000) / 4) (v &&& 0x801FFFFF#32) } else s

/-- The setting of a register of 64 bits that has no behaviour of its own (R7, R252, R262, R407, R417, R423, R431, R432). -/
def setDword (off : Nat) (v : DWord) (s : State) : State :=
  match off with
  | 0x000208 => writePmtpool v s
  | 0x000218 => if v.getLsbD 63 then { s with haltstat := 0, haltpc := 0 } else s
  | 0x200000 => { afterCompanion s with astab := fields 0x00000FFFFFFF0000 v }
  | 0x200048 => { s with accRing := ringBase s.accRing v }
  | 0x200060 => writePubtab v s
  | 0x200070 => writeRedspill v s
  | 0x200080 => { s with errRing := ringBase s.errRing v }
  | 0x2000A8 => { s with rrwatch := v }
  | 0x2000B0 => { s with traceRing := ringBase s.traceRing v }
  | 0x2000C8 => { s with counterRing := ringBase s.counterRing v }
  | 0x2000E0 => logRecover { s with logRing := ringBase s.logRing v }
  | _ => s

/-- A write of PMTCTL: OP 0 and 4 to 7 are ignored, as is a write while BUSY is 1 (R407). -/
def writePmtctl (v : DWord) (s : State) : State :=
  let sel := bits v.toNat 60 59
  let value := bits v.toNat 51 0
  if s.pmt.isSome then s
  else match bits v.toNat 63 61 with
    | 1 => beginSave s sel value (fun id => selects s sel value id) none
    | 2 => beginHalt s sel value (fun id => selects s sel value id)
    | 3 => resumeTeams s sel value
    | _ => s

/-- A write of KILLCTL (R428). -/
def writeKillctl (v : DWord) (s : State) : State :=
  if v.getLsbD 63 = false ∨ s.killBusy ≠ [] then s else killSelected s (bits v.toNat 60 59) (bits v.toNat 51 0)

/-- The doorbell whose page holds an offset, if the access touches its register (R110, R445). -/
def doorbellAt (off : Nat) : Option Nat := if 0x100000 ≤ off ∧ off < 0x200000 ∧ off % 4096 < 8 then some ((off - 0x100000) / 4096) else none

/-- A write of width bits at a doorbell (R112, R445, R447). -/
def writeDoorbell (off n width : Nat) (v : DWord) (s : State) : State :=
  if off % 4096 ≠ 0 then countDberr s
  else takeDoorbell n width v s

/-- A register of 32 bits written at its offset, whatever it does. -/
def writeWord (off : Nat) (v : Word) (s : State) : State :=
  if off = 0x200020 then writeMarcfg v s
  else if off = 0x200040 then writeAccctl v s
  else if 0x201000 ≤ off ∧ off < 0x201360 ∧ off % 4 = 0 then writeL1cfg ((off - 0x201000) / 4) v s
  else setWord off v s

/-- A register of 64 bits written at its offset, whatever it does. -/
def writeDword (off : Nat) (v : DWord) (s : State) : State :=
  if off = 0x000200 then writePmtctl v s
  else if off = 0x000210 then writeKillctl v s
  else if off = 0x200010 then startTlbinv (bits v.toNat 63 62) (bits v.toNat 15 0) (bits v.toNat 51 16 * 65536) s
  else setDword off v s

/-- A write of the management block, which is there before bring-up too (R446, R448). -/
def writeManagement (off width : Nat) (v : DWord) (s : State) : State :=
  if off = 0x400000 ∧ width = 32 then (if v.toNat % 8 < 3 then requestPower (v.toNat % 8) s else s)
  else if off = 0x400010 ∧ width = 32 then advanceFuse v.lo s
  else if off = 0x400018 ∧ width = 64 then startCheckpoint v s
  else s

/-- A write of width bits at an offset of the window: each register takes writes of its own width at its own offset, and any other
is ignored, and counted at a doorbell (R445). -/
def writeWindow (off width : Nat) (v : DWord) (s : State) : State :=
  if 0x400000 ≤ off then writeManagement off width v s
  else if s.booted = false then s
  else match doorbellAt off with
    | some n => writeDoorbell off n width v s
    | none => if width = 32 then writeWord off v.lo s else if width = 64 then writeDword off v s else s

/-- REGISTER_WRITE (R7, R445). -/
def execRegisterWrite (offset width : Nat) (value : DWord) (s : State) : Host.Outcome State Fault Refusal := .next (writeWindow offset width value s)

-- reads

/-- The live cores of a class (R446). -/
def liveCount (s : State) (c : Form) : Nat := ((coresOf c).filter (liveCore s)).length

/-- The registers of 32 bits as they read (R17, R18, R111, R247, R446). -/
def readWord (off : Nat) (s : State) : Word :=
  match off with
  | 0x000000 => s.lqweight
  | 0x000004 => s.dberr
  | 0x000008 => s.lqerr
  | 0x200020 => marcfgWord s
  | 0x200028 => s.mclass
  | 0x200040 => s.accctl
  | 0x200050 => s.accRing.head
  | 0x200054 => s.accRing.tail
  | 0x200058 => s.accRing.drop
  | 0x200088 => s.errRing.head
  | 0x20008C => s.errRing.tail
  | 0x200090 => s.errRing.drop
  | 0x2000A0 => s.rlmode
  | 0x2000B8 => s.traceRing.head
  | 0x2000BC => s.traceRing.tail
  | 0x2000C0 => s.traceRing.drop
  | 0x2000D0 => s.counterRing.head
  | 0x2000D4 => s.counterRing.tail
  | 0x2000D8 => s.counterRing.drop
  | 0x2000E8 => s.logRing.head
  | 0x2000EC => s.logRing.tail
  | 0x2000F0 => s.logRing.drop
  | 0x400000 => wd (s.pwrCur * 16 + b2n (decide (s.pwrReq ≠ s.pwrCur)) * 8 + s.pwrReq)
  | 0x400008 => wd (b2n s.booted * 2 ^ 31 + b2n s.fwBad * 2 ^ 30 + if s.booted then liveCount s .d * 256 + liveCount s .l else 0)
  | 0x400020 => lrev
  | 0x400024 => wd s.secCount
  | _ =>
    if 0x100 ≤ off ∧ off < 0x180 ∧ off % 4 = 0 then
      let q := (off - 0x100) / 4
      wd ((queueOf s q 0).length + (queueOf s q 1).length + (pendingOf s q 0).length + (pendingOf s q 1).length)
    else if 0x1000 ≤ off ∧ off < 0x1400 ∧ off % 4 = 0 then kget 0 s.dbbind ((off - 0x1000) / 4)
    else if 0x201000 ≤ off ∧ off < 0x201360 ∧ off % 4 = 0 then wd (getCore s ((off - 0x201000) / 4)).l1cfg
    else 0

/-- The registers of 64 bits as they read; fields that are only written read 0 (R7, R260, R407, R417, R428, R446). -/
def readDword (off : Nat) (s : State) : DWord :=
  match off with
  | 0x000200 => BitVec.ofNat 64 (b2n s.pmt.isSome * 2 ^ 58 + b2n s.pmtPartial * 2 ^ 57)
  | 0x000208 => s.pmtpool
  | 0x000210 => BitVec.ofNat 64 (b2n (decide (s.killBusy ≠ [])) * 2 ^ 58)
  | 0x000218 => s.haltstat
  | 0x000220 => s.haltpc
  | 0x200000 => s.astab
  | 0x200010 => BitVec.ofNat 64 (b2n s.tlbinv.isSome * 2 ^ 61)
  | 0x200048 => s.accRing.base
  | 0x200060 => s.pubtab
  | 0x200070 => s.redspill
  | 0x200080 => s.errRing.base
  | 0x2000A8 => s.rrwatch
  | 0x2000B0 => s.traceRing.base
  | 0x2000C8 => s.counterRing.base
  | 0x2000E0 => s.logRing.base
  | 0x400018 => BitVec.ofNat 64 (b2n s.ckptBusy * 2 ^ 62 + b2n s.ckptErr * 2 ^ 61)
  | _ => 0

/-- True for the offset of a register of 64 bits. -/
def wideAt (off : Nat) : Bool :=
  decide (off ∈ [0x200, 0x208, 0x210, 0x218, 0x220, 0x200000, 0x200010, 0x200048, 0x200060, 0x200070, 0x200080, 0x2000A8, 0x2000B0, 0x2000C8,
    0x2000E0, 0x400018])

/-- What a read of width bits at an offset of the window returns (R445); none where the block cannot be reached (R448). -/
def readWindow (off width : Nat) (s : State) : Option DWord :=
  if off < 0x400000 ∧ s.booted = false then none
  else if width = 64 then some (readDword off s)
  else if width = 32 then
    some (if wideAt off then (readDword off s).lo.setWidth 64
      else if 4 ≤ off ∧ wideAt (off - 4) = true then (readDword (off - 4) s).hi.setWidth 64
      else (readWord off s).setWidth 64)
  else some 0

end Sys2Proof.Machine
end

