-- ==== Sys2Proof/Machine/Dispatch.lean ====
section
/-! DEFINITION. One arm for each instruction and event. -/

namespace Sys2Proof.Machine

def exec (i : Instr) (s : State) : Host.Outcome State Fault Refusal :=
  match i with
  | .add w => Sys2Proof.Machine.execAdd w s
  | .addc w => Sys2Proof.Machine.execAddc w s
  | .sub w => Sys2Proof.Machine.execSub w s
  | .subb w => Sys2Proof.Machine.execSubb w s
  | .mul w => Sys2Proof.Machine.execMul w s
  | .mulh w => Sys2Proof.Machine.execMulh w s
  | .mad w => Sys2Proof.Machine.execMad w s
  | .madw w => Sys2Proof.Machine.execMadw w s
  | .min w => Sys2Proof.Machine.execMin w s
  | .max w => Sys2Proof.Machine.execMax w s
  | .abs w => Sys2Proof.Machine.execAbs w s
  | .neg w => Sys2Proof.Machine.execNeg w s
  | .and w => Sys2Proof.Machine.execAnd w s
  | .or w => Sys2Proof.Machine.execOr w s
  | .xor w => Sys2Proof.Machine.execXor w s
  | .andn w => Sys2Proof.Machine.execAndn w s
  | .not w => Sys2Proof.Machine.execNot w s
  | .shl w => Sys2Proof.Machine.execShl w s
  | .shr w => Sys2Proof.Machine.execShr w s
  | .sar w => Sys2Proof.Machine.execSar w s
  | .rotl w => Sys2Proof.Machine.execRotl w s
  | .bfx w => Sys2Proof.Machine.execBfx w s
  | .bfi w => Sys2Proof.Machine.execBfi w s
  | .bmsk w => Sys2Proof.Machine.execBmsk w s
  | .popc w => Sys2Proof.Machine.execPopc w s
  | .clz w => Sys2Proof.Machine.execClz w s
  | .ctz w => Sys2Proof.Machine.execCtz w s
  | .brev w => Sys2Proof.Machine.execBrev w s
  | .lea w => Sys2Proof.Machine.execLea w s
  | .mov w => Sys2Proof.Machine.execMov w s
  | .movi w => Sys2Proof.Machine.execMovi w s
  | .movhi w => Sys2Proof.Machine.execMovhi w s
  | .v2g w => Sys2Proof.Machine.execV2g w s
  | .addI w => Sys2Proof.Machine.execAddI w s
  | .andI w => Sys2Proof.Machine.execAndI w s
  | .orI w => Sys2Proof.Machine.execOrI w s
  | .xorI w => Sys2Proof.Machine.execXorI w s
  | .shlI w => Sys2Proof.Machine.execShlI w s
  | .shrI w => Sys2Proof.Machine.execShrI w s
  | .sarI w => Sys2Proof.Machine.execSarI w s
  | .pand w => Sys2Proof.Machine.execPand w s
  | .por w => Sys2Proof.Machine.execPor w s
  | .pxor w => Sys2Proof.Machine.execPxor w s
  | .pnot w => Sys2Proof.Machine.execPnot w s
  | .bra w => Sys2Proof.Machine.execBra w s
  | .brp w => Sys2Proof.Machine.execBrp w s
  | .call w => Sys2Proof.Machine.execCall w s
  | .calli w => Sys2Proof.Machine.execCalli w s
  | .ret w => Sys2Proof.Machine.execRet w s
  | .exit w => Sys2Proof.Machine.execExit w s
  | .nop w => Sys2Proof.Machine.execNop w s
  | .yield w => Sys2Proof.Machine.execYield w s
  | .joinh w => Sys2Proof.Machine.execJoinh w s
  | .trap w => Sys2Proof.Machine.execTrap w s
  | .tret w => Sys2Proof.Machine.execTret w s
  | .pnew w => Sys2Proof.Machine.execPnew w s
  | .pset w => Sys2Proof.Machine.execPset w s
  | .pedge w => Sys2Proof.Machine.execPedge w s
  | .parm w => Sys2Proof.Machine.execParm w s
  | .pwait w => Sys2Proof.Machine.execPwait w s
  | .fadd w => Sys2Proof.Machine.execFadd w s
  | .fsub w => Sys2Proof.Machine.execFsub w s
  | .fmul w => Sys2Proof.Machine.execFmul w s
  | .ffma w => Sys2Proof.Machine.execFfma w s
  | .fmin w => Sys2Proof.Machine.execFmin w s
  | .fmax w => Sys2Proof.Machine.execFmax w s
  | .fabs w => Sys2Proof.Machine.execFabs w s
  | .fneg w => Sys2Proof.Machine.execFneg w s
  | .fcps w => Sys2Proof.Machine.execFcps w s
  | .fcmp w => Sys2Proof.Machine.execFcmp w s
  | .fclass w => Sys2Proof.Machine.execFclass w s
  | .frnd w => Sys2Proof.Machine.execFrnd w s
  | .fract w => Sys2Proof.Machine.execFract w s
  | .fdiv w => Sys2Proof.Machine.execFdiv w s
  | .pack2 w => Sys2Proof.Machine.execPack2 w s
  | .hadd2 w => Sys2Proof.Machine.execHadd2 w s
  | .hmul2 w => Sys2Proof.Machine.execHmul2 w s
  | .hfma2 w => Sys2Proof.Machine.execHfma2 w s
  | .rcp w => Sys2Proof.Machine.execRcp w s
  | .rsq w => Sys2Proof.Machine.execRsq w s
  | .sqrt w => Sys2Proof.Machine.execSqrt w s
  | .exp2 w => Sys2Proof.Machine.execExp2 w s
  | .log2 w => Sys2Proof.Machine.execLog2 w s
  | .sin w => Sys2Proof.Machine.execSin w s
  | .cos w => Sys2Proof.Machine.execCos w s
  | .tanh w => Sys2Proof.Machine.execTanh w s
  | .xadd w => Sys2Proof.Machine.execXadd w s
  | .xsub w => Sys2Proof.Machine.execXsub w s
  | .xmul w => Sys2Proof.Machine.execXmul w s
  | .xsqr w => Sys2Proof.Machine.execXsqr w s
  | .xsqrt w => Sys2Proof.Machine.execXsqrt w s
  | .xrcp w => Sys2Proof.Machine.execXrcp w s
  | .xmin w => Sys2Proof.Machine.execXmin w s
  | .xmax w => Sys2Proof.Machine.execXmax w s
  | .xabs w => Sys2Proof.Machine.execXabs w s
  | .xhull w => Sys2Proof.Machine.execXhull w s
  | .xcont w => Sys2Proof.Machine.execXcont w s
  | .gshf w => Sys2Proof.Machine.execGshf w s
  | .gbc w => Sys2Proof.Machine.execGbc w s
  | .gvote w => Sys2Proof.Machine.execGvote w s
  | .gball w => Sys2Proof.Machine.execGball w s
  | .gred w => Sys2Proof.Machine.execGred w s
  | .gscan w => Sys2Proof.Machine.execGscan w s
  | .gmatch w => Sys2Proof.Machine.execGmatch w s
  | .gelect w => Sys2Proof.Machine.execGelect w s
  | .gsync w => Sys2Proof.Machine.execGsync w s
  | .ldp w => Sys2Proof.Machine.execLdp w s
  | .stp w => Sys2Proof.Machine.execStp w s
  | .lds w => Sys2Proof.Machine.execLds w s
  | .sts w => Sys2Proof.Machine.execSts w s
  | .ldc w => Sys2Proof.Machine.execLdc w s
  | .stc w => Sys2Proof.Machine.execStc w s
  | .ldg w => Sys2Proof.Machine.execLdg w s
  | .stg w => Sys2Proof.Machine.execStg w s
  | .stgm w => Sys2Proof.Machine.execStgm w s
  | .ldk w => Sys2Proof.Machine.execLdk w s
  | .stk w => Sys2Proof.Machine.execStk w s
  | .lda w => Sys2Proof.Machine.execLda w s
  | .pref w => Sys2Proof.Machine.execPref w s
  | .brkf w => Sys2Proof.Machine.execBrkf w s
  | .ats w => Sys2Proof.Machine.execAts w s
  | .atg w => Sys2Proof.Machine.execAtg w s
  | .red w => Sys2Proof.Machine.execRed w s
  | .rflush w => Sys2Proof.Machine.execRflush w s
  | .fence w => Sys2Proof.Machine.execFence w s
  | .icinvLine w => Sys2Proof.Machine.execIcinvLine w s
  | .icinvAll w => Sys2Proof.Machine.execIcinvAll w s
  | .bari w => Sys2Proof.Machine.execBari w s
  | .barx w => Sys2Proof.Machine.execBarx w s
  | .bara w => Sys2Proof.Machine.execBara w s
  | .barw w => Sys2Proof.Machine.execBarw w s
  | .barwTry w => Sys2Proof.Machine.execBarwTry w s
  | .bart w => Sys2Proof.Machine.execBart w s
  | .eqp w => Sys2Proof.Machine.execEqp w s
  | .migr w => Sys2Proof.Machine.execMigr w s
  | .csrr w => Sys2Proof.Machine.execCsrr w s
  | .csrw w => Sys2Proof.Machine.execCsrw w s
  | .tlbiPage w => Sys2Proof.Machine.execTlbiPage w s
  | .tlbiAsid w => Sys2Proof.Machine.execTlbiAsid w s
  | .halt w => Sys2Proof.Machine.execHalt w s
  | .runh w => Sys2Proof.Machine.execRunh w s
  | .runt w => Sys2Proof.Machine.execRunt w s
  | .pad w => Sys2Proof.Machine.execPad w s
  | .uniformPipeOp sub w => Sys2Proof.Machine.execUniformPipeOp sub w s
  | .cmp w => Sys2Proof.Machine.execCmp w s
  | .cmpv w => Sys2Proof.Machine.execCmpv w s
  | .sel w => Sys2Proof.Machine.execSel w s
  | .prmt w => Sys2Proof.Machine.execPrmt w s
  | .fshl w => Sys2Proof.Machine.execFshl w s
  | .fshr w => Sys2Proof.Machine.execFshr w s
  | .ffma4 w => Sys2Proof.Machine.execFfma4 w s
  | .cvt w => Sys2Proof.Machine.execCvt w s
  | .tidw w => Sys2Proof.Machine.execTidw w s
  | .tidr w => Sys2Proof.Machine.execTidr w s
  | .cpy w => Sys2Proof.Machine.execCpy w s
  | .cpyg w => Sys2Proof.Machine.execCpyg w s
  | .cpyx w => Sys2Proof.Machine.execCpyx w s
  | .qnt w => Sys2Proof.Machine.execQnt w s
  | .pub w => Sys2Proof.Machine.execPub w s
  | .mxcfgAcq w => Sys2Proof.Machine.execMxcfgAcq w s
  | .mxcfgSet w => Sys2Proof.Machine.execMxcfgSet w s
  | .mxcfgRel w => Sys2Proof.Machine.execMxcfgRel w s
  | .mxcfgCbw w => Sys2Proof.Machine.execMxcfgCbw w s
  | .mxlw w => Sys2Proof.Machine.execMxlw w s
  | .mxsw w => Sys2Proof.Machine.execMxsw w s
  | .mxst w => Sys2Proof.Machine.execMxst w s
  | .mxdr w => Sys2Proof.Machine.execMxdr w s
  | .mxz w => Sys2Proof.Machine.execMxz w s
  | .mxpr w => Sys2Proof.Machine.execMxpr w s
  | .trav w => Sys2Proof.Machine.execTrav w s
  | .mwalk w => Sys2Proof.Machine.execMwalk w s
  | .mloc w => Sys2Proof.Machine.execMloc w s
  | .march w => Sys2Proof.Machine.execMarch w s
  | .rres w => Sys2Proof.Machine.execRres w s
  | .rrel w => Sys2Proof.Machine.execRrel w s
  | .rget w => Sys2Proof.Machine.execRget w s
  | .fprune w => Sys2Proof.Machine.execFprune w s
  | .primTri w => Sys2Proof.Machine.execPrimTri w s
  | .primEnd w => Sys2Proof.Machine.execPrimEnd w s
  | .visw w => Sys2Proof.Machine.execVisw w s
  | .visr w => Sys2Proof.Machine.execVisr w s
  | .attr w => Sys2Proof.Machine.execAttr w s
  | .pick core picker => Sys2Proof.Machine.execPick core picker s
  | .overdue thread => Sys2Proof.Machine.execOverdue thread s
  | .joinWaitTimeout thread => Sys2Proof.Machine.execJoinWaitTimeout thread s
  | .resultArrival thread index => Sys2Proof.Machine.execResultArrival thread index s
  | .groupMove group => Sys2Proof.Machine.execGroupMove group s
  | .convergenceMismatch group => Sys2Proof.Machine.execConvergenceMismatch group s
  | .doorbell n width value => Sys2Proof.Machine.execDoorbell n width value s
  | .podComplete pod => Sys2Proof.Machine.execPodComplete pod s
  | .pendingEntryRelease team index => Sys2Proof.Machine.execPendingEntryRelease team index s
  | .readyQueuePop engines => Sys2Proof.Machine.execReadyQueuePop engines s
  | .teamPlacement grid => Sys2Proof.Machine.execTeamPlacement grid s
  | .contResume index => Sys2Proof.Machine.execContResume index s
  | .reclamationComplete team => Sys2Proof.Machine.execReclamationComplete team s
  | .reductionDrain pod => Sys2Proof.Machine.execReductionDrain pod s
  | .accessCounterRecord asid region => Sys2Proof.Machine.execAccessCounterRecord asid region s
  | .tlbinvPage asid va => Sys2Proof.Machine.execTlbinvPage asid va s
  | .tlbinvAsid asid => Sys2Proof.Machine.execTlbinvAsid asid s
  | .tlbinvAll => Sys2Proof.Machine.execTlbinvAll s
  | .tlbinvDone => Sys2Proof.Machine.execTlbinvDone s
  | .marcfgWrite value => Sys2Proof.Machine.execMarcfgWrite value s
  | .carveChange => Sys2Proof.Machine.execCarveChange s
  | .l1cfgWrite core value => Sys2Proof.Machine.execL1cfgWrite core value s
  | .accctlWrite value => Sys2Proof.Machine.execAccctlWrite value s
  | .registerWrite offset width value => Sys2Proof.Machine.execRegisterWrite offset width value s
  | .engineCommandStart core => Sys2Proof.Machine.execEngineCommandStart core s
  | .engineBytesLand core command elements => Sys2Proof.Machine.execEngineBytesLand core command elements s
  | .engineCommandEnd core command => Sys2Proof.Machine.execEngineCommandEnd core command s
  | .pubExchange core command => Sys2Proof.Machine.execPubExchange core command s
  | .matrixCommandExecute core index => Sys2Proof.Machine.execMatrixCommandExecute core index s
  | .promote team tile => Sys2Proof.Machine.execPromote team tile s
  | .rayCommandStart team slot => Sys2Proof.Machine.execRayCommandStart team slot s
  | .slotEvict team slot => Sys2Proof.Machine.execSlotEvict team slot s
  | .steplimit team slot => Sys2Proof.Machine.execSteplimit team slot s
  | .fwork team slot => Sys2Proof.Machine.execFwork team slot s
  | .fpruneExecute core => Sys2Proof.Machine.execFpruneExecute core s
  | .binTriangle unit => Sys2Proof.Machine.execBinTriangle unit s
  | .binReplay team target => Sys2Proof.Machine.execBinReplay team target s
  | .tileClose asid target tile => Sys2Proof.Machine.execTileClose asid target tile s
  | .pmtctlSave sel value => Sys2Proof.Machine.execPmtctlSave sel value s
  | .pmtctlHalt sel value => Sys2Proof.Machine.execPmtctlHalt sel value s
  | .pmtctlResume sel value => Sys2Proof.Machine.execPmtctlResume sel value s
  | .coreHalt => Sys2Proof.Machine.execCoreHalt s
  | .teamSave team => Sys2Proof.Machine.execTeamSave team s
  | .teamRestore index => Sys2Proof.Machine.execTeamRestore index s
  | .killCommand sel value => Sys2Proof.Machine.execKillCommand sel value s
  | .hardwareError error => Sys2Proof.Machine.execHardwareError error s
  | .selfTest place outcome => Sys2Proof.Machine.execSelfTest place outcome s
  | .counterSample => Sys2Proof.Machine.execCounterSample s
  | .pwrctlRun => Sys2Proof.Machine.execPwrctlRun s
  | .pwrctlIdle => Sys2Proof.Machine.execPwrctlIdle s
  | .pwrctlRetain => Sys2Proof.Machine.execPwrctlRetain s
  | .powerStateChange => Sys2Proof.Machine.execPowerStateChange s
  | .secadv key => Sys2Proof.Machine.execSecadv key s
  | .ckptctlGo value => Sys2Proof.Machine.execCkptctlGo value s
  | .checkpointEnd failed => Sys2Proof.Machine.execCheckpointEnd failed s
  | .bringUp boot => Sys2Proof.Machine.execBringUp boot s
  | .companionStore address bytes => Sys2Proof.Machine.execCompanionStore address bytes s

end Sys2Proof.Machine
end

