-- ==== Sys2Proof/Machine/Step.lean ====
section
/-! DEFINITION. One step of the machine: the next turn of the schedule. -/

namespace Sys2Proof.Machine

/-- The state after exec, where it answers one. -/
def execState (i : Instr) (s : State) : State :=
  match exec i s with
  | .next t => t
  | .fault _ => s
  | .refused _ => s

/-- A picker issues the next instruction of its bundle, or the co-issue set that begins there (R148, R149); without a bundle it issues nothing. -/
def issueTurn (core picker : Nat) (s : State) : Host.Outcome State Fault Refusal :=
  match startSet execState s core picker with
  | none => .next s
  | some s1 =>
    match bundleAt s1 core picker with
    | none => .next s1
    | some b => if b.set.isSome then issueSet exec core picker 4 (issueOne exec core picker b s1) else issueOne exec core picker b s1

/-- One turn of the schedule. -/
def runTurn (t : Turn) (s : State) : Host.Outcome State Fault Refusal :=
  match t with
  | .issue core picker => if pickerExists core picker then issueTurn core picker s else .fault (.noSuchPicker core picker)
  | .event i => if isEvent i then exec i s else .next s

/-- One step: the agenda's next turn, or, when it is empty, a turn that may come of itself, or time passing. -/
def step (s : State) : Host.Outcome State Fault Refusal :=
  match s.agenda with
  | t :: rest => runTurn t (tick { s with agenda := rest })
  | [] =>
    match autoTurn s with
    | some t => runTurn t (tick { s with fresh := s.fresh + 2 })
    | none => .next (tick s)

/-- The state with an instruction placed where the next step issues it: bit 0 of w is the least significant bit of the first
word, and the bits from nbits on are zero (log entry 7). -/
def State.withFetchWord (s : State) (nbits w : Nat) : State :=
  let w := w % 2 ^ nbits
  placeWord s (decodeTableWord nbits w) (wordsOf (leBytes 12 w))

end Sys2Proof.Machine
end

