-- ==== Sys2Proof/Safety.lean ====
section
/-! DEFINITION. The terms the statements use: a step that goes on, what it is for a bundle to execute an instruction without a trap or a
wait, and where it goes from there. -/

namespace Sys2Proof

open Sys2Proof.Machine

/-- The step goes on: no fault and no refusal. -/
abbrev StepsTo (s t : State) : Prop := step s = .next t

/-- The bundle b is in focus, its form admits instruction i (R48 to R50), and none of its threads must wait for a result (R147). -/
abbrev Issues (s : State) (i : Instr) (b : Bundle) : Prop :=
  bundleAt s s.focus.1 s.focus.2 = some b ∧ b.probe = false ∧ encodingTrap s b i = none

/-- The state as the run record has it once the bundle in focus begins instruction i: WATCH records, ISSUE and LANESUM (R434, R435). -/
abbrev noted (s : State) (b : Bundle) (i : Instr) : State := noteIssue s s.focus.1 b i

/-- The state u with the bundle in focus past instruction i: on to its next instruction, or to where its packet's end leads (R29, R32, R37). -/
abbrev past (s : State) (i : Instr) (u : State) : State := advance i s.focus.1 s.focus.2 u

/-- The threads execute one after another, in order (R153): the results that a thread may wait for are delivered to it (R147), and it
goes from a state u to a state v with E. -/
def Each (i : Instr) (b : Bundle) (E : Nat → State → State → Prop) : List Nat → State → State → Prop
  | [], s, t => t = s
  | k :: ks, s, t => ∃ u v, prepare s b i k = .ok u ∧ E k u v ∧ Each i b E ks v t

/-- Without the delivery of results. -/
def EachOf (E : Nat → State → State → Prop) : List Nat → State → State → Prop
  | [], s, t => t = s
  | k :: ks, s, t => ∃ v, E k s v ∧ EachOf E ks v t

/-- The threads of the bundle that are still to execute i do so, each with E, and leave state t. -/
abbrev Executes (s : State) (i : Instr) (b : Bundle) (E : Nat → State → State → Prop) (t : State) : Prop :=
  Issues s i b ∧ (∀ k ∈ b.rest.getD b.threads, mustWait s b i k = false) ∧ Each i b E (b.rest.getD b.threads) (noted s b i) t

/-- The first threads of the groups that have threads in the bundle, in bundle order (R158). -/
def leaders (ks : List Nat) : List Nat := (byGroup ks).filterMap (fun g => g.2.head?)

/-- Every thread of the bundle is able to execute i, and then i takes effect once for each group, for its first thread (R158, R171). -/
abbrev ExecutesByGroup (s : State) (i : Instr) (b : Bundle) (E : Nat → State → State → Prop) (t : State) : Prop :=
  Issues s i b ∧ (∀ k ∈ b.threads, mustWait s b i k = false) ∧
    ∃ u, Each i b (fun k v w => w = v ∧ ∃ v', E k v v') b.threads (noted s b i) u ∧ EachOf E (leaders b.threads) u t

/-- The bundle is the live threads of a group, each able to execute the group-convergent instruction i, which then takes effect for
all of them (R142, R203). -/
abbrev Converges (s : State) (i : Instr) (b : Bundle) (E : Nat → State → State → Prop) (t : State) : Prop :=
  Issues s i b ∧ (∀ k ∈ b.threads, mustWait s b i k = false) ∧
    ∃ k u, b.threads.head? = some k ∧
      Each i b (fun j v w => w = v ∧ ∀ r ∈ regReads i, 64 ≤ r → r < 80 → (readVx v j r).isSome = true) b.threads s u ∧
      b.threads = bundleOrder u (liveOfGroup u (keyGroup k)) ∧ E k (noteIssue u s.focus.1 b i) t

/-- Whenever a bundle's threads execute i with E, exec answers the next state: theirs, with the bundle past i. -/
abbrev Completes (i : Instr) (E : Bundle → Nat → State → State → Prop) : Prop :=
  ∀ (s : State) (b : Bundle) (t : State), Executes s i b (E b) t → exec i s = .next (past s i t)

/-- The same of an instruction that takes effect once for each group. -/
abbrev CompletesByGroup (i : Instr) (E : Bundle → Nat → State → State → Prop) : Prop :=
  ∀ (s : State) (b : Bundle) (t : State), ExecutesByGroup s i b (E b) t → exec i s = .next (past s i t)

/-- The same of a group-convergent instruction. -/
abbrev CompletesConverged (i : Instr) (E : Bundle → Nat → State → State → Prop) : Prop :=
  ∀ (s : State) (b : Bundle) (t : State), Converges s i b (E b) t → exec i s = .next (past s i t)

end Sys2Proof
end

