-- ==== Sys2Proof/Certificates/Slice0/Obligations.lean ====
section
/-! DEFINITION. The statements for the provers, one `def Obligations.<Name> : Prop` each, after the
tables (`Sys2Proof.Says`) that say for a group of instructions what the rules give each of them. -/

namespace Sys2Proof.Says

open Sys2Proof.Machine

-- integer values, written with the operations of bit vectors at the width TY gives (R154)

/-- A result of two operands at the width TY gives. -/
def wide2 (m : Nat) (f : (n : Nat) → BitVec n → BitVec n → BitVec n) (a b : DWord) : DWord :=
  if 2 ≤ m then f 64 a b else (f 32 a.lo b.lo).setWidth 64

/-- A result of one operand at the width TY gives. -/
def wide1 (m : Nat) (f : (n : Nat) → BitVec n → BitVec n) (a : DWord) : DWord := if 2 ≤ m then f 64 a else (f 32 a.lo).setWidth 64

/-- The high half of a product of twice the width, signed for the even type codes (R159). -/
def mulHigh (m n : Nat) (a b : BitVec n) : BitVec n :=
  if m % 2 = 0 then (a.signExtend (2 * n) * b.signExtend (2 * n)).extractLsb' n n
  else (a.setWidth (2 * n) * b.setWidth (2 * n)).extractLsb' n n

/-- The smaller of two values, signed for the even type codes (R159). -/
def least (m n : Nat) (a b : BitVec n) : BitVec n := if (if m % 2 = 0 then a.slt b else a.ult b) then a else b

/-- The larger of two values, signed for the even type codes (R159). -/
def greatest (m n : Nat) (a b : BitVec n) : BitVec n := if (if m % 2 = 0 then a.slt b else a.ult b) then b else a

/-- The negation, where only the most negative value saturates, for the odd M (R159). -/
def negated (m n : Nat) (a : BitVec n) : BitVec n := if m % 2 = 1 ∧ a = BitVec.intMin n then BitVec.intMax n else -a

/-- The instructions of two value operands, and what each computes (R159, R161). -/
def two : Instr → Option (Nat → DWord → DWord → DWord)
  | .add _ => some (fun m => wide2 m (fun _ a b => a + b))
  | .sub _ => some (fun m => wide2 m (fun _ a b => a - b))
  | .mul _ => some (fun m => wide2 m (fun _ a b => a * b))
  | .mulh _ => some (fun m => wide2 m (mulHigh m))
  | .min _ => some (fun m => wide2 m (least m))
  | .max _ => some (fun m => wide2 m (greatest m))
  | .and _ => some (fun m => wide2 m (fun _ a b => a &&& b))
  | .or _ => some (fun m => wide2 m (fun _ a b => a ||| b))
  | .xor _ => some (fun m => wide2 m (fun _ a b => a ^^^ b))
  | .andn _ => some (fun m => wide2 m (fun _ a b => a &&& ~~~b))
  | _ => none

/-- The instructions of one value operand, and what each computes (R159, R161, R164, R170). -/
def one : Instr → Option (Nat → DWord → DWord)
  | .abs _ => some (fun m => wide1 m (fun n a => if a.msb then negated m n a else a))
  | .neg _ => some (fun m => wide1 m (negated m))
  | .not _ => some (fun m => wide1 m (fun _ a => ~~~a))
  | .brev _ => some (fun m => wide1 m (fun _ a => a.reverse))
  | .mov _ => some (fun m => wide1 m (fun _ a => a))
  | _ => none

/-- A field of n-bit values: its position and its length clipped to the width (R163). -/
def fieldLen (n pos len : Nat) : Nat := Min.min len (n - pos)

/-- The field at pos of length len, its top bit copied upwards when the type is signed (R163). -/
def field (m n : Nat) (a : BitVec n) (pos len : Nat) : BitVec n :=
  let l := fieldLen n pos len
  let top := (a >>> pos) <<< (n - l)
  if m % 2 = 0 then top.sshiftRight (n - l) else top >>> (n - l)

/-- The one bits of a field (R163). -/
def fieldMask (n pos len : Nat) : BitVec n := ((1#n <<< Min.min len n) - 1#n) <<< Min.min pos n

/-- The instructions of a value and a 32-bit amount or descriptor, and what each computes; an amount at or beyond the width
shifts every bit out (R162, R163). -/
def shifted : Instr → Option (Nat → DWord → Nat → DWord)
  | .shl _ => some (fun m a k => wide1 m (fun n a => a <<< Min.min k n) a)
  | .shr _ => some (fun m a k => wide1 m (fun n a => a >>> Min.min k n) a)
  | .sar _ => some (fun m a k => wide1 m (fun n a => a.sshiftRight (Min.min k n)) a)
  | .rotl _ => some (fun m a k => wide1 m (fun _ a => a.rotateLeft k) a)
  | .bfx _ => some (fun m a k => wide1 m (fun n a => field m n a (k % 256) (k / 256 % 256)) a)
  | _ => none

/-- The instructions that count bits, and what each counts in an n-bit value (R164). -/
def counted : Instr → Option ((n : Nat) → BitVec n → Nat)
  | .popc _ => some (fun n a => ((List.range n).filter (fun j => a.getLsbD j)).length)
  | .clz _ => some (fun n a => ((List.range n).takeWhile (fun j => !a.getLsbD (n - 1 - j))).length)
  | .ctz _ => some (fun n a => ((List.range n).takeWhile (fun j => !a.getLsbD j)).length)
  | _ => none

/-- The 32-bit instructions of IMM9, sign-extended, and what each computes (R159, R161, R162). -/
def immediate : Instr → Option (Word → Word → Word)
  | .addI _ => some (fun a b => a + b)
  | .andI _ => some (fun a b => a &&& b)
  | .orI _ => some (fun a b => a ||| b)
  | .xorI _ => some (fun a b => a ^^^ b)
  | .shlI _ => some (fun a b => a <<< Min.min b.toNat 32)
  | .shrI _ => some (fun a b => a >>> Min.min b.toNat 32)
  | .sarI _ => some (fun a b => a.sshiftRight (Min.min b.toNat 32))
  | _ => none

/-- Byte j of PRMT's result: the pool byte that nibble j of C names, or its sign (R165). -/
def permuted (a b c : Word) (j : Nat) : Byte :=
  let sel := c.extractLsb' (4 * j) 4
  let y := (b ++ a : BitVec 64).extractLsb' (8 * (sel.toNat % 8)) 8
  if sel.msb then (if y.msb then 0xFF#8 else 0x00#8) else y

/-- The instructions of three 32-bit operands, and what each computes (R165, R166). -/
def three : Instr → Option (Word → Word → Word → Word)
  | .prmt _ => some (fun a b c => permuted a b c 3 ++ permuted a b c 2 ++ permuted a b c 1 ++ permuted a b c 0)
  | .fshl _ => some (fun a b c => ((a ++ b : BitVec 64) <<< Min.min c.toNat 32).extractLsb' 32 32)
  | .fshr _ => some (fun a b c => ((a ++ b : BitVec 64) >>> Min.min c.toNat 32).extractLsb' 0 32)
  | _ => none

/-- The comparison COND of two values, signed for the even type codes (R168). -/
def holds (cond m n : Nat) (a b : BitVec n) : Bool :=
  let lt := if m % 2 = 0 then a.slt b else a.ult b
  let gt := if m % 2 = 0 then b.slt a else b.ult a
  [a == b, a != b, lt, !gt, gt, !lt].getD cond false

/-- A comparison combined by BOP with the predicate p, negated by NC (R168). -/
def joined (bop : Nat) (r p nc : Bool) : Bool := [r, r && (p != nc), r || (p != nc), r != (p != nc)].getD bop r

/-- Two predicates, each negated by a bit of M, joined by PAND, POR and PXOR (R172). -/
def predicates : Instr → Option (Bool → Bool → Bool)
  | .pand _ => some (fun a b => a && b)
  | .por _ => some (fun a b => a || b)
  | .pxor _ => some (fun a b => a != b)
  | _ => none

/-- The instructions of R159 and R167. -/
def arithmetic : Instr → Bool
  | .add _ => true
  | .sub _ => true
  | .mul _ => true
  | .mulh _ => true
  | .min _ => true
  | .max _ => true
  | .abs _ => true
  | .neg _ => true
  | .addI _ => true
  | _ => false

/-- The instructions of R161 to R164 of two operands, of one, and of IMM9. -/
def bitwise : Instr → Bool
  | .and _ => true
  | .or _ => true
  | .xor _ => true
  | .andn _ => true
  | .not _ => true
  | .brev _ => true
  | .andI _ => true
  | .orI _ => true
  | .xorI _ => true
  | .shlI _ => true
  | .shrI _ => true
  | .sarI _ => true
  | _ => false

/-- D takes f of the values of A and B, marked when one of them is (R157). -/
abbrev twoOf (f : Nat → DWord → DWord → DWord) (i : Instr) (b : Bundle) (k : Nat) (u v : State) : Prop :=
  ∃ x y, srcV u (ctxOf b i k) (rawOf i).m (rawOf i).a = .ok x ∧ srcV u (ctxOf b i k) (rawOf i).m (rawOf i).b = .ok y ∧
    v = dstV u (ctxOf b i k) (rawOf i).m ⟨f (rawOf i).m x.bits y.bits, x.poison || y.poison⟩

/-- The type by which the one value operand is read: signed for ABS and NEG, whose M[0] is .SAT. -/
def oneTy (i : Instr) : Nat :=
  match i with
  | .abs w => if w.m.toNat < 2 then 0 else 2
  | .neg w => if w.m.toNat < 2 then 0 else 2
  | _ => (rawOf i).m

/-- D takes f of the value of A, marked when it is (R157). -/
abbrev oneOf (f : Nat → DWord → DWord) (i : Instr) (b : Bundle) (k : Nat) (u v : State) : Prop :=
  ∃ x, srcV u (ctxOf b i k) (oneTy i) (rawOf i).a = .ok x ∧ v = dstV u (ctxOf b i k) (rawOf i).m ⟨f (rawOf i).m x.bits, x.poison⟩

/-- D takes f of the 32-bit value of A and IMM9, sign-extended. -/
abbrev immOf (f : Word → Word → Word) (i : Instr) (b : Bundle) (k : Nat) (u v : State) : Prop :=
  ∃ x, src u (ctxOf b i k) .int (rawOf i).a = .ok x ∧ v = dst u (ctxOf b i k) ⟨f x.bits ((BitVec.ofNat 9 (rawOf i).imm).signExtend 32), x.poison⟩

end Sys2Proof.Says
namespace Sys2Proof.Says

open Sys2Proof.Machine

-- accesses

/-- The loads, by the space each reads (R263). -/
def loadsFrom : Instr → Option Space
  | .ldp _ => some .priv
  | .lds _ => some .scratch
  | .ldc _ => some .cluster
  | .ldg _ => some .global
  | .ldk _ => some .carve
  | .lda _ => some .arg
  | _ => none

/-- The stores, by the space each writes (R263). -/
def storesTo : Instr → Option Space
  | .stp _ => some .priv
  | .sts _ => some .scratch
  | .stc _ => some .cluster
  | .stg _ => some .global
  | .stk _ => some .carve
  | _ => none

/-- The bytes of an access by SZ: U8, S8, U16, S16, B32, B64, B128 (R264). -/
def accessBytes (sz : Nat) : Nat := [1, 1, 2, 2, 4, 8].getD sz 16

/-- The registers that a load of SZ delivers from the value v: extended to 32 bits, or the words in order (R268). -/
def loaded (sz v : Nat) : List RVal :=
  match sz with
  | 0 => [⟨(BitVec.ofNat 8 v).setWidth 32, false⟩]
  | 1 => [⟨(BitVec.ofNat 8 v).signExtend 32, false⟩]
  | 2 => [⟨(BitVec.ofNat 16 v).setWidth 32, false⟩]
  | 3 => [⟨(BitVec.ofNat 16 v).signExtend 32, false⟩]
  | 4 => [⟨BitVec.ofNat 32 v, false⟩]
  | 5 => [⟨(BitVec.ofNat 64 v).extractLsb' 0 32, false⟩, ⟨(BitVec.ofNat 64 v).extractLsb' 32 32, false⟩]
  | _ => [⟨(BitVec.ofNat 128 v).extractLsb' 0 32, false⟩, ⟨(BitVec.ofNat 128 v).extractLsb' 32 32, false⟩,
          ⟨(BitVec.ofNat 128 v).extractLsb' 64 32, false⟩, ⟨(BitVec.ofNat 128 v).extractLsb' 96 32, false⟩]

/-- A poisoned register (R241). -/
def bad : RVal := ⟨0x7FC00001#32, true⟩

/-- How a load by M and SCOPE takes part in the memory model: weak, strong, an acquire, an acquire with promotion (R264, R373, R381). -/
def loadAs (sp : Space) (m scope : Nat) : Acc :=
  { write := false, strong := decide (1 ≤ m), scope := scope, acq := decide (2 ≤ m), rel := false, rmt := decide (m = 3), atomic := false,
    priv := decide (sp = .priv), merge := false }

/-- A store by M and SCOPE: weak, strong, a release (R264, R373). -/
def storeAs (sp : Space) (m scope : Nat) : Acc :=
  { write := true, strong := decide (1 ≤ m), scope := scope, acq := false, rel := decide (m = 2), rmt := false, atomic := false,
    priv := decide (sp = .priv), merge := false }

/-- An atomic by M and SCOPE, whose narrowest is .TEAM: strong, an acquire, a release, both (R275). -/
def atomicAs (m scope : Nat) : Acc :=
  { write := true, strong := true, scope := scope + 2, acq := decide (m % 2 = 1), rel := decide (2 ≤ m), rmt := false, atomic := true,
    priv := false, merge := false }

/-- The checks of R240 pass for a load of w bytes at a: aligned, within the space, translated and readable; it leaves u1, with the value x. -/
abbrev Readable (u : State) (k : Nat) (sp : Space) (acc : Acc) (a w : Nat) (l : Loc) (pg : Option Page) (x : Nat) (u1 : State) : Prop :=
  a % w = 0 ∧ resolve u k sp a w .r = .ok l pg ∧ readAs (noteAccess u k sp acc (.ok l pg)) k acc l w = .ok (x, u1)

/-- The checks of R240 pass for a store, or an atomic, of w bytes at a. -/
abbrev Writable (u : State) (k : Nat) (sp : Space) (a w : Nat) (need : Need) (l : Loc) (pg : Option Page) : Prop :=
  a % w = 0 ∧ resolve u k sp a w need = .ok l pg ∧ locBusErr u l = false

/-- The thread's registers take effect from the next instruction: its next PC is chosen (R173). -/
abbrev goes (u : State) (k : Nat) (pc : Word) : State := modThread u k (fun t => { t with next := some pc })

/-- PC + 4 · OFF19, sign-extended (R42). -/
def target (pc : Word) (w : JForm) : Word := pc + 4 * w.off.signExtend 32

/-- The class bit of a call-stack entry, and of other words: 0 for D, 1 for L (R136). -/
def classBit (f : Form) : Nat := match f with | .d => 0 | .l => 1

/-- What atomics and reductions compute on integers by OPC: the old value and the data, w bits wide (R276, R278). -/
def atomicInt (opc n : Nat) (old d : BitVec n) : Option (BitVec n) :=
  match opc with
  | 0x00 | 0x01 => some (old + d)
  | 0x03 | 0x05 => some (if old.slt d then old else d)
  | 0x04 | 0x06 => some (if old.ult d then old else d)
  | 0x08 | 0x0A => some (if old.slt d then d else old)
  | 0x09 | 0x0B => some (if old.ult d then d else old)
  | 0x0D | 0x0E => some (old &&& d)
  | 0x0F | 0x10 => some (old ||| d)
  | 0x11 | 0x12 => some (old ^^^ d)
  | 0x13 | 0x14 => some d
  | 0x17 => some (if d.ule old then 0 else old + 1)
  | 0x18 => some (if old = 0 ∨ d.ult old then d else old - 1)
  | _ => none

/-- SEL and VALUE of KILLCTL pick a pod by its ASID or its address, or every one (R428). -/
def killPicks (sel value asid va : Nat) : Prop := (sel = 1 ∧ asid = value) ∨ (sel = 2 ∧ va = value) ∨ 3 ≤ sel

/-- An exact coordinate as a number. -/
def ratio (x : Q) : Rat := (x.num : Rat) / (x.den : Rat)

/-- e(p, q) at a point (R362). -/
def edge (p q : ScreenVertex) (x y : Rat) : Rat :=
  (ratio q.x - ratio p.x) * (y - ratio p.y) - (ratio q.y - ratio p.y) * (x - ratio p.x)

/-- The sign that an edge counts as at a point: a zero counts as +1 where p precedes q in the order of (y, x), and as −1 otherwise (R362). -/
def side (p q : ScreenVertex) (x y : Rat) : Int :=
  if 0 < edge p q x y then 1 else if edge p q x y < 0 then -1
  else if ratio p.y < ratio q.y ∨ (ratio p.y = ratio q.y ∧ ratio p.x < ratio q.x) then 1 else -1

end Sys2Proof.Says

namespace Sys2Proof.Says

open Sys2Proof.Machine

/-- The words of a data group as one number, the first register lowest (R266). -/
def dataNat : List RVal → Nat
  | [] => 0
  | r :: rs => r.bits.toNat + 2 ^ 32 * dataNat rs

/-- What an atomic stores for the old value and its data group: none for a CAS that fails (R276). -/
def atomic (opc : Nat) (fp : Word) (old : Nat) (d : List RVal) : Option Nat :=
  let n := if opc ∈ [0x01, 0x05, 0x06, 0x0A, 0x0B, 0x0E, 0x10, 0x12, 0x14, 0x16] then 64 else 32
  let flt (f : Xr → Xr → Xr) : Option Nat := some (outF32 fp .rn (f (inF32 fp (BitVec.ofNat 32 old)) (inF32 fp (BitVec.ofNat 32 (dataNat d))))).toNat
  if opc = 0x15 ∨ opc = 0x16 then
    (if old = dataNat (d.take (d.length / 2)) then some (dataNat (d.drop (d.length / 2))) else none)
  else if opc = 0x02 then flt (Xr.add .rn)
  else if opc = 0x07 then flt fminX
  else if opc = 0x0C then flt fmaxX
  else (atomicInt opc n (BitVec.ofNat n old) (BitVec.ofNat n (dataNat d))).map BitVec.toNat

/-- The key by which the entries of one flush number drain (R396). -/
def drainKey (e : RedEntry) : List Nat := [e.core, e.picker, e.linear, e.group, e.thread, e.order]

/-- The bits that a brick fetch, an atomic or a barrier instruction delivers, in one register each. -/
def reg (w : Word) : RVal := ⟨w, false⟩

/-- A way to read that gives m and changes nothing. -/
abbrev Reads (p : Port) (m : Nat → Nat → Nat) : Prop := ∀ a l s, (p a l).run.run s = (.ok (m a l), s)

/-- The share of corner c of a cell at f, over the axes given: f where the corner is the higher one, else 1 − f (R91). -/
def share (f : Nat → Rat) (c : Nat) (axes : List Nat) : Rat := (axes.map (fun k => if c / 2 ^ k % 2 = 1 then f k else 1 - f k)).foldl (· * ·) 1

/-- The trilinear value at f of the samples of a cell's corners, x fastest (R91). -/
def lerp (f s : Nat → Rat) : Rat := ((List.range 8).map (fun c => share f c [0, 1, 2] * s c)).foldl (· + ·) 0

/-- Its partial derivative along an axis (R91). -/
def lerpSlope (f s : Nat → Rat) (axis : Nat) : Rat :=
  (((List.range 8).filter (fun c => decide (c / 2 ^ axis % 2 = 0))).map (fun c =>
    share f c ([0, 1, 2].filter (fun k => decide (k ≠ axis))) * (s (c + 2 ^ axis) - s c))).foldl (· + ·) 0

end Sys2Proof.Says
namespace Sys2Proof.Says

open Sys2Proof.Machine

-- floating point

/-- The exact fraction that a finite value is. -/
def rat : Xr → Option Rat
  | .fin neg n d => if d = 0 then none else some ((if neg then -(n : Int) else (n : Int) : Int) / (d : Int) : Rat)
  | .inf _ => none
  | .nan => none

/-- The sign of a value that is no NaN. -/
def sign : Xr → Bool
  | .fin neg _ _ => neg
  | .inf neg => neg
  | .nan => false

/-- Of each format of R52: the weight of its sign bit, its smallest normal value, its largest finite value, and what an infinity becomes in it. -/
def patterns : Fmt → Nat × Nat × Nat × Nat
  | .f32 => (0x80000000, 0x00800000, 0x7F7FFFFF, 0x7F800000)
  | .f16 => (0x8000, 0x0400, 0x7BFF, 0x7C00)
  | .bf16 => (0x8000, 0x0080, 0x7F7F, 0x7F80)
  | .f8a => (0x80, 0x08, 0x7E, 0x7E)
  | .f8b => (0x80, 0x04, 0x7B, 0x7C)
  | .a24 => (0x800000, 0x008000, 0x7FFFFE, 0x7FFFFE)

/-- The canonical NaN of each format (R53). -/
def nanPattern : Fmt → Nat
  | .f32 => 0x7FC00000
  | .f16 => 0x7E00
  | .bf16 => 0x7FC0
  | .f8a => 0x7F
  | .f8b => 0x7E
  | .a24 => 0x7FFFFF

/-- y is the value that mode m rounds x to, among the finite values v of a format (R56); even says whether y's pattern is. -/
def roundsTo (m : Rm) (x y v : Rat) (even : Bool) : Prop :=
  match m with
  | .rn => (x - y) ^ 2 ≤ (x - v) ^ 2 ∧ ((x - y) ^ 2 = (x - v) ^ 2 → v ≠ y → even = true)
  | .rz => if 0 ≤ x then 0 ≤ y ∧ y ≤ x ∧ (v ≤ x → v ≤ y) else y ≤ 0 ∧ x ≤ y ∧ (x ≤ v → y ≤ v)
  | .rd => y ≤ x ∧ (v ≤ x → v ≤ y)
  | .ru => x ≤ y ∧ (x ≤ v → y ≤ v)

/-- What a result beyond the largest finite magnitude of a format becomes; far says whether it is no nearer to that magnitude than to the
next value above it that the format would have with more exponents (R57). -/
def beyond (f : Fmt) (m : Rm) (neg far : Bool) : Nat :=
  let p := patterns f
  (if neg then p.1 else 0) +
    (match m with
    | .rn => if far then p.2.2.2 else p.2.2.1
    | .rz => p.2.2.1
    | .rd => if neg then p.2.2.2 else p.2.2.1
    | .ru => if neg then p.2.2.1 else p.2.2.2)

/-- An F32 operand, read after FZI of the FPCTL in force (R61). -/
def inF (fp w : Word) : Xr := if fp.getLsbD 0 ∧ isSubnormal .f32 w.toNat then .fin w.msb 0 1 else decodeFmt .f32 w.toNat

/-- An F32 result: the exact value rounded once, with FZO of the FPCTL in force (R57, R61). -/
def outF (fp : Word) (m : Rm) (x : Xr) : Word := BitVec.ofNat 32 (roundTo .f32 (fp.getLsbD 1) m x)

-- the matrix arrays

/-- add_inner (R70, R313): the sum of two inner accumulators, by their 24-bit patterns. -/
def innerSum (float : Bool) (a b : Nat) : Nat :=
  if float then roundTo .a24 false .rn (Xr.add .rn (decodeFmt .a24 a) (decodeFmt .a24 b))
  else (BitVec.ofInt 24 (Max.max (-8388608) (Min.min 8388607 ((BitVec.ofNat 24 a).toInt + (BitVec.ofNat 24 b).toInt)))).toNat

/-- to_inner of a product (R313). -/
def innerProduct (float : Bool) (p : Xr × Xr) : Nat :=
  if float then roundTo .a24 false .rn (Xr.mul p.1 p.2) else (BitVec.ofInt 24 (Xr.mul p.1 p.2).toQ.floor).toNat

/-- The pairwise tree of R313 over 2^n terms. -/
def pairs (f : Nat → Nat → Nat) : Nat → (Nat → Nat) → Nat
  | 0, p => p 0
  | n + 1, p => pairs f n (fun i => f (p (2 * i)) (p (2 * i + 1)))

/-- An inner accumulator after n k-blocks of products (R313). -/
def blocks (float : Bool) (ps : Nat → List (Xr × Xr)) : Nat → Word → Word
  | 0, z => z
  | n + 1, z => BitVec.ofNat 32 (innerStep float (ps n) (blocks float ps n z).toNat).1

/-- An element that a promotion leaves (R314). -/
def promoted (float : Bool) (fp v i : Word) : Word :=
  if float then outF fp .rn (Xr.add .rn (inF fp v) (decodeFmt .a24 i.toNat))
  else BitVec.ofInt 32 (Max.max (-2147483648) (Min.min 2147483647 (v.toInt + (i.extractLsb' 0 24).toInt)))

/-- An F32 element as MXDR writes it by M (R315). -/
def drained (m : Nat) (fp : Word) (rm : Rm) (v : Word) : List Byte :=
  match m with
  | 0 => leBytes 4 v.toNat
  | 1 => leBytes 2 (roundTo .bf16 (fp.getLsbD 5) rm (inF fp v))
  | 2 => leBytes 2 (roundTo .f16 (fp.getLsbD 3) rm (inF fp v))
  | _ => leBytes 1 (roundTo .f8a (fp.getLsbD 7) rm (inF fp v))

/-- The instructions of two F32 operands and one rounding; a zero sum's sign depends on the mode (R189). -/
def float2 : Instr → Option (Rm → Xr → Xr → Xr)
  | .fadd _ => some (fun m a b => Xr.add m a b)
  | .fsub _ => some (fun m a b => Xr.add m a (Xr.neg b))
  | .fmul _ => some (fun _ a b => Xr.mul a b)
  | _ => none

/-- The packed F16 instructions of two operands (R196). -/
def half2 : Instr → Option (Rm → Xr → Xr → Xr)
  | .hadd2 _ => some (fun m a b => Xr.add m a b)
  | .hmul2 _ => some (fun _ a b => Xr.mul a b)
  | _ => none

/-- FMIN and FMAX: the operand that is a number, or the smaller or larger of two (R191). -/
def floatPick : Instr → Option (Xr → Xr → Xr)
  | .fmin _ => some (fun a b => if a.isNan then b else if b.isNan then a else if Xr.lt a b then a else if Xr.lt b a then b
      else (match a with | .fin true _ _ => a | .fin false _ _ => b | .inf _ => a | .nan => a))
  | .fmax _ => some (fun a b => if a.isNan then b else if b.isNan then a else if Xr.lt a b then b else if Xr.lt b a then a
      else (match a with | .fin true _ _ => b | .fin false _ _ => a | .inf _ => a | .nan => a))
  | _ => none

/-- The bit operations on an F32 pattern (R190). -/
def floatBits : Instr → Option (Word → Word)
  | .fabs _ => some (fun a => 0#1 ++ a.extractLsb' 0 31)
  | .fneg _ => some (fun a => (~~~a.extractLsb' 31 1) ++ a.extractLsb' 0 31)
  | _ => none

/-- FCMP's comparison (R191). -/
def floatTest (m : Nat) (a b : Xr) : Bool :=
  [!a.isNan && !b.isNan && !Xr.lt a b && !Xr.lt b a, Xr.lt a b, !a.isNan && !b.isNan && !Xr.lt b a].getD m (a.isNan || b.isNan)

/-- The bit of FCLASS's mask for a pattern of a format (R192). -/
def classOf (f : Fmt) (v : Nat) : Nat :=
  match decodeFmt f v with
  | .nan => 8
  | .inf s => if s then 0 else 7
  | .fin s n _ => if n = 0 then (if s then 3 else 4) else if isSubnormal f v then (if s then 2 else 5) else (if s then 1 else 6)

/-- The integral value that FRND gives a number (R193). -/
def integral (m : Rm) : Xr → Xr
  | .fin s n d => .fin s (roundMag m s n d) 1
  | .inf s => .inf s
  | .nan => .nan

/-- a − floor(a), exactly, +0 where it is zero; the infinities have none (R193). -/
def fraction : Xr → Xr
  | .fin s n d => .fin false ((if s then (d - n % d) % d else n % d)) d
  | .inf _ => .nan
  | .nan => .nan

/-- Half h of a packed F16 value, after FZI (R61, R196). -/
def half (fp w : Word) (h : Nat) : Xr :=
  let v := (w.extractLsb' (16 * h) 16).toNat
  if fp.getLsbD 2 ∧ isSubnormal .f16 v then .fin (decide (2 ^ 15 ≤ v)) 0 1 else decodeFmt .f16 v

/-- Two halves, each rounded once, with FZO (R61, R196). -/
def halves (fp : Word) (m : Rm) (lo hi : Xr) : Word :=
  let r (x : Xr) : BitVec 16 := BitVec.ofNat 16 (roundTo .f16 (fp.getLsbD 3) m x)
  r hi ++ r lo

/-- The special functions of one operand: FZO, the operand's pattern and its value give the result (R198). -/
def special : Instr → Option (Rm → Bool → Xr → Word)
  | .rcp _ => some (fun m z x => BitVec.ofNat 32 (roundTo .f32 z m (Xr.div (.fin false 1 1) x)))
  | .sqrt _ => some (fun m z x => BitVec.ofNat 32 (roundTo .f32 z m (sqrtOf x)))
  | .rsq _ => some (fun _ z x => rsqW z x)
  | .exp2 _ => some (fun _ z x => exp2W z x)
  | .log2 _ => some (fun _ z x => log2W z x)
  | .sin _ => some (fun _ z x => sinW z x)
  | .cos _ => some (fun _ z x => cosW z x)
  | .tanh _ => some (fun _ z x => tanhW z x)
  | _ => none

/-- The special-function unit takes another instruction from thread k's picker: fewer than 64 of its picker's are in flight, or this one, issued
now, is among them already (R197). -/
abbrev UnitRoom (u : State) (k : Nat) : Prop :=
  let ops := sfuInFlight u (groupOf u k).core (pickerOf u (keyGroup k))
  ops.length < 64 ∨ u.clock ∈ ops

/-- The special operands of R198's table: what −∞, a finite value below 0 (where all give one result), −0, +0 and +∞ give. -/
def specialRow : Instr → Option (Word × Option Word × Word × Word × Word)
  | .rcp _ => some (0x80000000, none, 0xFF800000, 0x7F800000, 0x00000000)
  | .sqrt _ => some (0x7FC00000, some 0x7FC00000, 0x80000000, 0x00000000, 0x7F800000)
  | .rsq _ => some (0x7FC00000, some 0x7FC00000, 0xFF800000, 0x7F800000, 0x00000000)
  | .exp2 _ => some (0x00000000, none, 0x3F800000, 0x3F800000, 0x7F800000)
  | .log2 _ => some (0x7FC00000, some 0x7FC00000, 0xFF800000, 0xFF800000, 0x7F800000)
  | .sin _ => some (0x7FC00000, none, 0x80000000, 0x00000000, 0x7FC00000)
  | .cos _ => some (0x7FC00000, none, 0x3F800000, 0x3F800000, 0x7FC00000)
  | .tanh _ => some (0xBF800000, none, 0x80000000, 0x00000000, 0x3F800000)
  | _ => none

-- intervals (R72, R73, R199)

/-- The exact bounds of the interval instructions of two nonempty operands (R200). -/
def interval2 : Instr → Option (Ivl → Ivl → Ivl)
  | .xadd _ => some (fun a b => ⟨Xr.add .rd a.lo b.lo, Xr.add .ru a.hi b.hi⟩)
  | .xsub _ => some (fun a b => ⟨Xr.add .rd a.lo b.hi.neg, Xr.add .ru a.hi b.lo.neg⟩)
  | .xmul _ => some (fun a b =>
      let p := [mulx a.lo b.lo, mulx a.lo b.hi, mulx a.hi b.lo, mulx a.hi b.hi]
      ⟨p.foldl xrMin (mulx a.lo b.lo), p.foldl xrMax (mulx a.lo b.lo)⟩)
  | .xmin _ => some (fun a b => ⟨xrMin a.lo b.lo, xrMin a.hi b.hi⟩)
  | .xmax _ => some (fun a b => ⟨xrMax a.lo b.lo, xrMax a.hi b.hi⟩)
  | _ => none

/-- Those of one nonempty operand on pipe B (R200). -/
def interval1 : Instr → Option (Ivl → Ivl)
  | .xsqr _ => some (fun a =>
      let l := Xr.mul a.lo a.lo
      let h := Xr.mul a.hi a.hi
      if Xr.lt a.lo Xr.zero && Xr.lt Xr.zero a.hi then ⟨Xr.zero, xrMax l h⟩ else ⟨xrMin l h, xrMax l h⟩)
  | .xabs _ => some (fun a =>
      if Xr.lt a.lo Xr.zero && Xr.lt Xr.zero a.hi then ⟨Xr.zero, xrMax a.lo.abs a.hi.abs⟩
      else ⟨xrMin a.lo.abs a.hi.abs, xrMax a.lo.abs a.hi.abs⟩)
  | _ => none

/-- Those of one nonempty operand on the special-function unit (R200). -/
def intervalSpecial : Instr → Option (Ivl → Ivl)
  | .xsqrt _ => some (fun a => if Xr.lt a.hi Xr.zero then Ivl.empty else ⟨if Xr.lt a.lo Xr.zero then Xr.zero else sqrtOf a.lo.abs, sqrtOf a.hi.abs⟩)
  | .xrcp _ => some (fun a => if Xr.lt Xr.zero a.lo || Xr.lt a.hi Xr.zero then ⟨Xr.div (.fin false 1 1) a.hi, Xr.div (.fin false 1 1) a.lo⟩ else Ivl.all)
  | _ => none

/-- XCONT's test of the interval a against zero, the number b or the interval i (R201). -/
def contains (m : Nat) (a : Ivl) (b : Xr) (i : Ivl) : Bool :=
  match m with
  | 0 => Xr.le a.lo a.hi && Xr.le a.lo Xr.zero && Xr.le Xr.zero a.hi
  | 1 => Xr.le a.lo b && Xr.le b a.hi
  | 2 => Xr.lt a.hi a.lo || (Xr.le i.lo a.lo && Xr.le a.hi i.hi)
  | _ => Xr.le a.lo a.hi && Xr.le i.lo i.hi && Xr.le a.lo i.hi && Xr.le i.lo a.hi

end Sys2Proof.Says
namespace Sys2Proof.Says

open Sys2Proof.Machine

-- collectives

/-- What thread j receives from the thread of index t, or its fill: an absent thread, or none of the group, gives the fill (R202, R208). -/
def fromThread (u : State) (c : Ctx) (ks : List Nat) (a d j : Nat) (t : Int) : RVal :=
  match (if 0 ≤ t then presentAt c ks t.toNat else none) with
  | some h => srcOf u c h a
  | none => srcOf u c j d

/-- The thread of index i reads in GSHF (R208). -/
def shuffleFrom (m k i idx : Nat) : Int :=
  match m with
  | 0 => (i : Int) - (32 >>> k : Nat)
  | 1 => (i : Int) + (32 >>> k : Nat)
  | 2 => ((i ^^^ (32 >>> k) : Nat) : Int)
  | _ => (idx : Int)

/-- q(t) of R210 for a present thread. -/
def vote (u : State) (w : TForm) (j : Nat) : Bool := (readP u j (w.a.toNat - 112)).val != w.m.getLsbD 1

/-- The mask of the threads that pass a test, by index in the group. -/
def maskOf (ks : List Nat) (test : Nat → Bool) : Word :=
  BitVec.ofNat 32 (ks.foldl (fun m j => if test j then m + 2 ^ (keyLin j % 32) else m) 0)

/-- An F32 operand of a reduction after FZI; other operands as they are (R213). -/
def contributed (typ : Nat) (fp w : Word) : Word :=
  if typ = 2 ∧ fp.getLsbD 0 ∧ isSubnormal .f32 w.toNat then w &&& 0x80000000#32 else w

/-- op of R213. -/
def combined (opn typ : Nat) (m : Rm) (fp a b : Word) : Word :=
  let lt := if typ = 0 then a.slt b else a.ult b
  match opn, typ with
  | 0, 2 => outF fp m (Xr.add m (inF fp a) (inF fp b))
  | 0, _ => a + b
  | 1, 2 => outF fp .rn (fminX (inF fp a) (inF fp b))
  | 1, _ => if lt then a else b
  | 2, 2 => outF fp .rn (fmaxX (inF fp a) (inF fp b))
  | 2, _ => if lt then b else a
  | 3, _ => a &&& b
  | 4, _ => a ||| b
  | _, _ => a ^^^ b

/-- comb of R214, with marks (R207). -/
def comb (f : Word → Word → Word) : Option RVal → Option RVal → Option RVal
  | none, b => b
  | some a, none => some a
  | some a, some b => some ⟨f a.bits b.bits, a.poison || b.poison⟩

/-- One step of the butterfly at distance m (R214). -/
def fly (f : Word → Word → Word) (m : Nat) (x : Nat → Option RVal) (t : Nat) : Option RVal :=
  comb f (x (Min.min t (t ^^^ m))) (x (Max.max t (t ^^^ m)))

/-- The butterfly of R214. -/
def tree (f : Word → Word → Word) (x : Nat → Option RVal) : Option RVal := fly f 1 (fly f 2 (fly f 4 (fly f 8 (fly f 16 x)))) 0

/-- The reduction of a GRED or GSCAN with selector sel over the present threads whose index passes a test; every operand is read by
the FPCTL of the lowest (R205, R213, R214). -/
def reduced (u : State) (c : Ctx) (ks : List Nat) (m sel : Nat) (test : Nat → Bool) : Option RVal :=
  let typ := sel / 4 % 4
  let fp := (getThread u c.k).fpctl
  tree (combined (sel / 16) typ (rmOf m) fp) (fun t => if test t then (presentAt c ks t).map (fun j =>
    match src u { c with k := j } (if typ = 2 then .f32 else .int) c.raw.a with
    | .ok v => ⟨contributed typ fp v.bits, v.poison⟩
    | .error _ => ⟨0, false⟩) else none)

-- the launch unit

/-- A pod that PNEW starts: CODE, JOIN 1, KIND, CLASS and PRIO, extents of 1, and zeros (R100, R115). -/
def newPod (code kind cls prio : Nat) : List Byte :=
  leBytes 8 code ++ leBytes 8 0 ++ leBytes 4 1 ++ leBytes 1 kind ++ leBytes 1 cls ++ leBytes 1 prio ++ leBytes 1 0 ++ leBytes 4 1 ++ leBytes 4 1 ++
    leBytes 4 1 ++ List.replicate 28 0#8

/-- The fields of a PSET: offset, bytes and value (R100, R116). -/
def podFields (m : Nat) (v : DWord) : List (Nat × Nat × Nat) :=
  let f (off n lo len : Nat) : Nat × Nat × Nat := (off, n, (v.extractLsb' lo len).toNat)
  match m with
  | 0 => [f 0x08 8 0 52]
  | 1 => [f 0x18 4 0 21, f 0x1C 4 21 21, f 0x20 4 42 21]
  | 2 => [f 0x24 2 0 16, f 0x26 2 16 16, f 0x28 2 32 16]
  | _ => [f 0x30 8 0 52, f 0x2C 2 52 12]

/-- A PSET value within its limits (R116). -/
def podValueOk (m : Nat) (v : DWord) : Prop :=
  match m with
  | 0 => v.toNat < 2 ^ 52
  | 1 => v.msb = false ∧ v.extractLsb' 0 21 ≠ 0 ∧ v.extractLsb' 21 21 ≠ 0 ∧ v.extractLsb' 42 21 ≠ 0
  | 2 => v.toNat < 2 ^ 48
  | _ => v.extractLsb' 0 3 = 0

/-- The two 64-bit operands of a launch instruction, neither poisoned, and the pod the first names (R114). -/
abbrev Pod (u : State) (c : Ctx) (a : DVal) (pa : Nat) : Prop :=
  srcD u c .n64 c.raw.a = .ok a ∧ a.poison = false ∧ threadPod u c a.bits.toNat = .ok pa

-- special registers

/-- The registers of R440 that a thread reads at pc. -/
def registers (u : State) (k : Nat) (pc : Word) : List (Nat × Word) :=
  let t := getThread u k
  let g := groupOf u k
  let tm := teamOf u k
  let f := classOfCore g.core
  [(0x000, 32), (0x001, match f with | .d => 32 | .l => 16), (0x002, BitVec.ofNat 32 (classBit f)), (0x003, BitVec.ofNat 32 tm.home),
   (0x006, 0x00030101#32), (0x007, BitVec.ofNat 32 u.secCount), (0x008, BitVec.ofNat 32 u.clock), (0x009, t.clockHi), (0x010, t.fpctl),
   (0x012, t.csp), (0x014, t.psnlo), (0x015, t.psnhi), (0x016, t.psnpc), (0x017, t.psninfo), (0x018, tm.trapvec), (0x020, pc),
   (0x030, tm.engst), (0x031, tm.engalo), (0x032, tm.engahi), (0x039, tm.ovf.extractLsb' 0 32), (0x03A, tm.ovf.extractLsb' 32 32),
   (0x040, u.mclass), (0x042, u.rlmode), (0x050, tm.raysplLo), (0x051, tm.raysplHi), (0x054, t.marchcfg),
   (0x061, kget 0 t.frec 1), (0x065, kget 0 t.frec 5), (0x068, kget 0 t.frec 8), (0x06E, kget 0 t.frec 14), (0x06F, kget 0 t.frec 15)]

/-- What a thread's write to a register of R440 leaves, by the access codes of the fields. -/
def written (u : State) (k : Nat) (v : Word) : List (Nat × State) :=
  [(0x010, modThread u k (fun t => { t with fpctl := v &&& 0x3FF#32 })), (0x012, modThread u k (fun t => { t with csp := v &&& 0xFFFFFFF8#32 })),
   (0x018, modTeam u (keyTeam k) (fun t => { t with trapvec := v })),
   (0x039, modTeam u (keyTeam k) (fun t => { t with ovf := t.ovf &&& ~~~(v.setWidth 64) })),
   (0x03A, modTeam u (keyTeam k) (fun t => { t with ovf := t.ovf &&& ~~~(v.setWidth 64 <<< 32) })),
   (0x050, modTeam u (keyTeam k) (fun t => { t with raysplLo := v &&& 0xFFFFFC01#32 })),
   (0x051, modTeam u (keyTeam k) (fun t => { t with raysplHi := v &&& 0x000FFFFF#32 })),
   (0x054, modThread u k (fun t => { t with marchcfg := v &&& 0xFF01#32 })),
   (0x06E, modThread u k (fun t => { t with frec := kset 0 t.frec 14 v, rpcWritten := true }))]

end Sys2Proof.Says
namespace Sys2Proof.Says

open Sys2Proof.Machine

/-- A register operand that an instruction reads only in some of its forms: its value, not poisoned, or 0 where it is not read. -/
abbrev Optional (used : Prop) (u : State) (c : Ctx) (code : Nat) (x : RVal) : Prop :=
  (used → src u c .int code = .ok x ∧ x.poison = false) ∧ (¬used → x = ⟨0, false⟩)

/-- The engine instructions, and their SUB (R284). -/
def engineSub : Instr → Option Nat
  | .cpy _ => some 2
  | .cpyg _ => some 3
  | .cpyx _ => some 4
  | .qnt _ => some 5
  | _ => none

/-- The matrix instructions (R302, R311 to R317). -/
def matrix : Instr → Bool
  | .mxcfgAcq _ => true
  | .mxcfgSet _ => true
  | .mxcfgRel _ => true
  | .mxcfgCbw _ => true
  | .mxlw _ => true
  | .mxsw _ => true
  | .mxst _ => true
  | .mxdr _ => true
  | .mxz _ => true
  | .mxpr _ => true
  | _ => false

/-- The registers of A, B and C that a ray instruction captures (R322). -/
def rayShape : Instr → Option (Nat × Nat × Nat)
  | .trav _ => some (8, 2, 2)
  | .mwalk w => some (if w.e.getLsbD 0 then (0, 0, 2) else if w.m = 3 then (3, 2, 2) else (8, 2, 2))
  | .mloc _ => some (3, 2, 2)
  | .march w => some (8, if 2 ≤ w.m.toNat then 1 else 2, 1)
  | .rres w => some (if w.m = 3 then 4 else 0, 0, 1)
  | .rrel _ => some (0, 0, 1)
  | .rget _ => some (0, 0, 1)
  | _ => none

/-- n registers from code on, none of them poisoned; one register may be any source (R322). -/
abbrev Group (u : State) (c : Ctx) (code : Nat) (one : Prop) (n : Nat) (xs : List RVal) : Prop :=
  (n = 0 → xs = []) ∧ (one → n = 1 → ∃ x, src u c .int code = .ok x ∧ xs = [x]) ∧ (¬(one ∧ n = 1) → n ≠ 0 → srcN u c code n = .ok xs) ∧
    anyBad xs = false

end Sys2Proof.Says

namespace Sys2Proof.Says

open Sys2Proof.Machine

/-- The instructions whose only effect is on vector registers, temporaries, latches and predicates: those of R159 to R170 and R172, R189 to
R201. -/
def registerOnly (i : Instr) : Bool :=
  (two i).isSome || (one i).isSome || (shifted i).isSome || (counted i).isSome || (immediate i).isSome || (three i).isSome ||
    (predicates i).isSome || (float2 i).isSome || (half2 i).isSome || (floatPick i).isSome || (floatBits i).isSome || (special i).isSome ||
    (interval2 i).isSome || (interval1 i).isSome || (intervalSpecial i).isSome ||
  match i with
  | .mad _ => true
  | .madw _ => true
  | .bfi _ => true
  | .bmsk _ => true
  | .lea _ => true
  | .addc _ => true
  | .subb _ => true
  | .movi _ => true
  | .movhi _ => true
  | .cmp _ => true
  | .cmpv _ => true
  | .sel _ => true
  | .pnot _ => true
  | .ffma _ => true
  | .ffma4 _ => true
  | .fcps _ => true
  | .fcmp _ => true
  | .fclass _ => true
  | .frnd _ => true
  | .fract _ => true
  | .pack2 _ => true
  | .hfma2 _ => true
  | .cvt _ => true
  | .fdiv _ => true
  | .xhull _ => true
  | .xcont _ => true
  | _ => false

/-- Thread k's store i goes to place l: the address operand names it, and the low-order bytes of the data group are written there. -/
abbrev Stores (i : Instr) (sp : Space) (b : Bundle) (k : Nat) (u v : State) (l : Loc) : Prop :=
  ∃ a d pg, addrOf u (ctxOf b i k) sp = .ok a ∧ a.poison = false ∧
    storeRegs u (ctxOf b i k) (szRegs (descSz (rawOf i).b)) = .ok d ∧ anyBad d = false ∧
    Writable u k sp a.bits.toNat (accessBytes (descSz (rawOf i).b)) .w l pg ∧
    let acc := storeAs sp (rawOf i).m (descScope (rawOf i).b)
    v = storeAt (noteAccess u k sp acc (.ok l pg)) k acc l (leBytes (accessBytes (descSz (rawOf i).b)) (dataNat d))

/-- Thread k's STGM goes to the places ps, each with the number of its byte in the data group. -/
abbrev StoresMasked (w : TForm) (b : Bundle) (k : Nat) (u v : State) (ps : List (Loc × Found × Nat)) : Prop :=
  ∃ a d y,
    let n := [4, 8, 16].getD w.m.toNat 4
    let c := ctxOf b (.stgm w) k
    srcD u c .n64 w.a.toNat = .ok a ∧ storeRegs u c (n / 4) = .ok d ∧ src u c .int w.b.toNat = .ok y ∧
      a.poison = false ∧ anyBad d = false ∧ y.poison = false ∧
      stgmPlaces u c (((List.range n).filter (fun j => y.bits.getLsbD j)).map (fun j => ((a.bits + BitVec.ofNat 64 j).toNat, j))) = .ok ps ∧
      let u1 := if ps.any (fun p => match p.1 with | .phys pa => owned u pa | .scratch _ _ => false | .carve _ => false) then countLqerr u else u
      let acc := storeAs .global 0 0
      v = ps.foldl (fun s p => writeAs (noteAccess s k .global acc p.2.1) k acc p.1 [(dataNat d / 256 ^ p.2.2 % 256 : Nat)]) u1

/-- Nothing but storage, with the order of its writes, and what an access leaves behind in the caches has changed from u to v. -/
abbrev OnlyStorage (u v : State) : Prop :=
  v = { u with
        mem := v.mem, carve := v.carve, threads := v.threads, teams := v.teams, cores := v.cores, lqerr := v.lqerr, accCounts := v.accCounts,
        accRing := v.accRing, fresh := v.fresh, order := v.order, marrow := v.marrow } ∧
    (∀ j, getThread v j = { getThread u j with lpr := (getThread v j).lpr }) ∧
    (∀ c, getCore v c = { getCore u c with
      tlb := (getCore v c).tlb, upper := (getCore v c).upper, l1 := (getCore v c).l1, counters := (getCore v c).counters }) ∧
    ∀ id, getTeam v id = { getTeam u id with scratch := (getTeam v id).scratch, badWords := (getTeam v id).badWords }

/-- A bundle of the one thread k, made ready for i in state u: nothing of the instruction waits, and its encoding is good. -/
abbrev Alone (s : State) (i : Instr) (b : Bundle) (k : Nat) (u : State) : Prop :=
  Issues s i b ∧ b.threads = [k] ∧ b.rest = none ∧ mustWait s b i k = false ∧ prepare (noted s b i) b i k = .ok u

/-- The thread takes trap n with cause c, at the place given, and leaves its bundle; the instruction has no other effect. -/
abbrev Traps (s : State) (i : Instr) (b : Bundle) (k n c : Nat) (place : Option (Nat × Nat)) : Prop :=
  exec i s = .next (stopThread (noted s b i) s.focus.1 s.focus.2 b k n c place)

end Sys2Proof.Says
open Sys2Proof Sys2Proof.Machine

/-- R159, R167. ADD, SUB, MUL, MULH, MIN, MAX, ABS, NEG, MAD, MADW, the ADD of IMM9 and LEA complete: D takes the exact result, wrapped to the
width that TY gives (the high half for MULH, the largest value for a saturating ABS or NEG that overflows), and the bundle goes on. -/
def Obligations.ArithmeticResult : Prop :=
  (∀ (i : Instr) (f : Nat → DWord → DWord → DWord), Says.arithmetic i = true → Says.two i = some f → Completes i (Says.twoOf f i)) ∧
  (∀ (i : Instr) (f : Nat → DWord → DWord), Says.arithmetic i = true → Says.one i = some f → Completes i (Says.oneOf f i)) ∧
  (∀ (i : Instr) (f : Word → Word → Word), Says.arithmetic i = true → Says.immediate i = some f → Completes i (Says.immOf f i)) ∧
  (∀ w : TForm, Completes (.mad w) (fun b k u v => ∃ x y z, srcV u (ctxOf b (.mad w) k) w.m.toNat w.a.toNat = .ok x ∧
    srcV u (ctxOf b (.mad w) k) w.m.toNat w.b.toNat = .ok y ∧ srcV u (ctxOf b (.mad w) k) w.m.toNat w.d.toNat = .ok z ∧
    v = dstV u (ctxOf b (.mad w) k) w.m.toNat
      ⟨Says.wide2 w.m.toNat (fun _ p d => p + d) (Says.wide2 w.m.toNat (fun _ a b => a * b) x.bits y.bits) z.bits,
        x.poison || y.poison || z.poison⟩)) ∧
  (∀ w : TForm, Completes (.madw w) (fun b k u v => ∃ x y z, src u (ctxOf b (.madw w) k) .int w.a.toNat = .ok x ∧
    src u (ctxOf b (.madw w) k) .int w.b.toNat = .ok y ∧ srcD u (ctxOf b (.madw w) k) .n64 w.d.toNat = .ok z ∧
    v = dstD u (ctxOf b (.madw w) k)
      ⟨(if w.m = 0 then x.bits.signExtend 64 * y.bits.signExtend 64 else x.bits.setWidth 64 * y.bits.setWidth 64) + z.bits,
        x.poison || y.poison || z.poison⟩)) ∧
  (∀ w : TForm, Completes (.lea w) (fun b k u v => ∃ x y, srcD u (ctxOf b (.lea w) k) .n64 w.a.toNat = .ok x ∧
    src u (ctxOf b (.lea w) k) .int w.b.toNat = .ok y ∧
    v = dstD u (ctxOf b (.lea w) k) ⟨x.bits + (y.bits.signExtend 64 <<< w.m.toNat), x.poison || y.poison⟩))

/-- R161 to R164. The logic, shift, bit-field and count instructions, and the I-formats among them, complete: an amount at or beyond the
width shifts every bit out, a field is clipped to the width, BFI keeps the bits outside its field, and a count goes to the one register D. -/
def Obligations.BitResult : Prop :=
  (∀ (i : Instr) (f : Nat → DWord → DWord → DWord), Says.bitwise i = true → Says.two i = some f → Completes i (Says.twoOf f i)) ∧
  (∀ (i : Instr) (f : Nat → DWord → DWord), Says.bitwise i = true → Says.one i = some f → Completes i (Says.oneOf f i)) ∧
  (∀ (i : Instr) (f : Word → Word → Word), Says.bitwise i = true → Says.immediate i = some f → Completes i (Says.immOf f i)) ∧
  (∀ (i : Instr) (f : Nat → DWord → Nat → DWord), Says.shifted i = some f →
    Completes i (fun b k u v => ∃ x y, srcV u (ctxOf b i k) (rawOf i).m (rawOf i).a = .ok x ∧ src u (ctxOf b i k) .int (rawOf i).b = .ok y ∧
      v = dstV u (ctxOf b i k) (rawOf i).m ⟨f (rawOf i).m x.bits y.bits.toNat, x.poison || y.poison⟩)) ∧
  (∀ (i : Instr) (f : (n : Nat) → BitVec n → Nat), Says.counted i = some f →
    Completes i (fun b k u v => ∃ x, srcV u (ctxOf b i k) (rawOf i).m (rawOf i).a = .ok x ∧
      v = dst u (ctxOf b i k) ⟨BitVec.ofNat 32 (if 2 ≤ (rawOf i).m then f 64 x.bits else f 32 x.bits.lo), x.poison⟩)) ∧
  (∀ w : TForm, Completes (.bfi w) (fun b k u v => ∃ x y z, srcV u (ctxOf b (.bfi w) k) w.m.toNat w.a.toNat = .ok x ∧
    src u (ctxOf b (.bfi w) k) .int w.b.toNat = .ok y ∧ srcV u (ctxOf b (.bfi w) k) w.m.toNat w.d.toNat = .ok z ∧
    v = dstV u (ctxOf b (.bfi w) k) w.m.toNat
      ⟨Says.wide2 w.m.toNat (fun n a d => let mask := Says.fieldMask n (y.bits.toNat % 256) (y.bits.toNat / 256 % 256)
          (d &&& ~~~mask) ||| ((a <<< (y.bits.toNat % 256)) &&& mask)) x.bits z.bits,
        x.poison || y.poison || z.poison⟩)) ∧
  (∀ w : TForm, Completes (.bmsk w) (fun b k u v => ∃ x y, src u (ctxOf b (.bmsk w) k) .int w.a.toNat = .ok x ∧
    src u (ctxOf b (.bmsk w) k) .int w.b.toNat = .ok y ∧
    v = dstV u (ctxOf b (.bmsk w) k) w.m.toNat
      ⟨Says.wide1 w.m.toNat (fun n _ => Says.fieldMask n x.bits.toNat y.bits.toNat) 0, x.poison || y.poison⟩))

/-- R160. ADDC and SUBB complete: a 33-bit sum or difference with the carry predicate p(4+M), whose top bit is the carry or borrow out. -/
def Obligations.CarryResult : Prop :=
  ∀ w : TForm,
    let cin (u : State) (k : Nat) := (BitVec.ofBool (readP u k (4 + w.m.toNat)).val).setWidth 33
    let out (i : Instr) (b : Bundle) (k : Nat) (u : State) (x y : RVal) (r : BitVec 33) :=
      let bad := x.poison || y.poison || (readP u k (4 + w.m.toNat)).poison
      writeP (dst u (ctxOf b i k) ⟨r.setWidth 32, bad⟩) k (4 + w.m.toNat) ⟨r.msb, bad⟩
    Completes (.addc w) (fun b k u v => ∃ x y, src u (ctxOf b (.addc w) k) .int w.a.toNat = .ok x ∧
      src u (ctxOf b (.addc w) k) .int w.b.toNat = .ok y ∧
      v = out (.addc w) b k u x y (x.bits.setWidth 33 + y.bits.setWidth 33 + cin u k)) ∧
    Completes (.subb w) (fun b k u v => ∃ x y, src u (ctxOf b (.subb w) k) .int w.a.toNat = .ok x ∧
      src u (ctxOf b (.subb w) k) .int w.b.toNat = .ok y ∧
      v = out (.subb w) b k u x y (x.bits.setWidth 33 - y.bits.setWidth 33 - cin u k))

/-- R157, R165, R166. PRMT, FSHL and FSHR complete. -/
def Obligations.ThreeOperandResult : Prop :=
  ∀ (i : Instr) (f : Word → Word → Word → Word), Says.three i = some f →
    Completes i (fun b k u v => ∃ x y z, src u (ctxOf b i k) .int (rawOf i).a = .ok x ∧ src u (ctxOf b i k) .int (rawOf i).b = .ok y ∧
      src u (ctxOf b i k) .int (rawOf i).c = .ok z ∧
      v = dst u (ctxOf b i k) ⟨f x.bits y.bits z.bits, x.poison || y.poison || z.poison⟩)

/-- R157, R168, R169. CMP writes the comparison, joined with a predicate, to a predicate, CMPV a mask of it; SEL picks an operand by a
predicate, and only the operand picked and the predicate can mark its result. -/
def Obligations.CompareAndSelectResult : Prop :=
  (∀ (w : XForm) (i : Instr), i = .cmp w ∨ i = .cmpv w →
    Completes i (fun b k u v => ∃ x y, srcV u (ctxOf b i k) w.m.toNat w.a.toNat = .ok x ∧ srcV u (ctxOf b i k) w.m.toNat w.b.toNat = .ok y ∧
      let p := if w.e.toNat / 8 % 4 = 0 then PVal.zero else readP u k (w.c.toNat - 112)
      let r := Says.joined (w.e.toNat / 8 % 4)
        (if 2 ≤ w.m.toNat then Says.holds (w.e.toNat % 8) w.m.toNat 64 x.bits y.bits
          else Says.holds (w.e.toNat % 8) w.m.toNat 32 x.bits.lo y.bits.lo) p.val (w.e.getLsbD 5)
      let bad := x.poison || y.poison || p.poison
      v = if i = .cmp w then writeP u k (w.d.toNat - 112) ⟨r, bad⟩ else dst u (ctxOf b i k) ⟨if r then BitVec.allOnes 32 else 0, bad⟩)) ∧
  (∀ w : XForm, Completes (.sel w) (fun b k u v => ∃ x y, srcV u (ctxOf b (.sel w) k) w.m.toNat w.a.toNat = .ok x ∧
    srcV u (ctxOf b (.sel w) k) w.m.toNat w.b.toNat = .ok y ∧
    let p := readP u k (w.c.toNat - 112)
    let z := if p.val = w.e.getLsbD 0 then y else x
    v = dstV u (ctxOf b (.sel w) k) w.m.toNat ⟨z.bits, z.poison || p.poison⟩))

/-- R170. MOV copies a value of TY's width, with its mark; MOVI writes IMM16 sign-extended; MOVHI puts IMM16 above D's low half. -/
def Obligations.MoveResult : Prop :=
  (∀ w : TForm, Completes (.mov w) (Says.oneOf (fun _ x => x) (.mov w))) ∧
  (∀ w : WForm, Completes (.movi w) (fun b k u v => v = dst u (ctxOf b (.movi w) k) ⟨w.imm.signExtend 32, false⟩)) ∧
  (∀ w : WForm, Completes (.movhi w) (fun b k u v => ∃ x, src u (ctxOf b (.movhi w) k) .int w.d.toNat = .ok x ∧
    v = dst u (ctxOf b (.movhi w) k) ⟨w.imm ++ x.bits.extractLsb' 0 16, x.poison⟩))

/-- R157, R172. PAND, POR, PXOR and PNOT complete. -/
def Obligations.PredicateResult : Prop :=
  (∀ (i : Instr) (f : Bool → Bool → Bool), Says.predicates i = some f →
    Completes i (fun _ k u v =>
      let p := readP u k ((rawOf i).a - 112)
      let q := readP u k ((rawOf i).b - 112)
      v = writeP u k ((rawOf i).d - 112)
        ⟨f (p.val != decide ((rawOf i).m % 2 = 1)) (q.val != decide (2 ≤ (rawOf i).m)), p.poison || q.poison⟩)) ∧
  (∀ w : TForm, Completes (.pnot w) (fun _ k u v =>
    let p := readP u k (w.a.toNat - 112)
    v = writeP u k (w.d.toNat - 112) ⟨!p.val, p.poison⟩))

/-- R47, R158, R160, R171. A uniform-pipe form completes once for each group with threads in the bundle: the instruction whose OP is SUB
(here j), on the group's uniform registers, where a literal may stand for B; ADDC and SUBB take the carry predicate of the group's first
thread in the bundle and leave theirs in every live thread of the group. V2G writes each group's uniform register, or pair, from the
group's first thread in the bundle. -/
def Obligations.UniformResult : Prop :=
  (∀ (sub : BitVec 8) (w : XForm) (t : TForm) (j : Instr), instrT sub.toNat t = some j →
    let i := Instr.uniformPipeOp sub w
    let m := w.m.toNat
    let c (b : Bundle) (k : Nat) := ctxOf b i k
    let A (b : Bundle) (k : Nat) (u : State) := uniV u (c b k) m w.a.toNat
    let B (b : Bundle) (k : Nat) (u : State) := uniB u (c b k) m
    let D (b : Bundle) (k : Nat) (u : State) := uniV u (c b k) m w.d.toNat
    let a32 (b : Bundle) (k : Nat) (u : State) := uniV u (c b k) 0 w.a.toNat
    let b32 (b : Bundle) (k : Nat) (u : State) := uniB u (c b k) 0
    (∀ f, Says.two j = some f → CompletesByGroup i (fun b k u v =>
      v = dstUniV u (c b k) m ⟨f m (A b k u).bits (B b k u).bits, (A b k u).poison || (B b k u).poison⟩)) ∧
    (∀ f, Says.one j = some f → CompletesByGroup i (fun b k u v => v = dstUniV u (c b k) m ⟨f m (A b k u).bits, (A b k u).poison⟩)) ∧
    (∀ f, Says.shifted j = some f → CompletesByGroup i (fun b k u v =>
      v = dstUniV u (c b k) m ⟨f m (A b k u).bits (b32 b k u).bits.toNat, (A b k u).poison || (b32 b k u).poison⟩)) ∧
    (∀ f, Says.counted j = some f → CompletesByGroup i (fun b k u v =>
      v = dstUniV u (c b k) 0 ⟨BitVec.ofNat 64 (if 2 ≤ m then f 64 (A b k u).bits else f 32 (A b k u).bits.lo), (A b k u).poison⟩)) ∧
    (j = .mad t → CompletesByGroup i (fun b k u v =>
      v = dstUniV u (c b k) m ⟨Says.wide2 m (fun _ p d => p + d) (Says.wide2 m (fun _ a b => a * b) (A b k u).bits (B b k u).bits) (D b k u).bits,
        (A b k u).poison || (B b k u).poison || (D b k u).poison⟩)) ∧
    (j = .madw t → CompletesByGroup i (fun b k u v =>
      let x := (a32 b k u).bits.lo
      let y := (b32 b k u).bits.lo
      let z := uniD u (c b k) w.d.toNat
      v = dstUniV u (c b k) 3 ⟨(if m = 0 then x.signExtend 64 * y.signExtend 64 else x.setWidth 64 * y.setWidth 64) + z.bits,
        (a32 b k u).poison || (b32 b k u).poison || z.poison⟩)) ∧
    (j = .bfi t → CompletesByGroup i (fun b k u v =>
      let y := (b32 b k u).bits.toNat
      v = dstUniV u (c b k) m ⟨Says.wide2 m (fun n a d => let mask := Says.fieldMask n (y % 256) (y / 256 % 256)
          (d &&& ~~~mask) ||| ((a <<< (y % 256)) &&& mask)) (A b k u).bits (D b k u).bits,
        (A b k u).poison || (b32 b k u).poison || (D b k u).poison⟩)) ∧
    (j = .bmsk t → CompletesByGroup i (fun b k u v =>
      v = dstUniV u (c b k) m ⟨Says.wide1 m (fun n _ => Says.fieldMask n (a32 b k u).bits.toNat (b32 b k u).bits.toNat) 0,
        (a32 b k u).poison || (b32 b k u).poison⟩)) ∧
    (j = .lea t → CompletesByGroup i (fun b k u v =>
      let x := uniD u (c b k) w.a.toNat
      v = dstUniV u (c b k) 3 ⟨x.bits + ((b32 b k u).bits.lo.signExtend 64 <<< m), x.poison || (b32 b k u).poison⟩)) ∧
    (∀ neg : Bool, (j = if neg then .subb t else .addc t) → CompletesByGroup i (fun b k u v =>
      let p := readP u k (4 + m)
      let cin := (BitVec.ofBool p.val).setWidth 33
      let x := (a32 b k u).bits.lo.setWidth 33
      let y := (b32 b k u).bits.lo.setWidth 33
      let r := if neg then x - y - cin else x + y + cin
      let bad := (a32 b k u).poison || (b32 b k u).poison || p.poison
      let u1 := dstUniV u (c b k) 0 ⟨(r.setWidth 32).setWidth 64, bad⟩
      v = (liveOfGroup u1 (keyGroup k)).foldl (fun s h => writeP s h (4 + m) ⟨r.msb, bad⟩) u1))) ∧
  (∀ w : TForm, CompletesByGroup (.v2g w) (fun b k u v => ∃ x, srcV u (ctxOf b (.v2g w) k) w.m.toNat w.a.toNat = .ok x ∧
    let g := keyGroup k
    let n := w.d.toNat - 80
    let u1 := writeUni u g n ⟨x.bits.extractLsb' 0 32, x.poison⟩
    v = if w.m = 2 ∨ w.m = 3 then writeUni u1 g (n + 1) ⟨x.bits.extractLsb' 32 32, x.poison⟩ else u1))

/-- R42, R173, R174, R180. BRA and a BRP whose predicate holds choose the thread's next PC, a BRP whose predicate does not hold chooses
none (a BRP leaves the DIVERGE records of R434), and JOINH names a join PC, which its thread has yet to reach. -/
def Obligations.BranchResult : Prop :=
  ∀ w : JForm,
    Completes (.bra w) (fun b k u v => v = Says.goes u k (Says.target b.pc w)) ∧
    Completes (.joinh w) (fun b k u v => v = modThread u k (fun t => { t with joinPc := some (Says.target b.pc w), joined := t.joined.filter (fun j => decide (j ≠ Says.target b.pc w)) })) ∧
    (∀ (s : State) (b : Bundle) (t : State), Executes s (.brp w) b (fun k u v =>
        (readP u k w.p.toNat).poison = false ∧
          v = if (readP u k w.p.toNat).val = w.n then u else Says.goes u k (Says.target b.pc w)) t →
      exec (.brp w) s = .next (past s (.brp w) (noteDiverge b (noted s b (.brp w)) (b.rest.getD b.threads) t)))

/-- R136, R175, R176. CALL and CALLI store the return address and the class at CSP − 8, lower CSP and go to their target; RET reads the
top entry, raises CSP and goes to the entry's PC. -/
def Obligations.CallResult : Prop :=
  let push (b : Bundle) (k : Nat) (u v : State) (dest : Word) : Prop := ∃ l pg,
    8 ≤ (getThread u k).csp.toNat ∧ Says.Writable u k .priv ((getThread u k).csp.toNat - 8) 8 .w l pg ∧
      let entry := leBytes 8 ((returnAddr u).toNat + Says.classBit b.form * 2 ^ 32)
      let acc := Says.storeAs .priv 0 0
      v = Says.goes (modThread (storeAt (noteAccess u k .priv acc (.ok l pg)) k acc l entry) k (fun t => { t with csp := t.csp - 8 })) k dest
  (∀ w : JForm, Completes (.call w) (fun b k u v => push b k u v (Says.target b.pc w))) ∧
  (∀ w : TForm, Completes (.calli w) (fun b k u v => ∃ x, src u (ctxOf b (.calli w) k) .int w.a.toNat = .ok x ∧ x.poison = false ∧
    x.bits.toNat % 4 = 0 ∧ push b k u v x.bits)) ∧
  (∀ w : TForm, Completes (.ret w) (fun b k u v => ∃ l pg e u1,
    let csp := (getThread u k).csp.toNat
    let acc := Says.loadAs .priv 0 0
    csp + 8 ≤ (teamOf u k).desc.priv ∧ resolve u k .priv csp 8 .r = .ok l pg ∧
      readAs (noteAccess u k .priv acc (.ok l pg)) k acc l 8 = .ok (e, u1) ∧ e / 2 ^ 32 % 2 = Says.classBit b.form ∧ e % 4 = 0 ∧
      v = Says.goes (modThread u1 k (fun t => { t with csp := t.csp + 8 })) k (BitVec.ofNat 32 e)))

/-- R35, R178, R179. NOP and PAD change nothing of a thread; YIELD makes its age 0 and has it sit out a pick; EXIT ends it, and with the
last thread of its team the team's reclamation begins (R424). -/
def Obligations.ThreadControlResult : Prop :=
  (∀ w : TForm, Completes (.nop w) (fun _ _ u v => v = u)) ∧
  (∀ w : PadForm, Completes (.pad w) (fun _ _ u v => v = u)) ∧
  (∀ w : TForm, Completes (.yield w) (fun _ k u v => v = modThread u k (fun t => { t with age := 0, overdue := none, wait := .yielded }))) ∧
  (∀ w : TForm, Completes (.exit w) (fun _ k u v =>
    let u1 := modThread u k (fun t => { t with exited := true, pend := [], view := none, next := none, seq := none, wait := .none, joinPc := none,
                                               regs := { t.regs with x := [] } })
    let u2 := releaseJoins (leave u1 u1.focus.1 u1.focus.2 k) (keyGroup k)
    v = if (threadsOfTeam u2 (keyTeam k)).all (fun h => (getThread u2 h).exited)
      then modTeam u2 (keyTeam k) (fun t => { t with hold := .retiring }) else u2))

/-- R37, R38, R43. RUNH opens a run whose words break no rule: the temporaries of its threads hold nothing, and the bundle goes to its
first body instruction. RUNT makes the results it names awaited and ends the bundle, each thread at its next PC. -/
def Obligations.RunResult : Prop :=
  (∀ (w : RunhForm) (s : State) (b : Bundle) (k : Nat), Issues s (.runh w) b → b.threads.head? = some k →
    let body := (codeFrom b b.pc).drop 1
    body.length = w.len.toNat + 1 → checkD (lHome s k) w.xmask.toNat 26 1 true [] [] body = none →
    let b1 := { b with seq := { head := b.pc, packet := 0, xmask := w.xmask.toNat, begun := false } }
    let cleared := b.threads.foldl (fun s h => modThread s h (fun t => { t with regs := { t.regs with x := [] } }))
      (setBundle s s.focus.1 s.focus.2 (some b1))
    exec (.runh w) s = .next (setBundle cleared s.focus.1 s.focus.2 (some { b1 with pc := b.pc + 4, rest := none }))) ∧
  (∀ (w : RuntForm) (s : State) (b : Bundle), Issues s (.runt w) b →
    let named := [w.w1, w.w2, w.w3].map (fun c => if 80 ≤ c.toNat ∧ c.toNat < 112 then c.toNat + 48 else c.toNat)
    let awaited := b.threads.foldl (fun s h => modThread s h (fun t =>
      { t with pend := t.pend.map (fun p => if p.dests.any (fun d => decide (d ∈ named)) then { p with awaited := true } else p) })) s
    exec (.runt w) s = .next (dissolve awaited s.focus.1 s.focus.2 b))

/-- R181, R224, R405. TRAP takes the trap DEBUG in every thread that executes it. TRET completes for a thread in its handler, when TRRPC was
not written there: FPCTL, CSP, the predicates, the most recent equivalence point, the latches or temporaries and the position are restored,
INTRAP is 0 and the thread stands at TRRPC; and for one that wrote TRRPC, aligned, it stands there without the saved position. -/
def Obligations.TrapInstructionResult : Prop :=
  (∀ (w : WForm) (s : State) (b : Bundle), Issues s (.trap w) b →
    exec (.trap w) s = .next (past s (.trap w) ((b.rest.getD b.threads).foldl
      (fun u k => leave (enterTrap u k 0x0E 0 none (trapAt b b.pc (fallThrough b) (seqAt b b.pc (getThread u k)))) s.focus.1 s.focus.2 k) (noted s b (.trap w))))) ∧
  (∀ w : TForm, Completes (.tret w) (fun _ k u v => ∃ sv,
    (getThread u k).intrap = true ∧ (getThread u k).saved = some sv ∧
      let u1 := match bundleAt u u.focus.1 u.focus.2 with
        | some b => (match b.form with | .d => trailerFor b u k | .l => u)
        | none => u
      let pc := kget 0 (getThread u k).frec 14
      let home := arrive (modThread u1 k (fun t =>
        { t with fpctl := sv.fpctl, csp := sv.csp, regs := { t.regs with p := sv.p }, intrap := false, saved := none, eqp := sv.eqp })) k pc
      let back := if (getThread u k).rpcWritten then home else modThread home k (fun t => { t with regs := { t.regs with x := sv.x }, seq := sv.seq })
      ((getThread u k).rpcWritten = true → pc.toNat % 4 = 0) ∧ v = releaseJoins (leave back back.focus.1 back.focus.2 k) (keyGroup k)))

/-- R240, R264, R268, R375. The loads complete, a value that can be read becoming the pending result, extended to 32 bits or in register
order; what may be read is MemoryModelResult's. An acquire at .CLU or wider empties the L1 of the home core. -/
def Obligations.LoadResult : Prop :=
  ∀ (i : Instr) (sp : Space), Says.loadsFrom i = some sp →
    let sz := descSz (rawOf i).b
    let acc := Says.loadAs sp (rawOf i).m (descScope (rawOf i).b)
    Completes i (fun b k u v => ∃ a l pg x u1, addrOf u (ctxOf b i k) sp = .ok a ∧ a.poison = false ∧
      Says.Readable u k sp acc a.bits.toNat (Says.accessBytes sz) l pg x u1 ∧
      let u2 := if acc.acq = true ∧ 3 ≤ acc.scope then emptyL1 u1 (teamOf u1 k).home else u1
      v = postResult u2 k (dests (ctxOf b i k) (Says.loaded sz x).length) (some (Says.loaded sz x)) (loadWordsAt u (ctxOf b i k) a.bits.toNat))

/-- R240 to R242. A load with a poisoned address delivers poison without an access, and one whose translation or read fails delivers
poison and records it as the thread's origin: no load traps for it. -/
def Obligations.LoadDeliversPoison : Prop :=
  ∀ (i : Instr) (sp : Space), Says.loadsFrom i = some sp →
    let sz := descSz (rawOf i).b
    let n := if sz = 6 then 4 else if sz = 5 then 2 else 1
    let acc := Says.loadAs sp (rawOf i).m (descScope (rawOf i).b)
    let out (b : Bundle) (k : Nat) (u : State) (kind : PendKind) :=
      postResult u k (dests (ctxOf b i k) n) (some (List.replicate n Says.bad)) kind
    Completes i (fun b k u v => ∃ a, addrOf u (ctxOf b i k) sp = .ok a ∧ a.poison = true ∧ v = out b k u .plain) ∧
    Completes i (fun b k u v => ∃ a e, addrOf u (ctxOf b i k) sp = .ok a ∧ a.poison = false ∧
      a.bits.toNat % Says.accessBytes sz = 0 ∧
      ∃ f, f = resolve u k sp a.bits.toNat (Says.accessBytes sz) .r ∧
        let u1 := noteAccess u k sp acc f
        ((∃ va, f = .fault e va) ∨ ∃ l pg, f = .ok l pg ∧ readAs u1 k acc l (Says.accessBytes sz) = .error e) ∧
        v = out b k (notePoison u1 k b.pc.toNat (a.bits.toNat, sp) e.code) (loadWordsAt u (ctxOf b i k) a.bits.toNat))

/-- R103, R240, R243, R269, R271. The stores complete: the low-order bytes of the data group are written at the place the address names,
and a poisoned line that the instruction's threads have written whole loses its mark. STGM completes: each selected byte, at any address,
is written when all of them can be, and none of the others. -/
def Obligations.StoreResult : Prop :=
  (∀ (i : Instr) (sp : Space), Says.storesTo i = some sp → ∀ (s : State) (b : Bundle) (t : State),
      Executes s i b (fun k u v => ∃ l, Says.Stores i sp b k u v l) t →
      exec i s = .next (past s i (clearLines t ((b.rest.getD b.threads).flatMap (fun k => storePlaces sp (ctxOf b i k) (noted s b i)))))) ∧
  (∀ (w : TForm) (s : State) (b : Bundle) (t : State), Executes s (.stgm w) b (fun k u v => ∃ ps, Says.StoresMasked w b k u v ps) t →
    exec (.stgm w) s = .next (past s (.stgm w) (clearLines t ((b.rest.getD b.threads).flatMap (fun k => stgmSpan (ctxOf b (.stgm w) k) (noted s b (.stgm w)))))))

/-- R259, R272, R280, R281, R375, R417, R418. FENCE orders its thread's accesses at its scope (MemoryModelResult says how), and one that
acquires at .CLU or wider empties the L1 of the home core. ICINV.ALL and ICINV.LINE, after a release at device scope, drop lines of code of
the team's address space from every core: the next fetch reads memory, and passes over no store that the ICINV's thread was ordered after.
PREF leaves at most what an access to its line leaves. TLBI.PAGE and TLBI.ASID, after a release at device scope, drop the translations of the
team's address space from every core and last-page register. HALT, a release at system scope, records its place in HALTSTAT and HALTPC when
HALTSTAT is free, asks for its grid's halt when none stands, and blocks the thread after the HALT, with a STOP record for each group. -/
def Obligations.MaintenanceResult : Prop :=
  ((∀ w : TForm, Completes (.fence w) (fun _ k u v =>
    let scope := w.b.toNat / 2 % 8
    let u1 := fence u k w.m.toNat scope
    v = if w.m ≠ 1 ∧ 3 ≤ scope then emptyL1 u1 (teamOf u1 k).home else u1)) ∧
  (∀ w : TForm, Completes (.icinvAll w) (fun _ k u v =>
    v = dropCode (giveTo (fence u k 1 4) k (.code (teamOf u k).asid 0)) (teamOf u k).asid none)) ∧
  (∀ w : TForm, Completes (.icinvLine w) (fun b k u v => ∃ a, srcD u (ctxOf b (.icinvLine w) k) .n64 w.a.toNat = .ok a ∧ a.poison = false ∧
    v = dropCode (giveTo (fence u k 1 4) k (.code (teamOf u k).asid (a.bits.toNat / 128 + 1))) (teamOf u k).asid (some a.bits.toNat))) ∧
  (∀ (s : State) (k asid line n : Nat) (v : Ver), (n = 0 ∨ n = line + 1) → v.ev ≤ kget 0 (viewOf s.order k) v.agent →
    codePasses (giveTo s k (.code asid n)) asid line v = false) ∧
  (∀ (s : State) (asid va x core : Nat),
    (codeLine (getCore (dropCode s asid (some va)) core) asid x =
      if x / 128 = va / 128 then none else codeLine (getCore s core) asid x) ∧
    codeLine (getCore (dropCode s asid none) core) asid x = none ∧
    (∀ other, other ≠ asid → codeLine (getCore (dropCode s asid none) core) other x = codeLine (getCore s core) other x) ∧
    (∀ p, translateOn s core asid va .x = .ok p → codeLine (getCore s core) asid va = none →
      fetchBytes s core asid va = (codeRead s asid (va / 128) (p.pa va) 4).map leNat)) ∧
  (∀ w : TForm, Completes (.pref w) (fun b k u v => ∃ a, srcD u (ctxOf b (.pref w) k) .n64 w.a.toNat = .ok a ∧
    ((a.poison = true ∧ v = u) ∨ (a.poison = false ∧
      ((∃ l p x, resolve u k .global a.bits.toNat 1 .r = .ok l (some p) ∧ p.nc = false ∧ readLoc u l 1 = .ok x ∧
          v = noteAccess u k .global (if w.m = 0 then Says.loadAs .global 0 0 else Says.loadAs .global 1 4) (.ok l (some p))) ∨
       ((∀ l p, resolve u k .global a.bits.toNat 1 .r = .ok l (some p) → p.nc = true ∨ ∃ e, readLoc u l 1 = .error e) ∧ v = u))))))) ∧
  (∀ w : TForm,
    Completes (.tlbiPage w) (fun b k u v => ∃ x, srcD u (ctxOf b (.tlbiPage w) k) .n64 w.a.toNat = .ok x ∧ x.poison = false ∧
      v = dropTranslations (fence u k 1 4) (some (teamOf u k).asid) (some x.bits.toNat)) ∧
    Completes (.tlbiAsid w) (fun _ k u v => v = dropTranslations (fence u k 1 4) (some (teamOf u k).asid) none) ∧
    (∀ (s : State) (asid va core : Nat) (need : Need),
      tlbHit (getCore (dropTranslations s (some asid) (some va)) core) asid va need = none ∧
      tlbHit (getCore (dropTranslations s (some asid) none) core) asid va need = none ∧
      (∀ k, (teamOf s k).asid = asid → lprHit (getThread (dropTranslations s (some asid) (some va)) k).lpr va need = none)) ∧
    (∀ (s : State) (b : Bundle) (t : State), Executes s (.halt w) b (fun k u v => ∃ x b1, src u (ctxOf b (.halt w) k) .int w.a.toNat = .ok x ∧
        x.poison = false ∧
        let u0 := fence u k 1 5
        let u1 := if u.haltstat.msb then u0 else
          { u0 with haltstat := BitVec.ofNat 64 (2 ^ 63 + bits (teamPodVa u (teamOf u k)) 51 6 * 64),
                    haltpc := pctOf (getThread u k).eqp b.form ++ b.pc }
        let u2 := if haltStands u1 (teamOf u k).grid then u1 else nextRequest { u1 with haltWaits := u1.haltWaits ++ [(teamOf u k).grid] }
        bundleAt u2 u2.focus.1 u2.focus.2 = some b1 ∧
        let u3 := arrive (modThread (runTrailer u2 b1 k) k (fun t => { t with wait := .halted })) k (fallThrough b1)
        v = releaseJoins (leave u3 u3.focus.1 u3.focus.2 k) (keyGroup k)) t →
      exec (.halt w) s = .next (past s (.halt w) (noteStop (.halt w) b (noted s b (.halt w)) (b.rest.getD b.threads) t))))

/-- R274 to R276. ATS and ATG complete: one read-modify-write at the location, where a CAS that fails stores nothing, and the old value is
the pending result. The replay log has the interaction (R436). -/
def Obligations.AtomicResult : Prop :=
  ∀ (w : TForm) (sp : Space) (i : Instr), (i = .ats w ∧ sp = .scratch) ∨ (i = .atg w ∧ sp = .global) →
    let opc := atomOpc w.b.toNat
    let n := if opc ∈ [0x01, 0x05, 0x06, 0x0A, 0x0B, 0x0E, 0x10, 0x12, 0x14, 0x16] then 8 else 4
    let acc := Says.atomicAs w.m.toNat (w.b.toNat % 4)
    Completes i (fun b k u v => ∃ a d l pg x, addrOf u (ctxOf b i k) sp = .ok a ∧ a.poison = false ∧
      atomData u (ctxOf b i k) (atomRegs opc) = .ok d ∧ anyBad d = false ∧
      Says.Writable u k sp a.bits.toNat n .rw l pg ∧ readLoc u l n = .ok x ∧ logBlocked u 1 = false ∧
      let new := Says.atomic opc (getThread u k).fpctl
      let u1 := logAct (noteAccess u k sp acc (.ok l pg)) 1 (logAtThread u k) (locKey u l)
      let r := updateAs u1 k acc l n (fun old => new old d)
      let u2 := if (new r.1 d).isSome then noteOwned r.2 l n else r.2
      let u3 := if acc.acq = true ∧ 3 ≤ acc.scope then emptyL1 u2 (teamOf u2 k).home else u2
      v = postResult u3 k (if w.d = 127#7 then [] else atomWrites opc w.d.toNat)
        (some ((List.range (n / 4)).map (fun j => Says.reg (BitVec.ofNat 32 (r.1 / 2 ^ (32 * j)))))) .plain)

/-- R277, R279, R395, R396. RED appends an entry to the buffer of the thread's home picker when there is room there, and changes no memory;
RFLUSH raises the thread's flush number, unless it would run 2^31 or more ahead of its grid's oldest entries. Log entry 23 (DEDUCED): flush
numbers are counted without wrapping, so that a number more than 2^31 ahead waits too, and one that is behind does not. -/
def Obligations.ReductionResult : Prop :=
  (∀ w : TForm, Completes (.red w) (fun b k u v => ∃ a d pa pg,
    let c := ctxOf b (.red w) k
    let n := if atomOpc w.b.toNat = 1 then 2 else 1
    srcD u c .n64 w.a.toNat = .ok a ∧ a.poison = false ∧ storeRegs u c n = .ok d ∧ anyBad d = false ∧
      Says.Writable u k .global a.bits.toNat (4 * n) .w (.phys pa) pg ∧ pa < 0x3000000000 ∧
      let tm := teamOf u k
      let u1 := noteAccess u k .global (Says.storeAs .global 1 4) (.ok (.phys pa) pg)
      let picker := homePickerOf u (keyGroup k)
      let buf := kget [] (getCore u1 tm.home).redbuf picker
      let e : RedEntry :=
        { grid := tm.grid, gridVa := teamPodVa u tm, asid := tm.asid, pa := pa, opc := atomOpc w.b.toNat, lo := (d.headD RVal.zero).bits,
          hi := (d.getD 1 RVal.zero).bits, fpctl := (getThread u k).fpctl, core := tm.home, picker := picker, linear := tm.linear,
          group := keyGroup k % 32, thread := keyLin k % 32, order := u1.fresh, flush := (getThread u1 k).flush }
      buf.length < 256 ∧
        v = modCore { u1 with fresh := u1.fresh + 1 } tm.home (fun x => { x with redbuf := kput x.redbuf picker (buf ++ [e]) }))) ∧
  (∀ w : TForm, Completes (.rflush w) (fun _ k u v =>
    (∀ o, oldestFlush (gridEntries u (teamOf u k).grid) = some o → (getThread u k).flush + 1 < o + 2 ^ 31) ∧
      v = modThread u k (fun t => { t with flush := t.flush + 1 })))

/-- R91, R273. BRKF completes: the distance and the gradient of the brick map at the address, marked when the point is, or poison whose
origin is recorded where a read of the map fails. A point with a NaN gives four NaNs; the coordinates are rounded once; outside the map, or
in an empty brick, the distance is plus or minus DCLAMP and the gradient zero; in a brick that is present it is the trilinear value of the
eight samples around the point, exactly, and the gradient that form's derivative over VOXEL. -/
def Obligations.BrickFetchResult : Prop :=
  (∀ w : TForm, Completes (.brkf w) (fun b k u v => let c := ctxOf b (.brkf w) k
    ∃ a p, srcD u c .n64 w.a.toNat = .ok a ∧ a.poison = false ∧ a.bits.toNat % 4 = 0 ∧ srcN u c w.b.toNat 3 = .ok p ∧
      let r := (brickValue (threadPort c) a.bits.toNat (getThread u k).fpctl (p.map (fun x => Says.inF (getThread u k).fpctl x.bits))).run.run u
      ((∃ vs, r.1 = .ok vs ∧ v = postResult r.2 k (dests c 4) (some (vs.map (fun x => ⟨x, anyBad p⟩))) .plain) ∨
       (∃ va e, r.1 = .error (.fault va e) ∧
        v = postResult (notePoison r.2 k b.pc.toNat (va, .global) e.code) k (dests c 4) (some (List.replicate 4 Says.bad)) .plain)))) ∧
  (∀ (p : BrickPort) (a : Nat) (fp : Word) (pt : List Xr) (u u1 : State) (h : BrickMap), (readBrickMap p.read a).run.run u = (.ok h, u1) →
    let value := (brickValue p a fp pt).run.run u
    let g := (List.range 3).map (fun k =>
      f32 (BitVec.ofNat 32 (roundTo .f32 false .rn (Xr.div (Xr.add .rn (pt.getD k .nan) (Xr.neg (f32 (h.origin.getD k 0)))) (f32 h.voxel)))))
    (Xr.nan ∈ pt → value = (.ok (List.replicate 4 0x7FC00000#32), u1)) ∧
    (¬Xr.nan ∈ pt → ¬Xr.nan ∈ g → ∀ (d : Xr) (gr : List Xr) (u2 : State), (brickAt p h fp g).run.run u1 = (.ok (d, gr), u2) →
      value = (.ok ((d :: gr).map (Says.outF fp .rn)), u2))) ∧
  (∀ (p : BrickPort) (h : BrickMap) (fp : Word) (g : List Xr) (u : State),
    (∃ k, k < 3 ∧ ((∃ s, g.getD k .nan = .inf s) ∨ ∃ x, Says.rat (g.getD k .nan) = some x ∧ (x < 0 ∨ 7 * (h.size.getD k 0 : Rat) ≤ x))) →
    (brickAt p h fp g).run.run u = (.ok (f32 h.dclamp, [Xr.zero, Xr.zero, Xr.zero]), u)) ∧
  (∀ (p : BrickPort) (h : BrickMap) (fp : Word) (g : List Xr) (q : Nat → Rat) (m n : Nat → Nat → Nat) (vox : Rat) (u : State),
    Says.Reads p.read m → Says.Reads p.sample n → (∀ a l s, (p.brick a l).run.run s = (.ok (), s)) →
    Says.rat (f32 h.voxel) = some vox → 0 < vox →
    (∀ k, k < 3 → Says.rat (g.getD k .nan) = some (q k) ∧ 0 ≤ q k ∧ q k < 7 * (h.size.getD k 0 : Rat)) →
    let cell (k : Nat) : Nat := (q k).floor.toNat
    let at_ (k : Nat) : Rat := q k - (cell k : Rat)
    let w := m (h.map + 4 * (cell 0 / 7 + h.size.getD 0 0 * (cell 1 / 7 + h.size.getD 1 0 * (cell 2 / 7)))) 4
    let value := (brickAt p h fp g).run.run u
    (w = 0 → value = (.ok (f32 h.dclamp, [Xr.zero, Xr.zero, Xr.zero]), u)) ∧
    (w = 2 ^ 30 → value = (.ok (Xr.neg (f32 h.dclamp), [Xr.zero, Xr.zero, Xr.zero]), u)) ∧
    (w / 2 ^ 30 = 2 → ∀ s : Nat → Rat,
      (∀ c, c < 8 →
        let i := cell 0 % 7 + c % 2 + 8 * (cell 1 % 7 + c / 2 % 2) + 64 * (cell 2 % 7 + c / 4)
        let size := if h.s8 then 1 else 2
        Says.rat (sampleValue h fp (n (h.pool + w % 2 ^ 30 * (512 * size) + size * i) size)) = some (s c)) →
      ∃ d gr, value = (.ok (d, gr), u) ∧ Says.rat d = some (Says.lerp at_ s) ∧ gr.length = 3 ∧
        ∀ axis, axis < 3 → Says.rat (gr.getD axis .nan) = some (Says.lerpSlope at_ s axis / vox)))

/-- R430, R440. CSRR delivers the register's value, and a read of CLOCK latches its upper word; CSRW writes the writable fields. -/
def Obligations.SpecialRegisterResult : Prop :=
  (∀ w : WForm, let n := w.imm.toNat % 4096
    Completes (.csrr w) (fun b k u v =>
      let latched := if n = 0x008 then modThread u k (fun t => { t with clockHi := (BitVec.ofNat 64 u.clock).extractLsb' 32 32 }) else u
      v = postResult latched k (dests (ctxOf b (.csrr w) k) 1) (some [⟨csrRead u k b.pc n, false⟩]) .plain)) ∧
  (∀ w : WForm, Completes (.csrw w) (fun b k u v => ∃ x, src u (ctxOf b (.csrw w) k) .int w.d.toNat = .ok x ∧ x.poison = false ∧
    v = csrWrite u k (w.imm.toNat % 4096) x.bits)) ∧
  (∀ (u : State) (k : Nat) (pc : Word), ∀ e ∈ Says.registers u k pc, csrRead u k pc e.1 = e.2) ∧
  (∀ (u : State) (k : Nat) (x : Word), ∀ e ∈ Says.written u k x, csrWrite u k e.1 x = e.2)

/-- R388 to R394. The barrier instructions complete on an object of the team: BARI initialises it and wakes its waiters, BARX expects
bytes and may arrive, BARA arrives, each a release, indivisible and followed by its check; BARW lets a thread go on whose parity is not the
phase, ordered after the releases that completed it, and has another wait at the BARW; BARW.TRY and BART read. -/
def Obligations.BarrierResult : Prop :=
  ∀ w : TForm,
    let obj (i : Instr) (b : Bundle) (k : Nat) (u : State) (x y : RVal) : Prop := src u (ctxOf b i k) .int w.a.toNat = .ok x ∧
      src u (ctxOf b i k) .int w.b.toNat = .ok y ∧ x.poison = false ∧ y.poison = false ∧ x.bits.toNat < (teamOf u k).desc.bars
    let changed (b : Bundle) (k : Nat) (u : State) (i : Nat) (o : BarObj) :=
      changeBar (giveTo u k (.arrived (keyTeam k) i)) (keyTeam k) i
        { source := 0, core := (groupOf u k).core, asid := (teamOf u k).asid, thread := keyLin k }
        (traceAtThread u k (2 ^ (keyLin k % 32)) b.pc) o
    let old (i : Instr) (b : Bundle) (k : Nat) (u : State) (o : BarObj) := postResult u k (dests (ctxOf b i k) 1) (some [⟨BitVec.ofNat 32 o.phase.toNat, false⟩]) .plain
    let passed (u : State) (k i : Nat) := acquired (takeFrom u k (.completed (keyTeam k) i)) k
    Completes (.bari w) (fun b k u v => ∃ x y, obj (.bari w) b k u x y ∧ 1 ≤ y.bits.toNat ∧ y.bits.toNat < 2 ^ 20 ∧ logBlocked u 1 = false ∧
      let n := x.bits.toNat
      v = wakeWaiters (forget (changed b k (forget u (.completed (keyTeam k) n)) n ⟨false, false, 0, y.bits.toNat, 0, 0⟩) (.arrived (keyTeam k) n))
        (keyTeam k) n false false) ∧
    (∀ (s : State) (b : Bundle) (t : State), Executes s (.barx w) b (fun k u v => ∃ x y, obj (.barx w) b k u x y ∧ logBlocked u 1 = false ∧
        let o := readBar u (keyTeam k) x.bits.toNat
        o.expa ≠ 0 ∧ o.expb + y.bits.toNat < 2 ^ 32 ∧ (w.m = 1 → o.cnta + 1 < 2 ^ 20) ∧
        v = if w.m = 1 then old (.barx w) b k (changed b k u x.bits.toNat { o with expb := o.expb + y.bits.toNat, cnta := o.cnta + 1 }) o
          else changed b k u x.bits.toNat { o with expb := o.expb + y.bits.toNat }) t →
      exec (.barx w) s = .next (past s (.barx w)
        (if w.m = 1 then noteArrive (.barx w) actBarx b (noted s b (.barx w)) (b.rest.getD b.threads) t else t))) ∧
    (∀ (s : State) (b : Bundle) (t : State), Executes s (.bara w) b (fun k u v => ∃ x y, obj (.bara w) b k u x y ∧ logBlocked u 1 = false ∧
        let o := readBar u (keyTeam k) x.bits.toNat
        y.bits.toNat < 2 ^ 20 ∧ o.expa ≠ 0 ∧ o.cnta + y.bits.toNat < 2 ^ 20 ∧
        v = old (.bara w) b k (changed b k u x.bits.toNat { o with cnta := o.cnta + y.bits.toNat }) o) t →
      exec (.bara w) s = .next (past s (.bara w) (noteArrive (.bara w) actBara b (noted s b (.bara w)) (b.rest.getD b.threads) t))) ∧
    Completes (.barw w) (fun b k u v => ∃ x y, obj (.barw w) b k u x y ∧
      let o := readBar u (keyTeam k) x.bits.toNat
      o.expa ≠ 0 ∧
      ((o.phase ≠ y.bits.getLsbD 0 ∧ v = passed u k x.bits.toNat) ∨
       (o.phase = y.bits.getLsbD 0 ∧ ∃ b1, bundleAt u u.focus.1 u.focus.2 = some b1 ∧
        let u1 := modThread (runTrailer u b1 k) k (fun t =>
          { t with wait := .barw x.bits.toNat (y.bits.getLsbD 0), pc := b1.pc, next := some (fallThrough b1), view := none, seq := seqAt b1 b1.pc t, age := 0, overdue := none })
        v = leave u1 u1.focus.1 u1.focus.2 k))) ∧
    Completes (.barwTry w) (fun b k u v => ∃ x y, obj (.barwTry w) b k u x y ∧
      let o := readBar u (keyTeam k) x.bits.toNat
      o.expa ≠ 0 ∧ v = postResult (if o.phase = y.bits.getLsbD 0 then u else passed u k x.bits.toNat) k [w.d.toNat]
        (some [⟨if o.phase = y.bits.getLsbD 0 then 0 else 1, false⟩]) .plain) ∧
    Completes (.bart w) (fun b k u v => ∃ x, src u (ctxOf b (.bart w) k) .int w.a.toNat = .ok x ∧ x.poison = false ∧
      x.bits.toNat < (teamOf u k).desc.bars ∧
      let at_ := scratchSize (teamOf u k).desc - 16 * (teamOf u k).desc.bars + 16 * x.bits.toNat + 4 * w.m.toNat
      v = postResult u k (dests (ctxOf b (.bart w) k) 1) (some [⟨BitVec.ofNat 32 (leAt (teamOf u k).scratch at_ 4), false⟩]) .plain)

/-- R52, R53, R56, R57, R61. Rounding into any format: an exact x within the largest finite magnitude goes to a finite value y of the format
such that no value v of the format is nearer to x, ties going to the even pattern (RN), or to the nearest on the side that the mode names (RZ,
RD, RU). A magnitude beyond the largest finite value overflows: by RN to an infinity from halfway to the next value on, where the format has
one, and else to the largest finite value; by the other modes as they name. An infinity stays one, or becomes the largest finite value in a
format without; a zero keeps its sign; NaN gives the format's canonical NaN; and FZO replaces a subnormal result by a zero of its sign. -/
def Obligations.RoundingResult : Prop :=
  (∀ (f : Fmt) (m : Rm) (neg : Bool) (n d : Nat) (x top : Rat), 0 < d → Says.rat (.fin neg n d) = some x →
    Says.rat (decodeFmt f (Says.patterns f).2.2.1) = some top → -top ≤ x → x ≤ top →
    ∃ y, Says.rat (decodeFmt f (roundTo f false m (.fin neg n d))) = some y ∧
      ∀ (w : Nat) (v : Rat), w < 2 ^ (1 + expBits f + fracBits f) → Says.rat (decodeFmt f w) = some v →
        Says.roundsTo m x y v (roundTo f false m (.fin neg n d) % 2 == 0)) ∧
  (∀ (f : Fmt) (m : Rm) (neg : Bool) (n d : Nat) (x top below : Rat), 0 < d → Says.rat (.fin false n d) = some x →
    Says.rat (decodeFmt f (Says.patterns f).2.2.1) = some top → Says.rat (decodeFmt f ((Says.patterns f).2.2.1 - 1)) = some below → top < x →
    roundTo f false m (.fin neg n d) = Says.beyond f m neg (decide (top + (top - below) / 2 ≤ x))) ∧
  (∀ (f : Fmt) (z : Bool) (m : Rm) (neg : Bool),
    roundTo f z m (.inf neg) = (if neg then (Says.patterns f).1 else 0) + (Says.patterns f).2.2.2 ∧
    (∀ d, roundTo f z m (.fin neg 0 d) = if neg then (Says.patterns f).1 else 0) ∧ roundTo f z m .nan = Says.nanPattern f) ∧
  (∀ (f : Fmt) (m : Rm) (neg : Bool) (n d : Nat), 0 < d →
    let w := roundTo f false m (.fin neg n d)
    let p := Says.patterns f
    roundTo f true m (.fin neg n d) = if w % p.1 < p.2.1 then w / p.1 * p.1 else w)

/-- R189, R196. FADD, FSUB, FMUL, FFMA and FFMA4 complete: the exact result, rounded once by M. PACK2, HADD2, HMUL2 and HFMA2 complete:
each half rounded once to F16. The exact result, FDIV's too, is the rational sum, product or quotient of finite operands, with R189's signs
of zero, and its infinities and NaNs otherwise. -/
def Obligations.FloatArithmeticResult : Prop :=
  (∀ (m : Rm) (x y : Xr) (a b : Rat), Says.rat x = some a → Says.rat y = some b →
    (Says.rat (Xr.add m x y) = some (a + b) ∧
      (a + b = 0 → Says.sign (Xr.add m x y) = if a = 0 ∧ Says.sign x = Says.sign y then Says.sign x else decide (m = .rd))) ∧
    (Says.rat (Xr.mul x y) = some (a * b) ∧ (a * b = 0 → Says.sign (Xr.mul x y) = (Says.sign x != Says.sign y))) ∧
    (b ≠ 0 → Says.rat (Xr.div x y) = some (a / b) ∧ (a = 0 → Says.sign (Xr.div x y) = (Says.sign x != Says.sign y))) ∧
    (b = 0 → Xr.div x y = if a = 0 then .nan else .inf (Says.sign x != Says.sign y))) ∧
  (∀ (m : Rm) (s t : Bool) (x : Xr) (a : Rat), Says.rat x = some a →
    Xr.add m (.inf s) x = .inf s ∧ Xr.add m x (.inf s) = .inf s ∧ Xr.add m (.inf s) (.inf t) = (if s = t then .inf s else .nan) ∧
    Xr.mul (.inf s) x = (if a = 0 then .nan else .inf (s != Says.sign x)) ∧ Xr.mul x (.inf s) = (if a = 0 then .nan else .inf (Says.sign x != s)) ∧
    Xr.mul (.inf s) (.inf t) = .inf (s != t) ∧ Xr.div (.inf s) (.inf t) = .nan ∧ Xr.div (.inf s) x = .inf (s != Says.sign x) ∧
    (Says.rat (Xr.div x (.inf s)) = some 0 ∧ Says.sign (Xr.div x (.inf s)) = (Says.sign x != s))) ∧
  (∀ (m : Rm) (x : Xr), Xr.add m .nan x = .nan ∧ Xr.add m x .nan = .nan ∧ Xr.mul .nan x = .nan ∧ Xr.mul x .nan = .nan ∧ Xr.div .nan x = .nan ∧
    Xr.div x .nan = .nan) ∧
  ((∀ (i : Instr) (f : Rm → Xr → Xr → Xr), Says.float2 i = some f →
    Completes i (fun b k u v => ∃ x y, src u (ctxOf b i k) .f32 (rawOf i).a = .ok x ∧ src u (ctxOf b i k) .f32 (rawOf i).b = .ok y ∧
      let fp := (getThread u k).fpctl
      v = dst u (ctxOf b i k) ⟨Says.outF fp (rmOf (rawOf i).m) (f (rmOf (rawOf i).m) (Says.inF fp x.bits) (Says.inF fp y.bits)), x.poison || y.poison⟩)) ∧
  (∀ w : TForm, Completes (.ffma w) (fun b k u v => ∃ x y z, src u (ctxOf b (.ffma w) k) .f32 w.a.toNat = .ok x ∧
    src u (ctxOf b (.ffma w) k) .f32 w.b.toNat = .ok y ∧ src u (ctxOf b (.ffma w) k) .f32 w.d.toNat = .ok z ∧
    let fp := (getThread u k).fpctl
    v = dst u (ctxOf b (.ffma w) k) ⟨Says.outF fp (rmOf w.m.toNat) (Xr.add (rmOf w.m.toNat) (Xr.mul (Says.inF fp x.bits) (Says.inF fp y.bits)) (Says.inF fp z.bits)),
      x.poison || y.poison || z.poison⟩)) ∧
  (∀ w : XForm, Completes (.ffma4 w) (fun b k u v => ∃ x y z, src u (ctxOf b (.ffma4 w) k) .f32 w.a.toNat = .ok x ∧
    src u (ctxOf b (.ffma4 w) k) .f32 w.b.toNat = .ok y ∧ src u (ctxOf b (.ffma4 w) k) .f32 w.c.toNat = .ok z ∧
    let fp := (getThread u k).fpctl
    v = dst u (ctxOf b (.ffma4 w) k) ⟨Says.outF fp (rmOf w.m.toNat) (Xr.add (rmOf w.m.toNat) (Xr.mul (Says.inF fp x.bits) (Says.inF fp y.bits)) (Says.inF fp z.bits)),
      x.poison || y.poison || z.poison⟩))) ∧
  (∀ w : TForm,
    Completes (.pack2 w) (fun b k u v => ∃ x y, src u (ctxOf b (.pack2 w) k) .f32 w.a.toNat = .ok x ∧ src u (ctxOf b (.pack2 w) k) .f32 w.b.toNat = .ok y ∧
      let fp := (getThread u k).fpctl
      v = dst u (ctxOf b (.pack2 w) k) ⟨Says.halves fp (rmOf w.m.toNat) (Says.inF fp x.bits) (Says.inF fp y.bits), x.poison || y.poison⟩) ∧
    (∀ (i : Instr) (f : Rm → Xr → Xr → Xr), Says.half2 i = some f →
      Completes i (fun b k u v => ∃ x y, src u (ctxOf b i k) .half2 (rawOf i).a = .ok x ∧ src u (ctxOf b i k) .half2 (rawOf i).b = .ok y ∧
        let fp := (getThread u k).fpctl
        let e (h : Nat) := f (rmOf (rawOf i).m) (Says.half fp x.bits h) (Says.half fp y.bits h)
        v = dst u (ctxOf b i k) ⟨Says.halves fp (rmOf (rawOf i).m) (e 0) (e 1), x.poison || y.poison⟩)) ∧
    Completes (.hfma2 w) (fun b k u v => ∃ x y z, src u (ctxOf b (.hfma2 w) k) .half2 w.a.toNat = .ok x ∧
      src u (ctxOf b (.hfma2 w) k) .half2 w.b.toNat = .ok y ∧ src u (ctxOf b (.hfma2 w) k) .half2 w.d.toNat = .ok z ∧
      let fp := (getThread u k).fpctl
      let e (h : Nat) := Xr.add (rmOf w.m.toNat) (Xr.mul (Says.half fp x.bits h) (Says.half fp y.bits h)) (Says.half fp z.bits h)
      v = dst u (ctxOf b (.hfma2 w) k) ⟨Says.halves fp (rmOf w.m.toNat) (e 0) (e 1), x.poison || y.poison || z.poison⟩))

/-- R157, R190 to R193. FMIN and FMAX choose an operand, FABS, FNEG and FCPS change the sign bit alone, FCMP compares, FCLASS names a
class, FRND gives an integral value and FRACT the part above the floor. -/
def Obligations.FloatSelectionResult : Prop :=
  ∀ w : TForm,
    (∀ (i : Instr) (f : Xr → Xr → Xr), Says.floatPick i = some f →
      Completes i (fun b k u v => ∃ x y, src u (ctxOf b i k) .f32 (rawOf i).a = .ok x ∧ src u (ctxOf b i k) .f32 (rawOf i).b = .ok y ∧
        let fp := (getThread u k).fpctl
        v = dst u (ctxOf b i k) ⟨Says.outF fp .rn (f (Says.inF fp x.bits) (Says.inF fp y.bits)), x.poison || y.poison⟩)) ∧
    (∀ (i : Instr) (f : Word → Word), Says.floatBits i = some f →
      Completes i (fun b k u v => ∃ x, src u (ctxOf b i k) .f32 (rawOf i).a = .ok x ∧ v = dst u (ctxOf b i k) ⟨f x.bits, x.poison⟩)) ∧
    Completes (.fcps w) (fun b k u v => ∃ x y, src u (ctxOf b (.fcps w) k) .f32 w.a.toNat = .ok x ∧ src u (ctxOf b (.fcps w) k) .f32 w.b.toNat = .ok y ∧
      v = dst u (ctxOf b (.fcps w) k) ⟨y.bits.extractLsb' 31 1 ++ x.bits.extractLsb' 0 31, x.poison || y.poison⟩) ∧
    Completes (.fcmp w) (fun b k u v => ∃ x y, src u (ctxOf b (.fcmp w) k) .f32 w.a.toNat = .ok x ∧ src u (ctxOf b (.fcmp w) k) .f32 w.b.toNat = .ok y ∧
      let fp := (getThread u k).fpctl
      v = writeP u k (w.d.toNat - 112) ⟨Says.floatTest w.m.toNat (Says.inF fp x.bits) (Says.inF fp y.bits), x.poison || y.poison⟩) ∧
    Completes (.fclass w) (fun b k u v => ∃ x, let f := [Fmt.f32, .f16].getD w.m.toNat .bf16
      srcFmt u (ctxOf b (.fclass w) k) f false w.a.toNat = .ok x ∧
      v = dst u (ctxOf b (.fclass w) k) ⟨1#32 <<< Says.classOf f x.1, x.2⟩) ∧
    Completes (.frnd w) (fun b k u v => ∃ x, src u (ctxOf b (.frnd w) k) .f32 w.a.toNat = .ok x ∧
      let fp := (getThread u k).fpctl
      v = dst u (ctxOf b (.frnd w) k) ⟨Says.outF fp .rn (Says.integral (rmOf w.m.toNat) (Says.inF fp x.bits)), x.poison⟩) ∧
    Completes (.fract w) (fun b k u v => ∃ x, src u (ctxOf b (.fract w) k) .f32 w.a.toNat = .ok x ∧
      let fp := (getThread u k).fpctl
      v = dst u (ctxOf b (.fract w) k) ⟨Says.outF fp .rd (Says.fraction (Says.inF fp x.bits)), x.poison⟩)

/-- R189, R197, R198. FDIV and the special functions complete while fewer than 64 instructions of the picker are in flight at the
special-function unit: their result is pending, delivered in issue order. The special operands of R198's table give its results, and so do
its exact cases. R198 fixes one result for every operand: that EXP2, LOG2, SIN, COS and TANH round the exact value is log entry 9 (DEDUCED,
every operand searched). -/
def Obligations.SpecialFunctionResult : Prop :=
  (∀ w : TForm,
    Completes (.fdiv w) (fun b k u v => ∃ x y, src u (ctxOf b (.fdiv w) k) .f32 w.a.toNat = .ok x ∧ src u (ctxOf b (.fdiv w) k) .f32 w.b.toNat = .ok y ∧
      Says.UnitRoom u k ∧
      let fp := (getThread u k).fpctl
      v = postResult u k (dests (ctxOf b (.fdiv w) k) 1)
        (some [⟨Says.outF fp (rmOf w.m.toNat) (Xr.div (Says.inF fp x.bits) (Says.inF fp y.bits)), x.poison || y.poison⟩]) (.sfu u.clock)) ∧
    (∀ (i : Instr) (f : Rm → Bool → Xr → Word), Says.special i = some f →
      Completes i (fun b k u v => ∃ x, src u (ctxOf b i k) .f32 (rawOf i).a = .ok x ∧ Says.UnitRoom u k ∧
        let fp := (getThread u k).fpctl
        v = postResult u k (dests (ctxOf b i k) 1) (some [⟨f (rmOf (rawOf i).m) (fp.getLsbD 1) (Says.inF fp x.bits), x.poison⟩])
          (.sfu u.clock)))) ∧
  (∀ (i : Instr) (f : Rm → Bool → Xr → Word) (r : Word × Option Word × Word × Word × Word), Says.special i = some f → Says.specialRow i = some r →
    ∀ (m : Rm) (z : Bool),
      f m z .nan = 0x7FC00000#32 ∧ f m z (.inf true) = r.1 ∧ f m z (.inf false) = r.2.2.2.2 ∧
      ∀ d, 0 < d → f m z (.fin true 0 d) = r.2.2.1 ∧ f m z (.fin false 0 d) = r.2.2.2.1 ∧
        ∀ n x, 0 < n → r.2.1 = some x → f m z (.fin true n d) = x) ∧
  (∀ (z : Bool) (neg : Bool) (n d : Nat), 0 < d →
    (9 * d ≤ n → tanhW z (.fin neg n d) = if neg then 0xBF800000#32 else 0x3F800000#32) ∧
    (4096 * n < d → sinW z (.fin neg n d) = BitVec.ofNat 32 (roundTo .f32 z .rn (.fin neg n d))) ∧
    (128 * d ≤ n → exp2W z (.fin false n d) = 0x7F800000#32) ∧ (150 * d < n → exp2W z (.fin true n d) = 0x00000000#32)) ∧
  (∀ (z : Bool) (n : Nat),
    (n ≤ 127 → exp2W z (.fin false n 1) = BitVec.ofNat 32 (roundTo .f32 z .rn (.fin false (2 ^ n) 1)) ∧
      log2W z (.fin false (2 ^ n) 1) = BitVec.ofNat 32 (roundTo .f32 z .rn (.fin false n 1))) ∧
    (n ≤ 149 → exp2W z (.fin true n 1) = BitVec.ofNat 32 (roundTo .f32 z .rn (.fin false 1 (2 ^ n))) ∧
      log2W z (.fin false 1 (2 ^ n)) = BitVec.ofNat 32 (roundTo .f32 z .rn (.fin (decide (0 < n)) n 1))) ∧
    (n ≤ 63 → rsqW z (.fin false (4 ^ n) 1) = BitVec.ofNat 32 (roundTo .f32 z .rn (.fin false 1 (2 ^ n)))) ∧
    (n ≤ 74 → rsqW z (.fin false 1 (4 ^ n)) = BitVec.ofNat 32 (roundTo .f32 z .rn (.fin false (2 ^ n) 1))))

/-- R58, R194, R195. CVT completes: the source read in its type, converted by M into the destination's type. -/
def Obligations.ConversionResult : Prop :=
  ∀ w : XForm, Completes (.cvt w) (fun b k u v => ∃ x, cvtSrc u (ctxOf b (.cvt w) k) (getThread u k).fpctl = .ok x ∧
    let t := w.e.toNat % 16
    let m := rmOf w.m.toNat
    let fp := (getThread u k).fpctl
    let exact : Xr := match x.1 with | .int n => .fin (decide (n < 0)) n.natAbs 1 | .num y => y
    let whole (lo hi : Int) : Int := match x.1 with | .int n => Max.max lo (Min.min hi n) | .num y => toIntSat m lo hi y
    let out : DWord :=
      if t ≤ 4 then BitVec.ofNat 64 (roundTo (cvtFmt t) (fp.getLsbD (2 * t + 1)) m exact)
      else if t = 5 then BitVec.ofNat 64 (toSx8 m exact)
      else if t = 6 then (BitVec.ofInt 8 (whole (-128) 127)).setWidth 64
      else if t = 7 then (BitVec.ofInt 8 (whole 0 255)).setWidth 64
      else if t = 8 then (BitVec.ofInt 32 (whole (-2147483648) 2147483647)).setWidth 64
      else if t = 9 then (BitVec.ofInt 32 (whole 0 4294967295)).setWidth 64
      else if t = 10 then BitVec.ofInt 64 (whole (-9223372036854775808) 9223372036854775807)
      else BitVec.ofInt 64 (whole 0 18446744073709551615)
    v = if 10 ≤ t then dstD u (ctxOf b (.cvt w) k) ⟨out, x.2⟩ else dst u (ctxOf b (.cvt w) k) ⟨out.extractLsb' 0 32, x.2⟩)

/-- R72, R73, R199 to R201. The interval instructions complete: bounds from exact values, rounded outward, an empty operand giving the empty
interval but for XHULL; XSQRT and XRCP leave theirs pending; XCONT writes a predicate. -/
def Obligations.IntervalResult : Prop :=
  ∀ w : TForm,
    (∀ (i : Instr) (f : Ivl → Ivl → Ivl), Says.interval2 i = some f →
      Completes i (fun b k u v => ∃ x y, srcD u (ctxOf b i k) .interval (rawOf i).a = .ok x ∧ srcD u (ctxOf b i k) .interval (rawOf i).b = .ok y ∧
        let p := readIvl x.bits
        let q := readIvl y.bits
        let r := if Xr.lt p.hi p.lo ∨ Xr.lt q.hi q.lo then Ivl.empty else f p q
        v = dstD u (ctxOf b i k) ⟨writeIvl r, x.poison || y.poison⟩)) ∧
    (∀ (i : Instr) (f : Ivl → Ivl), Says.interval1 i = some f →
      Completes i (fun b k u v => ∃ x, srcD u (ctxOf b i k) .interval (rawOf i).a = .ok x ∧
        let p := readIvl x.bits
        v = dstD u (ctxOf b i k) ⟨writeIvl (if Xr.lt p.hi p.lo then Ivl.empty else f p), x.poison⟩)) ∧
    (∀ (i : Instr) (f : Ivl → Ivl), Says.intervalSpecial i = some f →
      Completes i (fun b k u v => ∃ x, srcD u (ctxOf b i k) .interval (rawOf i).a = .ok x ∧
        let p := readIvl x.bits
        let r := writeIvl (if Xr.lt p.hi p.lo then Ivl.empty else f p)
        Says.UnitRoom u k ∧
          v = postResult u k (dests (ctxOf b i k) 2) (some [⟨r.extractLsb' 0 32, x.poison⟩, ⟨r.extractLsb' 32 32, x.poison⟩]) (.sfu u.clock))) ∧
    Completes (.xhull w) (fun b k u v => ∃ x y, srcD u (ctxOf b (.xhull w) k) .interval w.a.toNat = .ok x ∧
      srcD u (ctxOf b (.xhull w) k) .interval w.b.toNat = .ok y ∧
      let p := readIvl x.bits
      let q := readIvl y.bits
      let r : Ivl := if Xr.lt p.hi p.lo then q else if Xr.lt q.hi q.lo then p else ⟨xrMin p.lo q.lo, xrMax p.hi q.hi⟩
      v = dstD u (ctxOf b (.xhull w) k) ⟨writeIvl r, x.poison || y.poison⟩) ∧
    Completes (.xcont w) (fun b k u v => ∃ x, srcD u (ctxOf b (.xcont w) k) .interval w.a.toNat = .ok x ∧
      let p := readIvl x.bits
      let put (r bad : Bool) := writeP u k (w.d.toNat - 112) ⟨r, bad⟩
      (w.m = 0 ∧ v = put (Says.contains 0 p .nan Ivl.all) x.poison) ∨
      (w.m = 1 ∧ ∃ y, src u (ctxOf b (.xcont w) k) .f32 w.b.toNat = .ok y ∧
        v = put (Says.contains 1 p (f32 y.bits) Ivl.all) (x.poison || y.poison)) ∨
      (2 ≤ w.m.toNat ∧ ∃ y, srcD u (ctxOf b (.xcont w) k) .interval w.b.toNat = .ok y ∧
        v = put (Says.contains w.m.toNat p .nan (readIvl y.bits)) (x.poison || y.poison)))

/-- R202, R205, R207 to R215. The collectives complete for every present thread, none for an absent one: GSHF, GBC, GVOTE, GBALL, GRED,
GSCAN, GMATCH, GELECT and GSYNC; every source is read before any destination is written. After GSYNC each of its threads is ordered after all
that any of them was ordered after, its own accesses among it. (Where FZI is set, GRED and GSCAN flush the subnormal intermediate results of
their F32 operations as operands: the model's reading, log entry 24.) -/
def Obligations.CollectiveResult : Prop :=
  ∀ w : TForm,
    let a := w.a.toNat
    let d := w.d.toNat
    let n1 (x : Bool) (bad : Bool) : List RVal := [⟨if x then 1 else 0, bad⟩]
    let live := w.m.getLsbD 0
    CompletesConverged (.gshf w) (fun b k u v => let c := ctxOf b (.gshf w) k
      v = postAll c b.threads 1 (fun j =>
        let i := if w.m = 3 then srcOf u c j w.b.toNat else RVal.zero
        let x := Says.fromThread u c b.threads a d j (Says.shuffleFrom w.m.toNat w.b.toNat (keyLin j % 32) i.bits.toNat)
        [⟨x.bits, x.poison || i.poison⟩]) u) ∧
    CompletesConverged (.gbc w) (fun b k u v => let c := ctxOf b (.gbc w) k
      let i := srcOf u c k w.b.toNat
      let from_ := presentAt c b.threads i.bits.toNat
      v = if w.m = 1 then postAll c b.threads 2 (fun j =>
          let x := match from_ with | some h => srcDOf u c h a | none => srcDOf u c j d
          [⟨x.bits.extractLsb' 0 32, x.poison || i.poison⟩, ⟨x.bits.extractLsb' 32 32, x.poison || i.poison⟩]) u
        else postAll c b.threads 1 (fun j =>
          let x := Says.fromThread u c b.threads a d j i.bits.toNat
          [⟨x.bits, x.poison || i.poison⟩]) u) ∧
    CompletesConverged (.gvote w) (fun b k u v => let c := ctxOf b (.gvote w) k
      let all := (List.range 32).all (fun t => match presentAt c b.threads t with | some j => Says.vote u w j | none => false)
      v = postAll c b.threads 1 (fun _ => n1 (if live then all else b.threads.any (Says.vote u w))
        (b.threads.any (fun j => (readP u j (a - 112)).poison))) u) ∧
    CompletesConverged (.gball w) (fun b k u v => let c := ctxOf b (.gball w) k
      v = postAll c b.threads 1 (fun _ => [⟨Says.maskOf b.threads (fun j => live || Says.vote u w j),
        !live && b.threads.any (fun j => (readP u j (a - 112)).poison)⟩]) u) ∧
    CompletesConverged (.gred w) (fun b k u v => let c := ctxOf b (.gred w) k
      v = postAll c b.threads 1 (fun _ => [(Says.reduced u c b.threads w.m.toNat w.b.toNat (fun _ => true)).getD RVal.zero]) u) ∧
    CompletesConverged (.gscan w) (fun b k u v => let c := ctxOf b (.gscan w) k
      v = postAll c b.threads 1 (fun j =>
        let i := keyLin j % 32
        [(Says.reduced u c b.threads w.m.toNat w.b.toNat (fun t => if w.b.getLsbD 1 then decide (t < i) else decide (t ≤ i))).getD (srcOf u c j d)]) u) ∧
    CompletesConverged (.gmatch w) (fun b k u v => let c := ctxOf b (.gmatch w) k
      let x (j : Nat) : DVal := if w.m = 1 then srcDOf u c j a else ⟨(srcOf u c j a).bits.setWidth 64, (srcOf u c j a).poison⟩
      v = postAll c b.threads 1 (fun j => [⟨Says.maskOf b.threads (fun h => (x h).bits == (x j).bits), b.threads.any (fun h => (x h).poison)⟩]) u) ∧
    CompletesConverged (.gelect w) (fun b k u v => let c := ctxOf b (.gelect w) k
      v = postAll c b.threads 1 (fun j => n1 (b.threads.find? (fun h => live || Says.vote u w h) == some j)
        (!live && b.threads.any (fun h => (readP u h (a - 112)).poison))) u) ∧
    CompletesConverged (.gsync w) (fun b _ u v => v = syncAll u b.threads) ∧
    ∀ (u : State) (ks : List Nat), ∀ k ∈ ks, ∀ j ∈ ks, ∀ a, kget 0 (viewOf u.order j) a ≤ kget 0 (viewOf (syncAll u ks).order k) a

/-- R104, R106, R109, R113 to R118, R436. The launch instructions complete with a result code in D: PNEW writes a new pod, PSET its fields,
PEDGE adds a successor and a join, PARM arms the pod and drops its own join, or completes with BADPOD one that fails the checks; a pod in
the wrong state gives BADSTATE and is unchanged, and a value outside its limits BADVAL. Each atomic step at a pod has its record, and waits for
room in the log (R437); PARM's checks read the pod after what its thread had done. That BADVAL comes after the translation of the pods is log
entry 54 (DESIGN CHOICE).
drop_join: with JOIN 1 at an ARMED pod it becomes READY and enters its queue, a PARM's pod the team's pending entries while one of the
four is free; a higher JOIN falls by one; JOIN 0 is left and counted in LQERR, and a PARM then answers WAITING (log entry 54, DESIGN CHOICE). -/
def Obligations.LaunchResult : Prop :=
  (∀ w : TForm,
    let code (i : Instr) (b : Bundle) (k : Nat) (u : State) (n : Nat) := postResult u k (dests (ctxOf b i k) 1) (some [⟨BitVec.ofNat 32 n, false⟩]) .plain
    let asid (u : State) (k : Nat) := (teamOf u k).asid
    Completes (.pnew w) (fun b k u v => let c := ctxOf b (.pnew w) k
      ∃ x y pa, Says.Pod u c x pa ∧ srcD u c .n64 w.b.toNat = .ok y ∧ y.poison = false ∧
      let u0 := notePod u k x.bits.toNat .rw
      v = if podStatus u0 pa ∈ [1, 2, 3] then code (.pnew w) b k u0 0x10
        else
          let g := findGrid u0 (teamOf u0 k).grid
          code (.pnew w) b k (unitWrite (forget (forget u0 (.pod pa)) (.node pa)) k pa
            (Says.newPod y.bits.toNat w.m.toNat ((g.map (·.cls)).getD 0) ((g.map (·.prio)).getD 0))) 0) ∧
    Completes (.pset w) (fun b k u v => let c := ctxOf b (.pset w) k
      ∃ x y pa, Says.Pod u c x pa ∧ srcD u c .n64 w.b.toNat = .ok y ∧ y.poison = false ∧
      let u0 := notePod u k x.bits.toNat .rw
      ((podStatus u0 pa = 0 ∧ (w.m = 3 → podNsucc u0 pa = 0) ∧ Says.podValueOk w.m.toNat y.bits ∧
          v = code (.pset w) b k ((Says.podFields w.m.toNat y.bits).foldl (fun s f => podPut s k pa f.1 f.2.1 f.2.2) u0) 0) ∨
       ((podStatus u0 pa ≠ 0 ∨ w.m = 3 ∧ podNsucc u0 pa ≠ 0) ∧ v = code (.pset w) b k u0 0x10) ∨
       (podStatus u0 pa = 0 ∧ (w.m = 3 → podNsucc u0 pa = 0) ∧ ¬Says.podValueOk w.m.toNat y.bits ∧ v = code (.pset w) b k u0 0x13))) ∧
    Completes (.pedge w) (fun b k u v => let c := ctxOf b (.pedge w) k
      ∃ x y pa pb, Says.Pod u c x pa ∧ srcD u c .n64 w.b.toNat = .ok y ∧ y.poison = false ∧ threadPod u c y.bits.toNat = .ok pb ∧
        let u0 := notePod (notePod u k x.bits.toNat .rw) k y.bits.toNat .rw
        ((x.bits = y.bits ∧ v = code (.pedge w) b k (notePod u k x.bits.toNat .rw) 0x13) ∨
         (x.bits ≠ y.bits ∧ (podStatus u0 pb ≠ 0 ∨ podJoin u0 pb = 0xFFFFFFFF) ∧ logBlocked u0 1 = false ∧
          v = code (.pedge w) b k (podLog u0 pb) (if podStatus u0 pb ≠ 0 then 0x10 else 0x11)) ∨
         (x.bits ≠ y.bits ∧ podStatus u0 pb = 0 ∧ podJoin u0 pb ≠ 0xFFFFFFFF ∧ logBlocked u0 3 = false ∧ logBlocked u0 2 = false ∧
          let u1 := podLog (podPut (podLog u0 pb) k pb 0x10 4 (podJoin u0 pb + 1)) pa
          let at_ := podSucc u1 pa + 8 * podNsucc u1 pa
          let list := translate u1 (asid u1 k) at_ .w
          ((podStatus u1 pa < 5 ∧ podNsucc u1 pa ≠ podScap u1 pa ∧ ∃ p, list = .ok p ∧ busErr u1 (p.pa at_) = false ∧
              v = code (.pedge w) b k (podPut (unitWrite (notePod u1 k at_ .w) k (p.pa at_) (leBytes 8 y.bits.toNat)) k pa 0x2A 2 (podNsucc u1 pa + 1)) 0) ∨
           (5 ≤ podStatus u1 pa ∧ v = code (.pedge w) b k (dropJoin u1 pb none).1 3) ∨
           (podStatus u1 pa < 5 ∧ podNsucc u1 pa = podScap u1 pa ∧ v = code (.pedge w) b k (dropJoin u1 pb none).1 0x11) ∨
           (podStatus u1 pa < 5 ∧ podNsucc u1 pa ≠ podScap u1 pa ∧ (∀ p, list = .ok p → busErr u1 (p.pa at_) = true) ∧
              v = code (.pedge w) b k (dropJoin u1 pb none).1 0x14))))) ∧
    Completes (.parm w) (fun b k u v => let c := ctxOf b (.parm w) k
      ∃ x y pa, Says.Pod u c x pa ∧ src u c .int w.b.toNat = .ok y ∧ y.poison = false ∧
        ((8 ≤ y.bits.toNat ∧ v = code (.parm w) b k u 0x13) ∨
         (y.bits.toNat < 8 ∧ logBlocked u (if podStatus u pa = 0 then 2 else 1) = false ∧
          let u0 := podLog (notePod (fence u k 1 4) k x.bits.toNat .rw) pa
          let u1 := podSet (podSet (podSet (armAfter u0 k pa) pa 0x15 1 w.m.toNat) pa 0x16 1 y.bits.toNat) pa 0x2E 2 (asid u0 k)
          let r := dropJoin (armPod u1 pa x.bits.toNat (asid u0 k)) pa (some (keyTeam k))
          v = if podStatus u0 pa ≠ 0 then code (.parm w) b k u0 0x10
            else if failsChecks u1 pa false then code (.parm w) b k (complete u1 pa 0x10) 0x12 else code (.parm w) b k r.1 (r.2.getD 2))))) ∧
  (∀ (s : State) (pa : Nat) (by_ : Option Nat),
    let u := podLog s pa
    let j := podJoin u pa
    let u1 := podSet u pa 0x10 4 (j - 1)
    (2 ≤ j → dropJoin s pa by_ = (u1, some 2)) ∧
    (j = 1 → podStatus u1 pa = 1 → dropJoin s pa none = (enqueueTail (podSet u1 pa 0x17 1 2) pa, some 0)) ∧
    (∀ id, j = 1 → podStatus u1 pa = 1 → (getTeam (podSet u1 pa 0x17 1 2) id).pendq.length < 4 →
      dropJoin s pa (some id) = (pend (podSet u1 pa 0x17 1 2) id pa, some 0)) ∧
    (∀ id, j = 1 → podStatus u1 pa = 1 → 4 ≤ (getTeam (podSet u1 pa 0x17 1 2) id).pendq.length →
      dropJoin s pa (some id) = (enqueueTail (podSet u1 pa 0x17 1 2) pa, some 1)) ∧
    (j = 0 → dropJoin s pa by_ = (countLqerr u, none)))

/-- R119, R138, R217, R219, R220, R222. EQP completes where the table of the resident descriptor has its number with this very PC: it is
the thread's most recent equivalence point. MIGR completes for a group with no thread in a handler and every call stack empty, before an
equivalence point: a grant leaves the group standing, its move under way; a refusal leaves p7 false in every thread and the group goes
on. PWAIT completes for a group whose pending results have arrived: a continuation that fails the checks of arming completes with BADPOD
(the model's reading, log entry 34), one whose JOIN was 1 is DONE at once, and the group goes on, in that case after what the pod waited
for; otherwise the group's threads stand after it, and the group is swapped out to its frame. -/
def Obligations.MoveAndWaitResult : Prop :=
  (∀ w : WForm, Completes (.eqp w) (fun b k u v => ∃ e, lookupEqp u k (w.imm.toNat % 4096) = .ok (some e) ∧
    (match b.form with | .d => e.dpc | .l => e.lpc) = b.pc ∧
    v = modThread (noteEqp u k (w.imm.toNat % 4096)) k (fun t => { t with eqp := some { num := e.num, dpc := e.dpc, lpc := e.lpc, cls := b.form } }))) ∧
  (∀ w : TForm, CompletesConverged (.migr w) (fun b k u v => ∃ b1 e pairs,
    (∀ j ∈ b.threads, (getThread u j).intrap = false ∧ (getThread u j).csp.toNat = (teamOf u j).desc.priv) ∧
      bundleAt u u.focus.1 u.focus.2 = some b1 ∧ eqpAt u k b.form (fallThrough b1) = .ok e ∧ mapOf u k e = .ok pairs ∧ logBlocked u 1 = false ∧
      let u1 := noteMap u k e
      let r := requestMove u1 (keyGroup k) e pairs false b1.pc
      v = if (decideMove u1 (keyGroup k)).1 = 1 then standStill r.1 r.1.focus.1 r.1.focus.2 b1
        else b.threads.foldl (fun s j => writeP s j 7 ⟨false, false⟩) r.1)) ∧
  (∀ w : TForm, CompletesConverged (.pwait w) (fun b k u v => let c := ctxOf b (.pwait w) k
    ∃ x pa, Says.Pod u c x pa ∧
      let u0 := notePod u k x.bits.toNat .rw
      let t := teamOf u0 k
      let frame := podField (b.threads.foldl (fun s j => armAfter s j pa) u0) pa 8 8
      podStatus u0 pa = 0 ∧ podKind u0 pa = 1 ∧ frame ≠ 0 ∧ frame % 128 = 0 ∧
      probeWrite u0 t.asid frame (groupImageSize (vregOf t.desc b.form) t.desc.uregs) = none ∧
      logBlocked u0 (if podJoin u0 pa = 1 then 3 else 2) = false ∧
      (∀ j ∈ b.threads, ∀ p ∈ (getThread u0 j).pend, p.value.isSome = true) ∧
      let u1 := podLog (b.threads.foldl (fun s j => armAfter (fence s j 1 4) j pa) (b.threads.foldl (fun s j => deliver s j (fun _ => true)) u0)) pa
      let r := dropJoin (armPod u1 pa x.bits.toNat t.asid) pa none
      if failsChecks u1 pa true then v = complete (podSet u1 pa 0x2E 2 t.asid) pa 0x10
      else if r.2 = some 0 then v = complete (resumeAfter (dequeue r.1 pa) b.threads pa) pa 5
      else ∃ b1, bundleAt r.1 r.1.focus.1 r.1.focus.2 = some b1 ∧
        let there := releaseJoins (b.threads.foldl (fun s j => endUview (arrive s j (fallThrough b1)) (keyGroup j)) r.1) (keyGroup k)
        v = swapOut (setBundle there there.focus.1 there.focus.2 none) (keyGroup k) pa frame t.asid))

/-- R283 to R288, R291, R294 to R296. TIDW checks the image in scratch and writes the entry, clears it for an image that is not valid, or
delivers the check's code and changes no entry; TIDR stores the entry. CPY, CPYG, CPYX and QNT complete when their entries pass the checks
of R283 and the queue of the home engine has room: their issue releases at device scope, and the command is captured at the queue's tail,
its accesses after its thread's. PUB of a valid slot, which releases at system scope, waits for its exchange, its generation pending in D. -/
def Obligations.EngineIssueResult : Prop :=
  (∀ w : XForm,
    let place (i : Instr) (b : Bundle) (k : Nat) (u : State) (x y : RVal) : Prop := src u (ctxOf b i k) .int w.a.toNat = .ok x ∧
      src u (ctxOf b i k) .int w.b.toNat = .ok y ∧ x.poison = false ∧ y.poison = false ∧ x.bits.toNat % 16 = 0 ∧
      x.bits.toNat + 128 ≤ dataSize (teamOf u k).desc ∧ y.bits.toNat < 64
    let code (i : Instr) (b : Bundle) (k : Nat) (u : State) (n : Nat) := postResult u k (dests (ctxOf b i k) 1) (some [⟨BitVec.ofNat 32 n, false⟩]) .plain
    Completes (.tidw w) (fun b k u v => ∃ x y, place (.tidw w) b k u x y ∧
      let rd := scratchRead u k (keyTeam k) x.bits.toNat 128
      let m : KMap Byte := ksetList 0 [] 0 rd.1
      let entry (bs : List Byte) := modTeam rd.2 (keyTeam k) (fun t => { t with tids := ksetList 0 t.tids (128 * y.bits.toNat) bs })
      v = if (tidOf m).valid = false then code (.tidw w) b k (entry (List.replicate 128 0#8)) 0
        else if tidCheck (pubSlots u) m = 0 then code (.tidw w) b k (entry (bytesAt m 0 128)) 0
        else code (.tidw w) b k rd.2 (tidCheck (pubSlots u) m)) ∧
    Completes (.tidr w) (fun b k u v => ∃ x y, place (.tidr w) b k u x y ∧
      v = code (.tidr w) b k (writeAs u k (Says.storeAs .scratch 0 0) (.scratch (keyTeam k) x.bits.toNat)
        (bytesAt (teamOf u k).tids (128 * y.bits.toNat) 128)) 0)) ∧
  ((∀ (i : Instr) (sub : Nat), Says.engineSub i = some sub →
    let r := rawOf i
    Completes i (fun b k u v => let c := ctxOf b i k
      ∃ d x y z,
        let org : Prop := sub = 2 ∧ r.e % 2 = 1
        let usesD : Prop := org ∨ sub = 3 ∨ sub = 4
        let bar : Prop := r.e / 65536 = 1
        Says.Optional usesD u c r.d d ∧ src u c .int r.a = .ok x ∧ x.poison = false ∧ src u c .int r.b = .ok y ∧ y.poison = false ∧
          Says.Optional bar u c r.c z ∧ x.bits.toNat < 64 ∧ y.bits.toNat < 64 ∧
        let t := teamOf u k
        let from_ := entryOf t x.bits.toNat
        let to_ := entryOf t y.bits.toNat
        (tidOf from_).valid = true ∧ (tidOf to_).valid = true ∧
          (usesD → d.bits.toNat % 4 = 0 ∧
            d.bits.toNat + (if org then 32 else 4 * listLen sub (tidOf from_) (tidOf to_)) ≤ dataSize t.desc) ∧
        let rd := if org then scratchRead u k (keyTeam k) d.bits.toNat 32 else ([], u)
        let origin := if org then (List.range 8).map (fun j => leNat ((rd.1.drop (4 * j)).take 4)) else []
        let u1 := rd.2
        engCause u1 (some (keyTeam k)) t.asid sub origin (if bar then some (z.bits.toNat, t.desc.bars) else none) (tidOf from_) (tidOf to_) = none ∧
          roomIn u1 (groupOf u1 k).core (getCore u1 t.home).engq.length 32 = true ∧
        let cmd : EngCmd :=
          { id := u1.fresh, sub := sub, m := r.m, fpctl := (getThread u1 k).fpctl, src := from_, dst := to_, origin := origin,
            list := (true, d.bits.toNat), idx := [], team := some (keyTeam k), pod := none, asid := t.asid,
            bar := if bar then some z.bits.toNat else none, srcBack := srcBacking u1 t.asid (tidOf from_),
            dstBack := dstBacking u1 t.asid (tidOf to_), dstSlot := if (tidOf to_).pub then some (tidOf to_).pslot else none,
            codebook := (getCore u1 t.home).codebook, started := false, landed := 0, counted := 0, stage := [], faulted := false,
            hit := false }
        v = modCore (follow { fence u1 k 1 4 with fresh := u1.fresh + 1 } (commandAgent u1.fresh) k) t.home (fun q => { q with engq := q.engq ++ [cmd] }))) ∧
  (∀ w : XForm, Completes (.pub w) (fun b k u v => let c := ctxOf b (.pub w) k
    ∃ x, src u c .int w.a.toNat = .ok x ∧ x.poison = false ∧
      let t := teamOf u k
      (pubSlot u t.asid x.bits.toNat).isSome = true ∧
      let u1 := postResult (fence u k 1 5) k (dests c 1) none .plain
      v = { giveTo u1 k (.slot x.bits.toNat) with
            fresh := u.fresh + 1,
            pubs := u1.pubs ++ [{ id := u.fresh, core := t.home, slot := x.bits.toNat, asid := t.asid, team := some (keyTeam k),
                                  thread := if w.d = 127 then none else some (k, u.fresh), pod := none }] })))

/-- R305 to R307, R311 to R317. The matrix instructions complete when their operands pass the checks of R305 and the home core's queue has
room and the team has no MXCFG.ACQ, .REL or .RD queued before it: their issue releases at team scope, and the command, with its operands and
the core's codebook, is captured at the queue's tail, its accesses after its thread's; an MXCFG's status is pending in D. An MXLW of CB2
weights whose C is 0 waits for v0, as for any source it names. -/
def Obligations.MatrixIssueResult : Prop :=
  (∀ i : Instr, Says.matrix i = true →
    let r := rawOf i
    Completes i (fun b k u v => let c := ctxOf b i k
      let t := teamOf u k
      let q := getCore u t.home
      let own := decide (q.mxOwner = some (keyTeam k))
      let nb := decide (r.sub = 6 ∧ r.e / 2 ^ 15 % 2 = 1)
      (r.sub = 0 ∨ ∀ e ∈ q.mxq, ¬(e.team = keyTeam k ∧ e.sub = 0 ∧ e.m ≠ 3)) ∧ ∃ d x y z,
        Says.Optional (3 ≤ r.sub) u c r.d d ∧ Says.Optional (r.sub ≠ 2 ∧ ¬(r.sub = 0 ∧ r.m = 2)) u c r.a x ∧
          Says.Optional (r.sub = 1 ∨ (r.sub = 3 ∧ r.m = 0) ∨ r.sub = 4 ∨ (r.sub = 6 ∧ nb = false)) u c r.b y ∧
          Says.Optional ((r.sub = 1 ∧ own = true ∧ cfgW q.mxCfg = 0xA) ∨ r.sub = 3 ∨ r.sub = 4 ∨ r.sub = 6) u c r.c z ∧
        let use := mxUse r.sub r.m nb q.mxCfg d.bits.toNat x.bits.toNat y.bits.toNat z.bits.toNat
        (∀ a ∈ use.addrs ++ use.strides, a % 16 = 0) ∧ (∀ a ∈ use.addrs, a < dataSize t.desc) ∧ mxCause own t r q.mxCfg use = none ∧
          roomIn u (groupOf u k).core q.mxq.length 16 = true ∧
        let cmd : MxCmd :=
          { id := u.fresh, team := keyTeam k, thread := k, tag := u.fresh, sub := r.sub, m := r.m, e := r.e, d := d.bits, a := x.bits,
            b := y.bits, c := z.bits, fpctl := (getThread u k).fpctl, codebook := q.codebook }
        let u1 := if r.sub = 0 then postResult u k (dests c 1) none .plain else u
        v = modCore { follow (fence u1 k 1 2) (commandAgent u.fresh) k with fresh := u.fresh + 1 } t.home (fun x => { x with mxq := x.mxq ++ [cmd] }))) ∧
  (∀ (w : XForm) (u : State) (k : Nat), w.c.toNat = 0 → (getCore u (teamOf u k).home).mxOwner = some (keyTeam k) →
    cfgW (getCore u (teamOf u k).home).mxCfg = 0xA → 0 ∈ touched u k (.mxlw w))

/-- R322, R324, R336, R354, R357. The ray instructions complete when they name one of the team's slots and its queue has room: the command,
with its operand values, FPCTL, MARCHCFG and what its thread's acquires put before it, is captured at the queue's tail, and its quad is
pending in D to D+3; FPRUNE enters the pre-pass queue of the home engine. -/
def Obligations.RayIssueResult : Prop :=
  (∀ (i : Instr) (na nb nc : Nat), Says.rayShape i = some (na, nb, nc) →
    let r := rawOf i
    Completes i (fun b k u v => let c := ctxOf b i k
      ∃ x y z, Says.Group u c r.a False na x ∧ Says.Group u c r.b True nb y ∧ Says.Group u c r.c True nc z ∧
        let bitsOf (l : List RVal) : List Word := l.map (·.bits)
        let ctrl := ((bitsOf z).headD 0).toNat
        let id := keyTeam k
        let slot := slotOfTeam u id (ctrl % 256)
        ctrl % 256 < (teamOf u k).desc.rays ∧
          (r.sub = 1 → r.m = 0 →
            let buffer := ((bitsOf z).getD 1 0).toNat
            buffer % 16 = 0 ∧ buffer + 32 * (ctrl / 2 ^ 24) ≤ dataSize (teamOf u k).desc) ∧
          roomIn u (groupOf u k).core slot.queue.length 4 = true ∧
        let cmd : RayCmd :=
          { thread := k, tag := u.fresh, sub := r.sub, m := r.m, e := r.e, a := bitsOf x,
            b := if r.sub = 6 then [BitVec.ofNat 32 r.b] else bitsOf y, c := bitsOf z, fpctl := (getThread u k).fpctl,
            marchcfg := (getThread u k).marchcfg, after := kget [] u.order.acqView k }
        let u1 := postResult u k (if r.sub = 5 then [] else dests c 4) none .plain
        v = setSlot { u1 with fresh := u.fresh + 1 } id (ctrl % 256) { slot with queue := slot.queue ++ [cmd] })) ∧
  (∀ w : XForm, Completes (.fprune w) (fun b k u v => let c := ctxOf b (.fprune w) k
    ∃ (x y : List RVal) (z : RVal), srcN u c w.a.toNat 8 = .ok x ∧ srcN u c w.b.toNat 2 = .ok y ∧ src u c .int w.c.toNat = .ok z ∧ anyBad x = false ∧
      anyBad y = false ∧ z.poison = false ∧ z.bits.toNat % 16 = 0 ∧
      let t := teamOf u k
      z.bits.toNat + 4096 ≤ dataSize t.desc ∧ roomIn u (groupOf u k).core (getCore u t.home).pruneq.length 8 = true ∧
      let cmd : PruneCmd :=
        { team := keyTeam k, thread := k, tag := u.fresh, box := x.map (·.bits),
          node := ((y.map RVal.bits).getD 0 0).toNat + ((y.map RVal.bits).getD 1 0).toNat * 2 ^ 32, block := z.bits.toNat,
          fpctl := (getThread u k).fpctl, after := kget [] u.order.acqView k }
      let u1 := postResult u k (dests c 4) none .plain
      v = modCore { u1 with fresh := u.fresh + 1 } t.home (fun q => { q with pruneq := q.pruneq ++ [cmd] })))

/-- R358 to R363, R365 to R369. PRIM.TRI of a good descriptor and identifier is routed to the unit of its identifier, and a bad one delivers
its code; PRIM.END of a thread whose PRIMs are delivered raises ENDS, and one with a PRIM open waits; VISW merges a fragment into the
team's own tile, or marks a closed tile LATE and one without room LOST. VISR delivers the entry of the team's own tile and its status word, at once or, without
CLOSED, when the tile closes; ATTR delivers an attribute and its derivatives with the identifier. -/
def Obligations.RasterResult : Prop :=
  ((∀ w : XForm, Completes (.primTri w) (fun b k u v => let c := ctxOf b (.primTri w) k
    ∃ x y, src u c .int w.a.toNat = .ok x ∧ srcD u c .n64 w.b.toNat = .ok y ∧ x.poison = false ∧ y.poison = false ∧
      let r := (readPrim (teamOf u k).asid y.bits.toNat x.bits.toNat).run.run (asAgent u k)
      ((∃ ds ws, r.1 = .ok (0, some (ds, ws)) ∧
          let unit := x.bits.toNat % 4
          let u1 := postResult r.2 k (dests c 1) none .plain
          v = { u1 with
                fresh := r.2.fresh + 1,
                binq := kput u1.binq unit (kget [] u1.binq unit ++
                  [{ asid := (teamOf u k).asid, target := y.bits.toNat, desc := ds, record := ws, ident := x.bits.toNat, thread := k,
                     tag := r.2.fresh }]) }) ∨
       (∃ n, (r.1 = .ok (n, none) ∨ n = 3 ∧ ∃ e, r.1 = .error e) ∧
          v = postResult r.2 k (dests c 1) (some [⟨BitVec.ofNat 32 n, false⟩]) .plain)))) ∧
  (∀ w : XForm, Completes (.primEnd w) (fun b k u v => let c := ctxOf b (.primEnd w) k
    ∃ y d, srcD u c .n64 w.b.toNat = .ok y ∧ y.poison = false ∧
      let r := (readTarget (devicePort (teamOf u k).asid) y.bits.toNat).run.run (asAgent u k)
      r.1 = .ok (some d) ∧
      ((primsOpen r.2 k = false ∧
          let e := raiseEnds r.2 k (teamOf u k).asid y.bits.toNat
          v = postResult e.1 k (dests c 1) (some [⟨BitVec.ofNat 32 e.2, false⟩]) .plain) ∨
       (primsOpen r.2 k = true ∧
          let u1 := postResult r.2 k (dests c 1) none .plain
          v = { u1 with
                fresh := r.2.fresh + 1,
                rasterWaits := u1.rasterWaits ++
                  [{ isEnd := true, thread := k, tag := r.2.fresh, asid := (teamOf u k).asid, target := y.bits.toNat, team := keyTeam k,
                     pixel := 0, pc := b.pc.toNat }] })))) ∧
  (∀ w : XForm, Completes (.visw w) (fun b k u v => let c := ctxOf b (.visw w) k
    ∃ x y z d tile, src u c .int w.a.toNat = .ok x ∧ srcD u c .n64 w.b.toNat = .ok y ∧ srcD u c .n64 w.c.toNat = .ok z ∧
      x.poison = false ∧ y.poison = false ∧ z.poison = false ∧ x.bits.toNat < 1024 ∧
      let t := teamOf u k
      let r := (readTarget (scenePort t.asid) y.bits.toNat).run.run (asAgent u k)
      r.1 = .ok (some d) ∧ tileOf u t d = some tile ∧
      ∃ word, let t1 := teamOf r.2 k
        let cls := teamClass r.2 t1
        tileWord r.2 t1.asid d tile = .ok word ∧
        ((word / 2 ^ 31 % 2 = 1 ∧ markTile r.2 k t1.asid cls d tile (2 ^ 29) = .ok v) ∨
         (word / 2 ^ 31 % 2 = 0 ∧ storeFits t1 d = false ∧ markTile r.2 k t1.asid cls d tile (2 ^ 30) = .ok v) ∨
         (word / 2 ^ 31 % 2 = 0 ∧ storeFits t1 d = true ∧ logBlocked r.2 1 = false ∧
          mergeEntry (noteTile r.2 t1.asid cls d tile) k (keyTeam k) d x.bits.toNat (z.bits.extractLsb' 0 32) (z.bits.extractLsb' 32 32) (logAtThread r.2 k) = some v))))) ∧
  ((∀ w : XForm, Completes (.visr w) (fun b k u v => let c := ctxOf b (.visr w) k
    ∃ x y d tile, src u c .int w.a.toNat = .ok x ∧ srcD u c .n64 w.b.toNat = .ok y ∧ x.poison = false ∧ y.poison = false ∧
      x.bits.toNat < 1024 ∧
      let t := teamOf u k
      let r := (readTarget (scenePort t.asid) y.bits.toNat).run.run (asAgent u k)
      r.1 = .ok (some d) ∧ tileOf u t d = some tile ∧ ∃ word, tileWord r.2 (teamOf r.2 k).asid d tile = .ok word ∧
        (((w.m ≠ 0 ∨ word / 2 ^ 31 % 2 = 1) ∧
            let q := visrResult r.2 k (decide (w.m = 0)) b.pc.toNat d tile x.bits.toNat
            v = postResult q.1 k (dests c 4) (some q.2) .plain) ∨
         (w.m = 0 ∧ word / 2 ^ 31 % 2 = 0 ∧
            let u1 := postResult r.2 k (dests c 4) none .plain
            v = { u1 with
                  fresh := r.2.fresh + 1,
                  rasterWaits := u1.rasterWaits ++
                    [{ isEnd := false, thread := k, tag := r.2.fresh, asid := (teamOf r.2 k).asid, target := d.addr, team := keyTeam k,
                       pixel := x.bits.toNat, pc := b.pc.toNat }] })))) ∧
  (∀ w : XForm, Completes (.attr w) (fun b k u v => let c := ctxOf b (.attr w) k
    ∃ x y z d tile ws, src u c .int w.a.toNat = .ok x ∧ srcD u c .n64 w.b.toNat = .ok y ∧ src u c .int w.c.toNat = .ok z ∧
      x.poison = false ∧ y.poison = false ∧ z.poison = false ∧ x.bits.toNat < 1024 ∧
      let t := teamOf u k
      let r := (readTarget (scenePort t.asid) y.bits.toNat).run.run (asAgent u k)
      r.1 = .ok (some d) ∧ tileOf u t d = some tile ∧
      let q := (attrValues (scenePort t.asid) d tile x.bits.toNat (w.e.toNat % 256) z.bits.toNat).run.run r.2
      q.1 = .ok ws ∧ v = postResult q.2 k (dests c 4) (some ((ws ++ [z.bits]).map (fun x => ⟨x, false⟩))) .plain)) ∧
  -- an entry that can be read
  (∀ (u v : State) (k pc tile pixel word x : Nat) (wait : Bool) (d : Target), storeFits (teamOf u k) d = true →
    tileWord u (teamOf u k).asid d tile = .ok word →
    let u1 := noteTile u (teamOf u k).asid (teamClass u (teamOf u k)) d tile
    readAs (if wait then acquired (takeFrom u1 k (.tile (keyTeam k))) k else u1) k (Says.loadAs .scratch 0 0)
      (.scratch (keyTeam k) (d.stoff + 8 * pixel)) 8 = .ok (x, v) →
    visrResult u k wait pc d tile pixel =
      (v, [⟨BitVec.ofNat 32 x, false⟩, ⟨BitVec.ofNat 32 (x / 2 ^ 32), false⟩, ⟨BitVec.ofNat 32 word, false⟩, ⟨0, false⟩])))

/-- R361. The merge keeps, of an entry and a fragment, the one that comes first: any fragment is better than an empty entry, then a
smaller depth, then a smaller identifier; NaN, negative depths and identifier 0 change nothing; and the order of two merges never
matters. -/
def Obligations.MergeKeepsTheFirst : Prop :=
  (∀ depth ident d n : Word, (n = 0 ∨ d.msb = true ∨ f32Nan d = true) → mergeKey depth ident d n = (depth, ident)) ∧
  (∀ depth d n : Word, n ≠ 0 → d.msb = false → f32Nan d = false → mergeKey depth 0 d n = (d, n)) ∧
  (∀ depth ident d n : Word, n ≠ 0 → ident ≠ 0 → d.msb = false → f32Nan d = false →
    mergeKey depth ident d n = if d < depth ∨ (d = depth ∧ n < ident) then (d, n) else (depth, ident)) ∧
  (∀ depth ident d n e m : Word,
    let a := mergeKey depth ident d n
    let b := mergeKey depth ident e m
    mergeKey a.1 a.2 e m = mergeKey b.1 b.2 d n)

/-- R137 to R140, R144, R226. PICK completes on a picker with no bundle: with no thread overdue, the key taken is one that no ready
thread's key beats; the threads taken have age 0, the ready threads left over grow older, and the bundle enters what stands at their
PC; with no ready thread only the pick is counted, for every group bound to the picker (which picks count, with BUSYPICKS and LOWPICKS, is
the model's reading: log entry 22). A thread is able to be ready only when the words it would enter are in its core's instruction buffer,
which the pick fills for the next (log entry 42). -/
def Obligations.PickResult : Prop :=
  (∀ (s : State) (core picker : Nat), core < 216 → picker < pickersOf (classOfCore core) → bundleAt s core picker = none →
    haltingOn s core = false →
    let gs := groupsOn s core picker
    let ks := bundleOrder s (gs.flatMap (liveOfGroup s))
    let u := ks.foldl endJoin (promoteOverdue s ks)
    let rdy := readyOf u (ks.map (standingOf u))
    let f := (ks.filter (fun k => decide ((getThread u k).wait = .none))).foldl fetchEntry u
    let counted0 := countPick f core (groupsBound f core picker) ks
    (chooseKey f rdy = none →
      exec (.pick core picker) s = .next (modCore counted0 core (fun c => { c with busyPicks := kset 0 c.busyPicks picker 0 }))) ∧
    (∀ x k r, chooseKey f rdy = some x → chooseThreads f rdy x = k :: r → (∀ g, offerOf f core picker (k :: r) g = none) →
      let aged := rdy.foldl (fun s y =>
        modThread s y.k (fun t => if y.k ∈ k :: r then { t with age := 0, overdue := none } else { t with age := t.age + 1 })) counted0
      let left := decide (classOfCore core = .l ∧ (k :: r).length < rdy.length)
      let counted := modCore aged core (fun c =>
        { c with busyPicks := kset 0 c.busyPicks picker (if left then min 256 (kget 0 c.busyPicks picker + 1) else 0) })
      exec (.pick core picker) s = .next (enterBundle
        ((dedup ((k :: r).map keyGroup)).foldl (fun s g => modGroup s g (fun y => { y with declined := false })) counted) core picker k (k :: r)))) ∧
  (∀ (s : State) (rdy : List Standing), (∀ y ∈ rdy, y.overdue = none) →
    (chooseKey s rdy = none → rdy = []) ∧
    (∀ x, chooseKey s rdy = some x → x ∈ rdy ∧ ∀ y ∈ rdy, keyBetter s rdy y x = false)) ∧
  (∀ (s : State) (rdy : List Standing) (x : Standing), (chooseThreads s rdy x).length ≤ 32) ∧
  (∀ (s : State) (k : Nat) (e : Entry), codeEntry s k = .ok e → (standingOf s k).able = true →
    (getThread s k).wait = .none ∧ pendClear s k e = true ∧
      ∀ i, i < e.code.length → (codeLine (getCore s (groupOf s k).core) (teamOf s k).asid
        (baseOf s k (classOf s k) + e.base.toNat + 4 * i)).isSome = true)

/-- R140, R144, R147, R204, R216, R223, R400. Threads of a picker whose age has reached 64 become overdue together; a join wait of 32 picks
ends; a result whose value has come is written, a special-function result not before the earlier ones of its thread and group, and the last
one readies a thread that is entering its handler. A granted move is made once the group's results have come: its live threads stand at the equivalence point
in the target's class and, where the group had asked, p7 is true; a mismatched group, no thread of it in its handler, traps BARERR, every live
thread at the instruction where it is blocked. -/
def Obligations.ThreadEventResult : Prop :=
  ((∀ (s : State) (k : Nat) (t : Thread), kfind s.threads k = some t → 64 ≤ t.age → t.overdue = none → t.exited = false →
    let gs := groupsOn s (getGroup s (keyGroup k)).core (pickerOf s (keyGroup k))
    keyGroup k ∈ gs → k ∈ gs.flatMap (liveOfGroup s) →
    exec (.overdue k) s = .next (((gs.flatMap (liveOfGroup s)).filter (fun j => decide (64 ≤ (getThread s j).age ∧ (getThread s j).overdue = none) &&
        !(getThread s j).exited)).foldl (fun u j => modThread u j (fun t => { t with overdue := some s.fresh })) { s with fresh := s.fresh + 1 })) ∧
  (∀ (s : State) (k n : Nat) (t : Thread), kfind s.threads k = some t → t.wait = .join n → 32 ≤ n →
    exec (.joinWaitTimeout k) s = .next (setThread s k { t with wait := .none, age := 0, overdue := none })) ∧
  (∀ (s : State) (k j : Nat) (t : Thread) (p : Pending), kfind s.threads k = some t → t.pend[j]? = some p → p.value.isSome = true →
    (p.sfuOp.isSome = true → (t.pend.take j).all (fun q => q.sfuOp.isNone) = true) → sfuHeld s k p = false →
    let u := t.deliver (fun q => decide (q.tag = p.tag))
    exec (.resultArrival k j) s = .next (setThread s k (if u.wait = .entering ∧ u.pend = [] then { u with wait := .none } else u)))) ∧
  ((∀ (s : State) (g : Nat) (m : Move), (getGroup s g).moving = some m → (getTeam s (g / 32)).killed = false →
    (∀ k ∈ liveOfGroup s g, ∀ p ∈ (getThread s k).pend, p.value.isSome = true) →
    let home := decide ((getTeam s (g / 32)).home = m.core)
    let moved := (liveOfGroup s g).foldl (fun u k =>
      let v := moveThread (deliver u k (fun _ => true)) k m.pairs m.entry (classOfCore m.core) home
      if m.auto then v else writeP v k 7 ⟨true, false⟩) s
    exec (.groupMove g) s = .next (modGroup moved g (fun x =>
      { x with core := m.core, slot := m.slot, visitBase := if home then 0 else m.vbase, moving := none, lowPicks := 0 }))) ∧
  (∀ (s : State) (g : Nat), (kfind s.groups g).isSome = true → bundleAt s (getGroup s g).core (pickerOf s g) = none →
    g ∈ groupsOn s (getGroup s g).core (pickerOf s g) → (∀ k ∈ liveOfGroup s g, (blockedAt s k).isSome = true) →
    (∀ k ∈ liveOfGroup s g, (getThread s k).intrap = false) →
    (∃ k ∈ liveOfGroup s g, ∃ j ∈ liveOfGroup s g, (blockedAt s j).map (·.1) ≠ (blockedAt s k).map (·.1)) →
    exec (.convergenceMismatch g) s = .next ((liveOfGroup s g).foldl (fun u k =>
      match blockedAt s k with
      | some (_, i, q) => enterTrap u k 0x09 0x10 none
          { pc := i.pc, word := i.words.headD 0, word2 := secondWord i.words, resume := i.pc, seq := q }
      | none => u) s)))

/-- R101, R103, R104, R108, R112, R113, R127, R425, R437, R447, R448. A write of 64 bits at a bound doorbell arms the BUILT pod it names, with
at least the binding's class and priority, after what the companion has written; one at an unbound doorbell, of another width, with a
must-be-zero bit set, of a pod that cannot be read or is not BUILT is counted in DBERR and has no other effect; in RETAIN writes are held, and
a write that the replay log cannot record yet waits; a companion store writes device memory, but for bytes that the launch unit owns. A grid pod completes DONE, KILLED or with the reason its placement stopped, once
nothing of its grid is left, and its successors' joins fall; a popped entry leaves its team's four after 48 cycles; the engines pop SIGNAL
pods, which store their value and complete, and the placement engine takes GRID pods. -/
def Obligations.LaunchEventResult : Prop :=
  ((∀ (s : State) (n width : Nat) (x : DWord), n < 256 → s.booted = true → s.pwrCur ≠ 2 → s.unitWaits = [] →
    let b := (kget 0 s.dbbind n).toNat
    let asid := b % 65536
    let s0 := follow (follow s launchAgent companionAgent) walkAgent companionAgent
    (b < 2 ^ 31 ∨ width ≠ 64 ∨ 2 ^ 52 ≤ x.toNat ∨ x.toNat % 64 ≠ 0 ∨ podPhys s0 asid x.toNat = none ∨
        (∃ pa, podPhys s0 asid x.toNat = some pa ∧ podStatus s0 pa ≠ 0) →
      exec (.doorbell n width x) s = .next { s0 with dberr := if s.dberr = 0xFFFFFFFF#32 then s.dberr else s.dberr + 1 }) ∧
    (∀ pa, 2 ^ 31 ≤ b → x.toNat < 2 ^ 52 → x.toNat % 64 = 0 → podPhys s0 asid x.toNat = some pa → podStatus s0 pa = 0 →
      let cls := max (podClass s0 pa) (b / 2 ^ 19 % 4)
      let s1 := armAfter (podLog (noteUnit s0 asid cls x.toNat .rw) pa) companionAgent pa
      let u := podSet s1 pa 0x15 1 (max (podClass s1 pa) (b / 2 ^ 19 % 4))
      let v := podSet (podSet u pa 0x16 1 (max (podPrio u pa) (b / 2 ^ 16 % 8))) pa 0x2E 2 asid
      exec (.doorbell n 64 x) s = .next
        (if logBlocked s 2 then { s with unitWaits := [.doorbell n 64 x] }
         else if failsChecks v pa false then complete v pa 0x10
         else (dropJoin (armPod v pa x.toNat asid) pa none).1)) ∧
    ((∃ e, translate s asid x.toNat .rw = .error e) ∨
      (∃ p, translate s asid x.toNat .rw = .ok p ∧ (busErr s (p.pa x.toNat) = true ∨ linesBad s.poisonLines (p.pa x.toNat) 64 = true)) →
      podPhys s asid x.toNat = none)) ∧
  (∀ (s : State) (n width : Nat) (x : DWord), n < 256 → s.booted = true → s.pwrCur = 2 →
    exec (.doorbell n width x) s = .next { s with heldDoorbells := s.heldDoorbells ++ [(n + 256 * width, x)] }) ∧
  (∀ (s : State) (a : Nat) (bs : List Byte), s.booted = true → bs ≠ [] → a + bs.length ≤ deviceTop →
    exec (.companionStore a bs) s = .next (storeAt s companionAgent (Says.storeAs .global 0 0) (.phys a) bs))) ∧
  ((∀ (s : State) (pod : Nat) (g : Grid), findGrid s pod = some g → gridOver s g = true → logBlocked s 1 = false →
    let u := complete (giveTo s (drainAgent pod) (.node pod)) pod (if g.killed.isSome then 6 else g.stopped.getD 5)
    exec (.podComplete pod) s = .next
      { u with
        grids := u.grids.filter (fun x => decide (x.pod ≠ pod)), gridHalts := u.gridHalts.filter (fun p => decide (p ≠ pod)), killBusy := u.killBusy.filter (fun p => decide (p ≠ pod)) }) ∧
  (∀ (s : State) (id n : Nat) (t : Team) (p : PendLaunch), kfind s.teams id = some t → t.pendq[n]? = some p → p.popped = true →
    p.since + 48 ≤ s.clock → exec (.pendingEntryRelease id n) s = .next (setTeam s id { t with pendq := t.pendq.eraseIdx n })) ∧
  (∀ (s : State) (pa : Nat) (w : Wrr), s.unitWaits = [] →
    choosePop s 1 (fun p => !(engineCores s).isEmpty || decide (podKind s p = 3)) = some (pa, w) → s.pwrCur ≠ 2 → logBlocked s 1 = false →
    let u := takePod { s with wrrEngine := w } pa
    podKind u pa = 3 → exec (.readyQueuePop true) s = .next
      (complete { u with signals := u.signals ++ [((flightOf u pa).code, BitVec.ofNat 64 (flightOf u pa).frame)] } pa 5)) ∧
  (∀ (s : State) (pa : Nat) (w : Wrr), s.unitWaits = [] → choosePop s 0 (fun pa => !activeFull s || decide (podKind s pa = 1)) = some (pa, w) →
    s.pwrCur ≠ 2 → logBlocked s 1 = false →
    let u := takePod { s with wrrPlace := w } pa
    podKind u pa = 0 → exec (.readyQueuePop false) s = .next (takeGrid u pa)))

/-- R119, R128 to R130, R132, R396, R415, R424. The first grid that can place a team or cluster places it when nothing waiting can be
restored; the first restoration that can be made is made; a team that has ended leaves the machine when its units are done; and once every
team has flushed them the oldest entries of a grid drain, the first so many of them in the order of R396's key, each combined with what
stands at its location by R278's operation. (How many drain before another agent's access comes between is a free choice: R386.) -/
def Obligations.PlacementEventResult : Prop :=
  (∀ (s : State) (pod : Nat) (g : Grid) (ps : List (Nat × Room)), findGrid s pod = some g → s.pwrCur ≠ 2 →
    (∀ x ∈ s.grids.takeWhile (fun x => decide (x.pod ≠ pod)), gridPlan s x = none) → (∀ w ∈ s.waits, contReady s w = none) →
    s.secCount ≤ secverNow s g → gridPlan s g = some ps →
    let s1 := noteUnit s g.asid g.cls (g.desc.addr + 0x1C) .r
    let u := placeTeams g s1.nextTeam g.next ps.length ((List.range ps.length).map (fun i => s.nextTeam + i)) 0 ps s1
    exec (.teamPlacement pod) s = .next (modGrid { u with nextTeam := u.nextTeam + ps.length } pod (fun g => { g with next := g.next + ps.length }))) ∧
  (∀ (s : State) (n pod g : Nat) (t : State), s.waits[n]? = some (.cont pod g) → s.pwrCur ≠ 2 →
    (∀ w ∈ s.waits.take n, contReady s w = none) → tryCont s pod g = some t →
    exec (.contResume n) s = .next { t with waits := t.waits.eraseIdx n }) ∧
  (∀ (s : State) (n id : Nat) (t : State), s.waits[n]? = some (.team id) → s.pwrCur ≠ 2 → (∀ w ∈ s.waits.take n, contReady s w = none) →
    tryTeam s id = some t → exec (.teamRestore n) s = .next t) ∧
  (∀ (s : State) (id : Nat) (t : Team), kfind s.teams id = some t → t.hold = .retiring → unitsEnded s id = true →
    exec (.reclamationComplete id) s = .next (removeTeam (spillPending s id) id)) ∧
  (∀ (s : State) (id : Nat), kfind (removeTeam s id).teams id = none ∧ ∀ k, keyTeam k = id → kfind (removeTeam s id).threads k = none) ∧
  (∀ (s : State) (pod : Nat) (g : Grid) (n : Nat), findGrid s pod = some g → oldestFlush (gridEntries s pod) = some n → gridFlushed s g n = true →
    g.pod = pod → (∀ h ∈ s.grids, (h.va < g.va ∨ (h.va = g.va ∧ h.pod < g.pod)) → drainable s h = none) →
    let all := sortRed ((gridEntries s pod).filter (fun e => decide (e.flush = n)))
    ∃ c f, (all ≠ [] → 1 ≤ c) ∧ c ≤ all.length ∧ exec (.reductionDrain pod) s =
      .next (dropEntries ((all.take c).foldl drainEntry { s with fresh := f }) (fun e => decide (e ∈ all.take c)))) ∧
  (∀ es : List RedEntry, (sortRed es).Perm es ∧ (sortRed es).Pairwise (fun a b => ¬List.Lex (· < ·) (Says.drainKey b) (Says.drainKey a))) ∧
  (∀ (s : State) (e : RedEntry), e.opc ∈ [0x00, 0x01, 0x02, 0x03, 0x04, 0x07, 0x08, 0x09, 0x0C, 0x0D, 0x0F, 0x11] →
    let w := if e.opc = 1 then 8 else 4
    let d := if e.opc = 1 then [Says.reg e.lo, Says.reg e.hi] else [Says.reg e.lo]
    e.pa % w = 0 → touchesOwned s e.pa w = false →
    Says.atomic e.opc e.fpctl (rdMem s e.pa w) d = some (rdMem (drainEntry s e) e.pa w) ∧
      ∀ a, (a < e.pa ∨ e.pa + w ≤ a) → kget 0 (drainEntry s e).mem a = kget 0 s.mem a)

/-- R110, R111, R245 to R248, R250, R252, R260, R262, R417, R431. TLBINV starts and, when every core has answered, drops the translations it
names from every core and last-page register (R257 to R260); MARCFG (R247), L1CFG (R245) and ACCCTL (R262) take their fields, and a reserved
value is ignored, with no more lines and bricks left in a core than its new L1 and brick store hold; the carve-out changes when no team is
resident and no engine command in flight, and the Marrow keeps two ways fewer of each set for each eighth (R247; which lines it keeps is the
model's choice: log entry 42); every device line has one home slice of 54 (R246) and one channel of 24 (R250), and three lines that follow
one another lie in three groups of eight channels; a count that has reached THRESH is recorded and starts again (R262). A write of a
register's own width at its own offset sets its fields: LQWEIGHT, DBERR, LQERR and DBBIND (R111), MCLASS (R248), ASTAB (R252) and RRWATCH
(R431); a write of another width changes nothing (R440); HALTSTAT is cleared by writing a 1 to its top bit (R417); nothing but the management
block takes a write before READY (the model's reading: log entry 46). -/
def Obligations.RegisterEventResult : Prop :=
  ((∀ (s : State) (asid va : Nat), s.booted = true → s.tlbinv = none →
    exec (.tlbinvPage asid va) s = .next { s with tlbinv := some (0, asid % 2 ^ 16, va) } ∧
    exec (.tlbinvAsid asid) s = .next { s with tlbinv := some (1, asid % 2 ^ 16, 0) } ∧
    exec .tlbinvAll s = .next { s with tlbinv := some (2, 0, 0) }) ∧
  (∀ (s : State) (mode asid va : Nat), s.tlbinv = some (mode, asid, va) →
    exec .tlbinvDone s = .next
      { dropTranslations s (if mode = 2 then none else some asid) (if mode = 0 then some va else none) with tlbinv := none }) ∧
  (∀ (s : State) (core asid va : Nat) (need : Need), tlbHit (getCore (dropTranslations s none none) core) asid va need = none ∧
    (getCore (dropTranslations s none none) core).upper = [] ∧ ∀ k, lprHit (getThread (dropTranslations s none none) k).lpr va need = none) ∧
  (∀ (s : State) (x : Word), s.booted = true →
    exec (.marcfgWrite x) s = .next (if x.extractLsb' 0 3 = 7 then s else { s with marcfgReq := (x.extractLsb' 0 3).toNat }) ∧
    exec (.accctlWrite x) s = .next { s with accctl := x &&& 0x8000FFFF#32, accCounts := if x.msb then s.accCounts else [] } ∧
    ∀ core, core < 216 → classOfCore core = .d → x.extractLsb' 0 2 ≠ 3 →
      ∃ t, exec (.l1cfgWrite core x) s = .next t ∧ (∀ j, j ≠ core → getCore t j = getCore s j) ∧ t = { s with cores := t.cores } ∧
        let c := getCore s core
        let d := getCore t core
        let size := (x.extractLsb' 0 2).toNat
        d = { c with l1cfg := size, l1 := d.l1, bricks := d.bricks } ∧ (∀ l ∈ d.l1, l ∈ c.l1) ∧ (∀ e ∈ d.bricks, e ∈ c.bricks) ∧
          128 * d.l1.length + 65536 * size ≤ 256 * 1024 ∧ (d.bricks.map (·.size)).foldl (· + ·) 0 ≤ 65536 * size) ∧
  (∀ s : State, s.marcfgReq ≠ s.marcfgActive → s.teams = [] → enginesIdle s = true →
    let top := s.marcfgReq * 192 * 2 ^ 20
    exec .carveChange s = .next
      { s with
        marcfgActive := s.marcfgReq, carve := s.carve.filter (fun e => decide (e.1 < top)),
        carvePoison := s.carvePoison.filter (fun l => decide (128 * l < top)),
        marrow := s.marrow.map (fun e => (e.1, e.2.take (16 - 2 * s.marcfgReq))),
        order := { s.order with hist := s.order.hist.filter (fun e => decide (e.1 % 3 ≠ 1)) } }) ∧
  (∀ line : Nat, sliceOf line < 54 ∧ sliceOf line / 2 = line % 27 ∧
    (sliceOf line % 2 = 1 ↔ ((List.range 20).map (fun i => line / 2 ^ i % 2)).foldl (· + ·) 0 % 2 = 1) ∧
    channelOf line < 24 ∧ channelOf line / 8 = line % 3 ∧
    channelOf line % 8 = (line % 8) ^^^ (line / 8 % 8) ^^^ (line / 64 % 8) ^^^ (line / 512 % 8)) ∧
  (∀ (s : State) (asid region : Nat), region < 2 ^ 31 →
    let key := asid * 2 ^ 31 + region
    s.accctl.msb = true → s.accctl.toNat % 65536 ≠ 0 → s.accctl.toNat % 65536 ≤ kget 0 s.accCounts key →
    exec (.accessCounterRecord asid region) s = .next (accRecord s key))) ∧
  ((∀ (s : State) (x : DWord), s.booted = true →
    let low := x.extractLsb' 0 32
    exec (.registerWrite 0x000000 32 x) s = .next { s with lqweight := low } ∧
    exec (.registerWrite 0x000004 32 x) s = .next { s with dberr := low } ∧
    exec (.registerWrite 0x000008 32 x) s = .next { s with lqerr := low } ∧
    exec (.registerWrite 0x200028 32 x) s = .next { s with mclass := low } ∧
    exec (.registerWrite 0x200000 64 x) s = .next { s with astab := x &&& 0x00000FFFFFFF0000#64 } ∧
    exec (.registerWrite 0x2000A8 64 x) s = .next { s with rrwatch := x } ∧
    (∀ n, n < 256 → exec (.registerWrite (0x1000 + 4 * n) 32 x) s = .next { s with dbbind := kset 0 s.dbbind n (low &&& 0x801FFFFF#32) }) ∧
    exec (.registerWrite 0x000218 64 x) s = .next (if x.msb then { s with haltstat := 0, haltpc := 0 } else s) ∧
    exec (.registerWrite 0x000000 64 x) s = .next s ∧ exec (.registerWrite 0x200000 32 x) s = .next s) ∧
  (∀ (s : State) (off width : Nat) (x : DWord), s.booted = false → off < 0x400000 → exec (.registerWrite off width x) s = .next s))

/-- R284, R286 to R288, R291, R294, R295, R384. An engine starts the next command of its queue, unless a PUB before it of a slot it names waits
for its exchange, lands its elements one after another, counts the bytes on its barrier, and ends it with the bytes it skipped, its writes
before what its slot and its node release; a PUB's exchange makes the shadow visible, raises the generation and delivers it, its thread
after the writes that filled the shadow, and no core holds a translation in the slot's range. (That a command behind a PUB not yet exchanged
does not start is the model's reading, log entry 50, and so is that the marks of lines a command has written whole end with it, log entry 15.) -/
def Obligations.EngineEventResult : Prop :=
  (∀ (s : State) (core : Nat) (c : EngCmd), nextEng (getCore s core) = some c → pubBefore s c = true →
    exec (.engineCommandStart core) s = .next s) ∧
  (∀ (s : State) (core : Nat) (c : EngCmd), nextEng (getCore s core) = some c → pubBefore s c = false → c.sub ≠ 5 →
    let n := listLen c.sub (tidOf c.src) (tidOf c.dst)
    let l := readList c n s
    exec (.engineCommandStart core) s = .next
      (putEng l.2 core { c with started := true, idx := l.1.map (·.getD 0), faulted := c.faulted || l.1.any (·.isNone) })) ∧
  (∀ (s : State) (core : Nat) (c : EngCmd), nextEng (getCore s core) = some c → pubBefore s c = false → c.sub = 5 →
    let src := tidOf c.src
    let r := stageSource src (volume src.box) s { c with started := true, idx := [] }
    exec (.engineCommandStart core) s = .next (putEng r.1 core r.2)) ∧
  (∀ (s : State) (core id n : Nat) (c : EngCmd), engCmd s core id = some c → c.started = true → ((engArrives s c).isSome = true → logBlocked s 1 = false) →
    let r := engItems n s c
    exec (.engineBytesLand core id n) s = .next
      (engCount (putEng r.1 core { r.2.1 with counted := r.2.1.counted + r.2.2 }) core r.2.1 r.2.2)) ∧
  (∀ (s : State) (core id : Nat) (c : EngCmd), engCmd s core id = some c → c.started = true → c.pod = none →
    ((engArrives s c).isSome = true → logBlocked s 1 = false) →
    let src := tidOf c.src
    let dst := tidOf c.dst
    let r := engItems (workItems c src dst) s c
    let u := engGive (engCount (engClear r.1 r.2.1) core r.2.1 (byteTotal c src dst - r.2.1.counted)) r.2.1
    exec (.engineCommandEnd core id) s = .next (modCore u core (fun q => { q with engq := q.engq.filter (fun x => decide (x.id ≠ id)) }))) ∧
  (∀ (s : State) (core : Nat) (p : PubCmd) (x : PubSlot) (k tag : Nat), s.pubs.find? (fun q => decide (q.id = p.id)) = some p → pubReady s p = true →
    p.pod = none → p.thread = some (k, tag) →
    let u := { s with pubs := s.pubs.filter (fun q => decide (q.id ≠ p.id)) }
    pubSlot u p.asid p.slot = some x →
    let me := commandAgent p.id
    let m := unitWrite (unitWrite u me (x.addr + 0x20) (leBytes 4 ((x.gen + 1) % 2 ^ 32))) me (x.addr + 0x0E)
      [BitVec.ofNat 8 (rdMem u (x.addr + 0x0E) 1 ^^^ 2)]
    let d := dropSlot m p.asid x
    exec (.pubExchange core p.id) s = .next
        (fillResult (acquired (takeFrom d k (.slot p.slot)) k) k tag [⟨BitVec.ofNat 32 (x.gen + 1), false⟩]) ∧
      d = { m with threads := d.threads, cores := d.cores, order := { m.order with walked := m.order.next } } ∧
      (∀ e ∈ d.threads, ∃ t, (e.1, t) ∈ m.threads ∧ (e.2 = t ∨ e.2 = { t with lpr := none })) ∧
      (∀ (c va : Nat) (need : Need), x.va ≤ va → va < x.va + x.size → tlbHit (getCore d c) p.asid va need = none) ∧
      ∀ c l, x.phys0 ≤ 128 * l → 128 * l < x.phys0 + x.size → ¬l ∈ (getCore d c).l1)

/-- R302, R307, R311 to R318. A matrix command executes in its turn, reading scratch as its agent does, leaves the queue and arrives on its
barrier. MXCFG.ACQ takes unowned arrays or delivers why not, .SET changes the word and keeps or zeroes the planes, .REL frees the arrays and
.CBW writes the codebook; MXLW fills the shadow plane and MXSW exchanges the planes; MXST adds its products to the inner accumulators of its
rows by the pairwise tree, k-block by k-block, counts the steps, sets OVF where a sum overflows, and promotes a tile whose count reaches
the period; MXDR writes the elements to scratch, MXZ clears tiles, and MXPR scales and offsets rows. (The FPCTL of a promotion that a shorter
period has made due is a free value: the model's choice, log entry 17.) -/
def Obligations.MatrixEventResult : Prop :=
  (∀ (s : State) (core n : Nat) (c : MxCmd), (getCore s core).mxq[n]? = some c → mxTurn c ((getCore s core).mxq.take n) = true →
    (mxArrives s c = true → logBlocked s 1 = false) →
    let v := modCore (mxRun s core c) core (fun q => { q with mxq := q.mxq.filter (fun x => decide (x.id ≠ c.id)) })
    exec (.matrixCommandExecute core n) s = .next (if mxArrives v c then agentBar v (commandAgent c.id) c.team (c.e % 2 ^ 11) 2 core 1 0 else v)) ∧
  (∀ (s : State) (core : Nat) (c : MxCmd),
    let s0 := takeFrom s (commandAgent c.id) (.matrix c.team)
    let r := scratchFor s0 (commandAgent c.id) c.team
    let u := if c.sub = 4 then mxEffect s0 core c else mxEffect (modTeam r.2 c.team (fun t => { t with scratch := r.1 })) core c
    let v := mxRun s core c
    v.mem = u.mem ∧ v.threads = u.threads ∧ v.cores = u.cores ∧
      getTeam v c.team = { getTeam u c.team with scratch := if c.sub = 4 then (getTeam u c.team).scratch else (getTeam s c.team).scratch }) ∧
  (∀ (s : State) (core : Nat) (c : MxCmd), c.sub = 0 →
    let q := getCore s core
    let out (u : State) (code : Nat) := fillResult u c.thread c.tag [⟨BitVec.ofNat 32 code, false⟩]
    (c.m = 0 → cfgRefused c.a = false → q.mxOwner = none →
      mxEffect s core c = out (modCore s core (fun q => { q with mxOwner := some c.team, mxCfg := c.a, planes := [] })) 0) ∧
    (c.m = 0 → cfgRefused c.a = false → (∃ id, q.mxOwner = some id ∧ id ≠ c.team) → mxEffect s core c = out s 1) ∧
    (c.m ≤ 1 → cfgRefused c.a = true → mxEffect s core c = out s 3) ∧
    (1 ≤ c.m → (c.m = 1 → cfgRefused c.a = false) → q.mxOwner ≠ some c.team → mxEffect s core c = out s 2) ∧
    (c.m ≤ 1 → cfgRefused c.a = false → q.mxOwner = some c.team →
      mxEffect s core c = out (modCore s core (fun q =>
        { q with mxCfg := c.a, planes := if cfgFuse q.mxCfg = cfgFuse c.a ∧ cfgW q.mxCfg = cfgW c.a then q.planes else [] })) 0) ∧
    (c.m = 2 → q.mxOwner = some c.team →
      mxEffect s core c = out (modCore s core (fun q => { q with mxOwner := none, mxCfg := 0, planes := [] })) 0) ∧
    (c.m = 3 → q.mxOwner = some c.team →
      (c.a = 0xFFFFFFFF#32 → mxEffect s core c = out (modCore s core (fun q => { q with codebook := [] })) 0 ∧ ∀ j, codeWord [] j = resetRow j) ∧
      (∀ f : Nat → Nat, c.a ≠ 0xFFFFFFFF#32 → (∀ j, j < 512 → readLoc s (.scratch c.team (c.a.toNat + 4 * j)) 4 = .ok (f j)) →
        ∃ table, mxEffect s core c = out (modCore s core (fun q => { q with codebook := table })) 0 ∧
          ∀ j, j < 512 → codeWord table j = BitVec.ofNat 32 (f j)))) ∧
  -- the planes
  (∀ (s : State) (core : Nat) (c : MxCmd), c.sub = 1 →
    let cfg := (getCore s core).mxCfg
    let planes := (getCore (mxEffect s core c) core).planes
    let at_ (k n : Nat) : Word × Nat := (c.a, k * c.b.toNat + if cfgW cfg = 0xA then 2 * (n / 8) else n * unitOf (cfgW cfg))
    let place (k n : Nat) : Loc := .scratch c.team ((at_ k n).1.toNat + (at_ k n).2)
    (∀ key, key < 4096 → kget Xr.zero planes key = kget Xr.zero (getCore s core).planes key) ∧
    ∀ k n, k < cfgK cfg → n < cfgN cfg →
      let w := kget Xr.zero planes (planeKey cfg 1 (c.e / 2 ^ 14 % 4) k n)
      (cfgW cfg ≠ 0xA → ∀ v, readLoc s (place k n) (unitOf (cfgW cfg)) = .ok v → w = elemValue (cfgW cfg) c.fpctl v) ∧
      (cfgW cfg ≠ 0xA → ∀ e, readLoc s (place k n) (unitOf (cfgW cfg)) = .error e → w = .nan) ∧
      (cfgW cfg = 0xA → ∀ i x, readLoc s (place k n) 2 = .ok i →
        readLoc s (.scratch c.team (c.c.toNat + 2 * (k * (cfgN cfg / 64) + n / 64))) 2 = .ok x →
        w = cb2Decode c.codebook i (readFmt .bf16 (c.fpctl.getLsbD 4) x) (n % 8))) ∧
  (∀ (s : State) (core : Nat) (c : MxCmd) (key : Nat), c.sub = 2 → key < 4096 →
    let old := (getCore s core).planes
    let new := (getCore (mxEffect s core c) core).planes
    kget Xr.zero new key = kget Xr.zero old (key + 4096) ∧ kget Xr.zero new (key + 4096) = kget Xr.zero old key) ∧
  -- a step and a promotion
  (∀ (float : Bool) (ps : List (Xr × Xr)) (z : Nat), ps.length = 32 → (float = true ∨ ∀ p ∈ ps, p.1.isNan = false ∧ p.2.isNan = false) →
    (innerStep float ps z).1 =
      Says.innerSum float z (Says.pairs (Says.innerSum float) 5 (fun j => Says.innerProduct float (ps.getD j (Xr.zero, Xr.zero))))) ∧
  (∀ (float : Bool) (fp : Word) (tile : Nat) (x : Tiles),
    let y := (promoteTile float fp tile x).1
    let t := x.1
    let idle : Prop := kget 0 t.steps tile = 0 ∧ ∀ e, e < 1024 → kget 0 t.inner (1024 * tile + e) = 0
    (idle → y = t) ∧
    (¬idle → kget 0 y.steps tile = 0 ∧ ∀ e, e < 1024 →
      kget 0 y.inner (1024 * tile + e) = 0 ∧
        kget 0 y.acc (1024 * tile + e) = Says.promoted float fp (kget 0 t.acc (1024 * tile + e)) (kget 0 t.inner (1024 * tile + e))) ∧
    ∀ a, (a < 1024 * tile ∨ 1024 * tile + 1024 ≤ a) → kget 0 y.acc a = kget 0 t.acc a ∧ kget 0 y.inner a = kget 0 t.inner a) ∧
  -- MXST
  (∀ (s : State) (core : Nat) (c : MxCmd) (j : Nat), c.sub = 3 → c.m ≠ 1 → c.c.toNat ≤ 32 →
    let cfg := (getCore s core).mxCfg
    let t := getTeam s c.team
    let u := getTeam (mxEffect s core c) c.team
    let nk := cfgK cfg / 32
    let tile := c.d.toNat + j
    let at_ (row col : Nat) : Nat := 1024 * tile + 32 * row + col
    let ps (row col kb : Nat) : List (Xr × Xr) := (List.range 32).map (fun k =>
      (kget Xr.zero (getCore s core).planes (planeKey cfg 0 (c.e / 2 ^ 14 % 4) (32 * kb + k) (32 * j + col)),
        (activation s t c cfg row (32 * kb + k)).1))
    let z (row col kb : Nat) : Word := Says.blocks (cfgFloat cfg) (ps row col) kb (kget 0 t.inner (at_ row col))
    j < cfgN cfg / 32 →
    (kget 0 t.steps tile + nk < cfgPeriod cfg →
      kget 0 u.steps tile = kget 0 t.steps tile + nk ∧
      (∀ e, e < 1024 → kget 0 u.acc (1024 * tile + e) = kget 0 t.acc (1024 * tile + e)) ∧
      ∀ row col, row < 32 → col < 32 → kget 0 u.inner (at_ row col) = if row < c.c.toNat then z row col nk else kget 0 t.inner (at_ row col)) ∧
    (kget 0 t.steps tile + nk = cfgPeriod cfg →
      kget 0 u.steps tile = 0 ∧
      ∀ row col, row < 32 → col < 32 → kget 0 u.inner (at_ row col) = 0 ∧
        kget 0 u.acc (at_ row col) = Says.promoted (cfgFloat cfg) c.fpctl (kget 0 t.acc (at_ row col))
          (if row < c.c.toNat then z row col nk else kget 0 t.inner (at_ row col))) ∧
    (tile < 64 → t.ovf.getLsbD tile = true → u.ovf.getLsbD tile = true) ∧
    (tile < 64 → (∃ row col kb, row < c.c.toNat ∧ col < 32 ∧ kb < nk ∧ kget 0 t.steps tile + nk ≤ cfgPeriod cfg ∧
      0 < (innerStep (cfgFloat cfg) (ps row col kb) (z row col kb).toNat).2) → u.ovf.getLsbD tile = true)) ∧
  -- MXDR, MXZ, MXPR
  (∀ (s : State) (core : Nat) (c : MxCmd) (j row col i : Nat), c.sub = 4 → (∀ n, kfind s.order.hist (3 * n + 2) = none) →
    let unit := [4, 2, 2].getD c.m 1
    let u := getTeam (mxEffect s core c) c.team
    c.a.toNat % 4 = 0 → c.b.toNat % 4 = 0 → 32 * c.c.toNat * unit ≤ c.b.toNat → j < c.c.toNat → row < 32 → col < 32 → i < unit →
    u.acc = (promoteTiles (cfgFloat (getCore s core).mxCfg) c.fpctl c.d.toNat c.c.toNat (getTeam s c.team, 0)).1.acc ∧
    kget 0 u.scratch (c.a.toNat + row * c.b.toNat + (32 * j + col) * unit + i) =
      (Says.drained c.m c.fpctl (rmOf (c.e / 2 ^ 12 % 4)) (kget 0 u.acc (1024 * (c.d.toNat + j) + 32 * row + col))).getD i 0) ∧
  (∀ (s : State) (core : Nat) (c : MxCmd), c.sub = 5 →
    let u := mxEffect s core c
    let t := getTeam u c.team
    u.mem = s.mem ∧ u.cores = s.cores ∧
    (∀ e, c.d.toNat * 1024 ≤ e → e < (c.d.toNat + c.a.toNat) * 1024 → kget 0 t.acc e = 0 ∧ kget 0 t.inner e = 0) ∧
    (∀ e, (e < c.d.toNat * 1024 ∨ (c.d.toNat + c.a.toNat) * 1024 ≤ e) →
      kget 0 t.acc e = kget 0 (getTeam s c.team).acc e ∧ kget 0 t.inner e = kget 0 (getTeam s c.team).inner e) ∧
    (∀ j, j < c.a.toNat → kget 0 t.steps (c.d.toNat + j) = 0) ∧
    ∀ j, j < 64 → t.ovf.getLsbD j = ((getTeam s c.team).ovf.getLsbD j && !decide (c.d.toNat ≤ j ∧ j < c.d.toNat + c.a.toNat))) ∧
  (∀ (s : State) (core : Nat) (c : MxCmd) (f g : Nat → Nat), 6 ≤ c.sub → (∀ row, row < 32 → readLoc s (.scratch c.team (c.a.toNat + 4 * row)) 4 = .ok (f row)) →
    let nb := c.e / 2 ^ 15 % 2
    (nb = 0 → ∀ row, row < 32 → readLoc s (.scratch c.team (c.b.toNat + 4 * row)) 4 = .ok (g row)) →
    let t := (promoteTiles (cfgFloat (getCore s core).mxCfg) c.fpctl c.d.toNat c.c.toNat (getTeam s c.team, 0)).1
    ∀ j row col, j < c.c.toNat → row < 32 → col < 32 →
      let at_ := 1024 * (c.d.toNat + j) + 32 * row + col
      let p := Xr.mul (Says.inF c.fpctl (kget 0 t.acc at_)) (Says.inF c.fpctl (BitVec.ofNat 32 (f row)))
      kget 0 (getTeam (mxEffect s core c) c.team).acc at_ =
        Says.outF c.fpctl (rmOf c.m) (if nb = 1 then p else Xr.add (rmOf c.m) p (Says.inF c.fpctl (BitVec.ofNat 32 (g row))))) ∧
  (∀ (s : State) (team tile : Nat) (t : Team), kfind s.teams team = some t → (getCore s t.home).mxOwner = some team → tile < tileCount t.desc →
    cfgPeriod (getCore s t.home).mxCfg ≤ kget 0 t.steps tile →
    exec (.promote team tile) s = .next (putTiles { s with fresh := s.fresh + 1 } team
      (promoteTile (cfgFloat (getCore s t.home).mxCfg) (Config.count s.fresh) tile (t, 0))))

/-- R322, R324 to R327, R332, R333, R336, R348, R357, R424. A slot's next command starts when it runs none, ordered after its thread's acquires:
RREL empties the slot, RGET delivers four words of the image, read back first where the slot was evicted, a command that the slot's state
does not allow delivers BADSTATE and leaves it, and a TRAV of a ray that can hit nothing delivers MISS at once; the step and work limits,
evictions and FPRUNEs complete, and an FPRUNE of a team that retires writes nothing. -/
def Obligations.RayEventResult : Prop :=
  (∀ (s : State) (id n : Nat) (t : Team) (c : RayCmd) (q : List RayCmd),
    let x := slotOfTeam s id n
    kfind s.teams id = some t → x.stop = none → t.hold ≠ .retiring → x.state ≠ 1 → x.queue = c :: q → waitsForPrune s id c = false →
    let y := { x with queue := q }
    let u := startCall s (slotAgent id n) c.after
    let quad (v : State) (ws : List Word) := fillResult (resultOf v c.thread (slotAgent id n)) c.thread c.tag (ws.map (fun w => ⟨w, false⟩))
    let bad := [statusWord RayCode.badstate 0 0 false, 0, 0, 0]
    (c.sub = 5 → ctrlBad (wAt c.c 0) = false → exec (.rayCommandStart id n) s = .next (setSlot u id n { Slot.initial with queue := q })) ∧
    (∀ (v : State) (z : Slot), c.sub = 6 → ctrlBad (wAt c.c 0) = false → (reload t.asid y).run.run u = (.ok z, v) → v.order.actor = slotAgent id n →
      exec (.rayCommandStart id n) s = .next (quad (setSlot v id n z) (getChunk z c.m (wAt c.b 0).toNat))) ∧
    (c.sub = 6 → ctrlBad (wAt c.c 0) = false → x.evictedAt = none →
      exec (.rayCommandStart id n) s = .next (quad (setSlot u id n y) (getChunk y c.m (wAt c.b 0).toNat))) ∧
    (c.sub ≤ 3 → x.state = 2 → exec (.rayCommandStart id n) s = .next (quad (setSlot u id n y) bad)) ∧
    (c.sub = 4 → x.state ≠ 2 → exec (.rayCommandStart id n) s = .next (quad (setSlot u id n y) bad)) ∧
    (c.sub = 0 → (x.state = 0 ∨ x.state = 3) → ctrlBad (wAt c.c 0) = false → missesAll c.a = true →
      ∃ z, exec (.rayCommandStart id n) s = .next (quad (setSlot u id n z) [0, 0, 0, 0xFFFFFFFF#32]) ∧ z.state = 3 ∧ z.queue = q)) ∧
  (∀ (s : State) (id n cell : Nat) (t d3 : Word) (c : RayCmd),
    let x := slotOfTeam s id n
    x.stop = some (.steps t cell d3) → x.call = some c → x.evictedAt = none →
    ∃ (z : Slot) (ws : List Word), exec (.steplimit id n) s = .next (giveQuad (setSlot (asAgent s (slotAgent id n)) id n z) c ws) ∧
      z.state = 3 ∧ ws.length = 4 ∧ ws.getD 1 0 = t ∧ ws.getD 2 0 = BitVec.ofNat 32 cell) ∧
  (∀ (s : State) (id n : Nat) (t0 t1 : Word) (c : RayCmd) (m : MarchSt),
    let x := slotOfTeam s id n
    x.stop = some (.work t0 t1) → x.call = some c → x.march = some m → x.isMarch = true → x.evictedAt = none →
    ∃ (z : Slot) (ws : List Word), exec (.fwork id n) s = .next (giveQuad (setSlot (asAgent s (slotAgent id n)) id n z) c ws) ∧ z.state = 3 ∧
      ws.length = 4) ∧
  (∀ (s : State) (id n b : Nat) (t : Team),
    let x := slotOfTeam s id n
    kfind s.teams id = some t → t.hold ≠ .retiring → spillBase t n = some b → x.state = 2 → x.evictedAt = none → x.parkedAt + 65536 ≤ s.clock →
    let path := (List.range 4).flatMap (fun i => let a := ((x.lvls[i]?).map Lvl.addr).getD 0; [BitVec.ofNat 32 a, BitVec.ofNat 32 (a / 2 ^ 32)])
    let r := (do
      spillWrite t.asid b ((List.range 32).map x.word)
      spillWrite t.asid (b + 0x80) path
      spillWrite t.asid (entryVa b x.spilled) (x.stack.reverse.flatMap StackEntry.words) : Scan Unit).run.run (asAgent s (slotAgent id n))
    r.1 = .ok () → exec (.slotEvict id n) s = .next (setSlot r.2 id n { x with evictedAt := some b })) ∧
  (∀ (s : State) (core : Nat) (c : PruneCmd) (q : List PruneCmd) (bs : List Byte) (ws : List Word), (getCore s core).pruneq = c :: q →
    let u := modCore s core (fun x => { x with pruneq := q })
    let me := slotAgent c.team 511
    let r := (pruneBlock (getTeam s c.team).asid c).run.run (startCall u me c.after)
    ((getTeam s c.team).hold = .retiring → exec (.fpruneExecute core) s = .next u) ∧
    ((getTeam s c.team).hold ≠ .retiring → r.1 = .ok (bs, ws) → exec (.fpruneExecute core) s = .next
      (fillResult (resultOf (writeAs r.2 me (Says.storeAs .scratch 0 0) (.scratch c.team c.block) bs) c.thread me) c.thread c.tag
        (ws.map (fun w => ⟨w, false⟩)))))

/-- R359, R361 to R364, R384. A binning unit delivers the triangle at its queue's head, to every tile of its target or, where one of them
cannot be reached, to none, with the code 3 (log entry 41), and its PRIM's code. A pixel is covered when its centre lies on the inner side of
all three edges, a centre on an edge counting by the edge's direction, so that an edge taken in the two directions counts oppositely. The
fragments of a tile are merged into its resident owner's store, or binned for one not yet placed, or dropped with LOST or LATE. A bin is
replayed into its resident tile and emptied; a tile whose target has all its ENDS, with its bin empty and its triangles delivered, closes,
which releases every merge into its store and is counted on CBAR, unless CBAR is not below BARS (log entry 41). -/
def Obligations.RasterEventResult : Prop :=
  (∀ (s : State) (unit : Nat) (b : BinItem) (r : List BinItem), kget [] s.binq unit = b :: r → logBlocked s (min (ringCap s.logRing - 1) 1024) = false →
    let u := { s with binq := kset [] s.binq unit r }
    let out (v : State) (code : Nat) :=
      let w := fillResult v b.thread b.tag [⟨BitVec.ofNat 32 code, false⟩]
      settleEnds b.thread w.rasterWaits.length w
    exec (.binTriangle unit) s = .next (match deliverTriangle u b with | .ok v => out v 0 | .error _ => out u 3)) ∧
  (∀ (s v : State) (team target tile word : Nat) (t : Team) (d : Target), kfind s.teams team = some t →
    ((readTarget (scenePort t.asid) target).run.run (asAgent s rasterAgent)).1 = .ok (some d) → tileOf s t d = some tile → ownerOf s t.asid d tile = .resident team →
    tileWord s t.asid d tile = .ok word → word / 2 ^ 31 % 2 = 0 → storeFits t d = true →
    let n := min (word % 65536) d.binCap
    n ≠ 0 → logBlocked s (min (ringCap s.logRing - 1) (1024 * n)) = false →
    setTileWord (replayBin team t.asid d tile 0 n s) rasterAgent t.asid (teamClass s t) d tile (word - word % 65536) = .ok v →
    exec (.binReplay team target) s = .next v) ∧
  (∀ (s u : State) (asid target tile word team : Nat) (d : Target), (asid, target) ∈ s.targets →
    ((readTarget (scenePort asid) target).run.run (asAgent s rasterAgent)).1 = .ok (some d) → tile < d.tw * d.th →
    tileWord s asid d tile = .ok word →
    word / 2 ^ 31 % 2 = 0 → d.nsrc ≤ d.ends → (∀ e ∈ s.binq, ∀ b ∈ e.2, ¬(b.asid = asid ∧ b.target = d.addr)) → word % 65536 = 0 →
    logBlocked s 1 = false → setTileWord s rasterAgent asid (ownerClass s asid d) d tile (word ||| 2 ^ 31) = .ok u →
    (ownerOf s asid d tile = .resident team → ownerOf u asid d tile = .resident team →
      let a := mergesAt (1024 + team)
      let v := giveTo (afterMerges u a false) a (.tile team)
      exec (.tileClose asid target tile) s = .next (wakeVisr (afterMerges
        (if d.barEn = true ∧ d.cbar < (getTeam v team).desc.bars then agentBar v a team d.cbar 5 (getTeam v team).home 1 0 else v) a true)
        asid d tile) ∧
      u.order.next ≤ kget 0 (syncOf v.order (.tile team)) a) ∧
    (ownerOf s asid d tile = .retired → ownerOf u asid d tile = .retired → exec (.tileClose asid target tile) s = .next (wakeVisr u asid d tile))) ∧
  (∀ (s : State) (k part team : Nat) (acc : Acc) (m : Ver), m.merge = true → m.point = 1024 + team →
    m.ev ≤ kget 0 (syncOf s.order (.tile team)) (mergesAt (1024 + team)) → hideable (takeFrom s k (.tile team)) k acc part m = false) ∧
  -- coverage
  (∀ (cull : Bool) (a b c : ScreenVertex) (cx cy : Q), (∀ p ∈ [a, b, c], p.x.den ≠ 0 ∧ p.y.den ≠ 0) → cx.den ≠ 0 → cy.den ≠ 0 →
    let x := Says.ratio cx
    let y := Says.ratio cy
    let u := Says.side a b x y
    let v := Says.side b c x y
    let w := Says.side c a x y
    ((coverDepth cull a b c cx cy).isSome = true ↔
      Says.edge a b (Says.ratio c.x) (Says.ratio c.y) ≠ 0 ∧ ((u = 1 ∧ v = 1 ∧ w = 1) ∨ (u = -1 ∧ v = -1 ∧ w = -1 ∧ cull = false)))) ∧
  (∀ (p q : ScreenVertex) (x y : Rat), ¬(Says.ratio p.x = Says.ratio q.x ∧ Says.ratio p.y = Says.ratio q.y) → Says.side q p x y = -Says.side p q x y) ∧
  -- delivery
  (∀ (s : State) (asid k tile word : Nat) (d : Target) (ident : Word) (fs : List (Nat × Word)), fs ≠ [] → tileWord s asid d tile = .ok word →
    let closed : Prop := word / 2 ^ 31 % 2 = 1
    (closed ∨ ownerOf s asid d tile = .retired →
      deliverTile s asid k d tile ident fs = setTileWord s rasterAgent asid k d tile (word ||| 2 ^ 29)) ∧
    (∀ id, ¬closed → ownerOf s asid d tile = .resident id →
      deliverTile s asid k d tile ident fs =
        if d.stoff + 8192 ≤ dataSize (getTeam s id).desc then .ok (mergeAll id d ident fs (noteTile s asid k d tile))
        else setTileWord s rasterAgent asid k d tile (word ||| 2 ^ 30)) ∧
    (¬closed → ownerOf s asid d tile = .unplaced → deliverTile s asid k d tile ident fs = binAll asid k d tile ident fs.length s) ∧
    ∀ n, binAll asid k d tile ident (n + 1) s = (do
      let u ← if word % 65536 < d.binCap then (do
          let u ← vwrite s rasterAgent asid k (d.bins + 4 * (d.binCap * tile + word % 65536)) (Says.storeAs .global 0 0) (leBytes 4 ident.toNat)
          setTileWord u rasterAgent asid k d tile (word + 1))
        else setTileWord s rasterAgent asid k d tile (word ||| 2 ^ 30)
      binAll asid k d tile ident n u))

/-- R407, R408, R410, R415, R428. While no operation is under way, SAVE and HALT stop the teams that SEL and VALUE select and ask the cores
that hold their groups to halt, and are the operation under way; RESUME releases halted teams, whose threads blocked at a HALT go on, and puts
saved ones in line in the order they were saved. When the cores have finished their bundles they pick again and the teams are halted, which
ends a HALT; a halted team selected by SAVE is saved once nothing of it is under way: its image is in the pool and it leaves the machine, or,
without room, it goes on in place with PARTIAL set. KILLCTL kills the grids it selects, those not yet taken completing at once. -/
def Obligations.PreemptEventResult : Prop :=
  (∀ (s : State) (sel : BitVec 2) (x : BitVec 52), s.booted = true → s.pmt = none →
    let ids := (s.teams.filter (fun e => selects s sel.toNat x.toNat e.1 && !e.2.killed && decide (e.2.hold ≠ .retiring))).map (·.1)
    let running := ids.filter (fun id => decide ((getTeam s id).hold = .none))
    exec (.pmtctlSave sel x) s = .next (beginOp s
      { op := 1, sel := sel.toNat, value := x.toNat, teams := ids, held := ids.filter (fun id => decide ((getTeam s id).hold = .halted)), halted := false,
        fence := none }) ∧
    exec (.pmtctlHalt sel x) s = .next (beginOp s
      { op := 2, sel := sel.toNat, value := x.toNat, teams := running, held := [], halted := false, fence := none }) ∧
    exec (.pmtctlResume sel x) s = .next (resumeTeams s sel.toNat x.toNat)) ∧
  -- what SEL and VALUE select
  (∀ (s : State) (value id : Nat),
    (selects s 1 value id = true ↔ (getTeam s id).asid = value) ∧ (selects s 2 value id = true ↔ teamPodVa s (getTeam s id) = value) ∧
    selects s 3 value id = true ∧ ((getTeam s id).home = value → selects s 0 value id = true) ∧
    ∀ g, g / 32 = id → g % 32 < teamGroups (getTeam s id) → (getGroup s g).core = value → (getGroup s g).swapped = none →
      selects s 0 value id = true) ∧
  -- what SAVE and HALT begin
  (∀ (s : State) (p : PmtOp),
    let t := beginOp s p
    let stop (id : Nat) : Prop := id ∈ p.teams ∧ ¬id ∈ p.held
    t = { s with pmt := some p, pmtPartial := if p.op = 1 then false else s.pmtPartial, teams := t.teams, cores := t.cores } ∧
    (∀ id, stop id → getTeam t id = { getTeam s id with hold := .stopping }) ∧ (∀ id, ¬stop id → getTeam t id = getTeam s id) ∧
    ∀ c, (getCore t c = { getCore s c with halting := (getCore t c).halting }) ∧
      ((getCore t c).halting = true ↔
        (getCore s c).halting = true ∨ ∃ id g, stop id ∧ g ∈ presentGroups s id ∧ (getGroup s g).core = c)) ∧
  -- what RESUME leaves
  (∀ (s : State) (sel value : Nat),
    let t := resumeTeams s sel value
    let ids := (activeTeams s (fun id => selects s sel value id)).filter (fun id => decide ((getTeam s id).hold = .none ∨ (getTeam s id).hold = .halted))
    t.pmt = s.pmt ∧ t.grids = s.grids ∧
    (∀ id, id ∈ ids → getTeam t id = { getTeam s id with hold := .none }) ∧ (∀ id, ¬id ∈ ids → getTeam t id = getTeam s id) ∧
    (∀ id ∈ ids, ∀ k ∈ threadsOfTeam s id, (getThread s k).exited = false → (getThread t k).wait ≠ .halted) ∧
    t.saved = s.saved.map (fun v => if selectsSaved s sel value v then { v with released := true, held := false, halts := [] } else v) ∧
    t.waits = s.waits ++ (s.saved.filter (fun v => selectsSaved s sel value v && !v.released)).map (fun v => .team v.id)) ∧
  -- the halt of an operation whose cores have finished, with no kill to finish and no request that waits
  (∀ (s : State) (p : PmtOp), s.pmt = some p → p.halted = false → stillThere s p = p → (∀ g ∈ s.grids, g.killed = none ∨ g.killDone = true) →
    (∀ c ∈ s.cores, c.2.halting = true → c.2.bundles = []) → (∀ id ∈ p.teams, ∀ g ∈ presentGroups s id, (getGroup s g).moving = none) →
    s.ckptWait = false → s.haltWaits = [] → (∀ c ∈ s.cores, c.2.fencing = false) → p.fence = none →
    ∃ t, exec .coreHalt s = .next t ∧ (∀ id ∈ p.teams, getTeam t id = { getTeam s id with hold := .halted }) ∧
      (∀ id, ¬id ∈ p.teams → getTeam t id = getTeam s id) ∧ (∀ c, getCore t c = { getCore s c with halting := false }) ∧
      (p.op = 1 → p.teams ≠ [] → t.pmt = some { p with halted := true }) ∧ (p.op = 2 ∨ p.teams = [] → t.pmt = none) ∧
      t = { s with teams := t.teams, cores := t.cores, pmt := t.pmt, gridHalts := t.gridHalts } ∧
      ∀ pod, pod ∈ t.gridHalts ↔ pod ∈ s.gridHalts ∨ (p.op = 2 ∧ p.sel = 2 ∧ ∃ g ∈ s.grids, g.pod = pod ∧ g.va = p.value)) ∧
  (∀ (s : State) (p : PmtOp), (finishKills s).pmt = some p → p.halted = false →
    let u := finishKills s
    let q := stillThere u p
    coresQuiet u q = true →
    let h := q.teams.foldl (fun s id => modTeam s id (fun t => { t with hold := .halted }))
      { u with cores := u.cores.map (fun c => (c.1, { c.2 with halting := false })) }
    let v := { h with gridHalts := h.gridHalts ++ haltedGrids h q }
    exec .coreHalt s = .next (if p.op = 2 ∨ q.teams = [] then finishOp v q else { v with pmt := some { q with halted := true } })) ∧
  (∀ (s : State) (p : PmtOp) (id : Nat), s.pmt = some p → p.op = 1 → p.halted = true → id ∈ (stillThere s p).teams →
    exec (.teamSave id) s = .next (saveTeam s (stillThere s p) id)) ∧
  (∀ (s : State) (p : PmtOp) (id : Nat),
    (saveReady s id = false → saveTeam s p id = s) ∧
    (∀ u, saveReady s id = true → stopCalls s id = some u →
      let v := (presentGroups u id).foldl deliverSaved u
      let img := teamImage v id
      let q := { p with teams := p.teams.filter (fun x => decide (x ≠ id)) }
      let onward (w : State) : State := if q.teams = [] then finishOp w q else { w with pmt := some q }
      (poolFit v img.length = none → saveTeam s p id = onward (resumeInPlace v p id)) ∧
      (∀ off, poolFit v img.length = some off →
        let pa := poolBase v + off
        (busErr v pa = true ∨ busErr v (pa + img.length - 1) = true ∨ linesBad v.poisonLines pa img.length = true →
          saveTeam s p id = onward (resumeInPlace v p id)) ∧
        (busErr v pa = false → busErr v (pa + img.length - 1) = false → linesBad v.poisonLines pa img.length = false →
          saveTeam s p id = onward (storeTeam v p id off img))))) ∧
  (∀ (s : State) (p : PmtOp) (id : Nat),
    (resumeInPlace s p id).pmtPartial = true ∧
    (getTeam (resumeInPlace s p id) id).hold = if id ∈ p.held then (getTeam s id).hold else .none) ∧
  (∀ (s : State) (p : PmtOp) (id off : Nat) (img : List Byte),
    let t := storeTeam s p id off img
    kfind t.teams id = none ∧ (∀ g ∈ presentGroups s id, kfind t.groups g = none) ∧
      (∃ sv, t.saved = s.saved ++ [sv] ∧ sv.id = id ∧ sv.off = off ∧ sv.size = img.length ∧ sv.released = p.fence.isSome) ∧
      ∀ j, j < img.length → kget 0 t.mem (poolBase s + off + j) = img.getD j 0) ∧
  (∀ (s : State) (sel : BitVec 2) (x : BitVec 52), s.booted = true → s.killBusy = [] →
    exec (.killCommand sel x) s = .next (killSelected s sel.toNat x.toNat)) ∧
  -- KILLCTL, where it selects grids alone, and where it selects one pod that has not been taken
  (∀ (s : State) (sel : BitVec 2) (x : BitVec 52), s.booted = true → s.killBusy = [] → (s.grids.map (·.pod)).Nodup →
    let picks (g : Grid) : Prop := Says.killPicks sel.toNat x.toNat g.asid g.va ∨
      (sel = 0 ∧ ∃ e ∈ s.teams, e.2.grid = g.pod ∧ selects s 0 x.toNat e.1 = true)
    let waiting (e : Nat × Flight) : Prop := Says.killPicks sel.toNat x.toNat e.2.asid e.2.va ∧ podKind s e.1 = 0 ∧
      (podStatus s e.1 = 1 ∨ podStatus s e.1 = 2) ∧ findGrid s e.1 = none
    ((∀ e ∈ s.flight, ¬waiting e) → ∃ t, exec (.killCommand sel x) s = .next t ∧
      t = { s with grids := t.grids, teams := t.teams, killBusy := t.killBusy } ∧
      (∀ g ∈ s.grids, picks g → { g with killed := some (match g.killed with | none => (5, 0) | some (c, n) => (c, n + 1)) } ∈ t.grids ∧ g.pod ∈ t.killBusy) ∧
      (∀ g ∈ s.grids, ¬picks g → g ∈ t.grids ∧ ¬g.pod ∈ t.killBusy) ∧ t.grids.map (·.pod) = s.grids.map (·.pod) ∧
      (∀ id, (∃ g ∈ s.grids, picks g ∧ (getTeam s id).grid = g.pod) → (kfind s.teams id).isSome = true → (getTeam t id).killed = true) ∧
      ∀ id, (∀ g ∈ s.grids, picks g → (getTeam s id).grid ≠ g.pod) → getTeam t id = getTeam s id) ∧
    (∀ e, s.flight = [e] → waiting e → (∀ g ∈ s.grids, ¬picks g) → s.unitWaits = [] → logBlocked s 1 = false →
      let u := popEntries (dequeue { s with killBusy := [e.1] } e.1) (fun _ p => decide (p.pod = e.1))
      let v := { u with killBusy := [] }
      exec (.killCommand sel x) s = .next (complete (writeKill v (noPlace e.2.asid) 5 0 e.2.va) e.1 6))) ∧
  (∀ (s : State) (pod cause : Nat) (g : Grid), g ∈ (markKilled s pod cause).grids → g.pod = pod → g.killed.isSome = true)

/-- R241, R310, R419, R421, R422. A hardware error is recorded and, when uncorrected, acts at its place: a line, scratch word or register is
marked poisoned; an accumulator element takes the error's value, recorded in MXSTAT, and an integer one sets OVF; an error in state kills the
teams whose state it holds, and in a reduction buffer the grids with entries there; a clean copy loses nothing. A self-test that finds the
error transient returns the structure to use, and one that finds it lasting sets out to fence the core. -/
def Obligations.ErrorEventResult : Prop :=
  (∀ (s : State) (e : HwError), s.booted = true →
    let x : Seen := { clock := s.clock, core := placeCore s e.place, error := e, lasting := false }
    let u := errRecord 0 s x
    let v := { u with errors := u.errors ++ [x] }
    let w := if errClass v e = 0 then v else errorEffect e.place v
    exec (.hardwareError e) s = .next (match placeCore s e.place with
      | some c => if testDue v x then modCore w c (fun y => { y with testing := true }) else w
      | none => w)) ∧
  (∀ (s : State) (l : Nat), 128 * l < deviceTop →
    l ∈ (errorEffect (.deviceLine l) s).poisonLines ∧ l ∈ (errorEffect (.marrowLine l) s).poisonLines) ∧
  (∀ (s : State) (l : Nat), 128 * l < carveBytes s → l ∈ (errorEffect (.carveLine l) s).carvePoison) ∧
  (∀ (s : State) (k code : Nat), (kfind s.threads k).isSome = true → code < 64 →
    (kget RVal.zero (getThread (errorEffect (.threadRegister k code) s) k).regs.v code).poison = true) ∧
  (∀ (s : State) (k code : Nat), (kfind s.threads k).isSome = true → 64 ≤ code → code < 80 → (kfind (getThread s k).regs.x code).isSome = true →
    (kget RVal.zero (getThread (errorEffect (.threadRegister k code) s) k).regs.x code).poison = true) ∧
  (∀ (s : State) (g n : Nat), (kfind s.groups g).isSome = true → n < (getTeam s (g / 32)).desc.uregs →
    (kget RVal.zero (getGroup (errorEffect (.uniformRegister g n) s) g).uregs n).poison = true) ∧
  (∀ (s : State) (team word : Nat) (t : Team), kfind s.teams team = some t → 4 * word < scratchSize t.desc →
    let u := errorEffect (.scratchWord team word) s
    (4 * word < dataSize t.desc → word ∈ (getTeam u team).badWords) ∧
    (dataSize t.desc ≤ 4 * word → (getTeam u team).killed = true ∧ ∀ g ∈ u.grids, g.pod = t.grid → g.killed.isSome = true)) ∧
  (∀ (s : State) (team e : Nat) (inner : Bool) (t : Team), kfind s.teams team = some t → e < 1024 * tileCount t.desc →
    let u := getTeam (errorEffect (if inner then .innerElement team e else .accElement team e) s) team
    let float := cfgFloat (getCore s t.home).mxCfg
    kget 0 u.acc e = (if float then 0x7FC00001#32 else 0x80000000#32) ∧ u.mxstat.msb = true ∧
      (float = false → e < 65536 → u.ovf.getLsbD (e / 1024) = true)) ∧
  (∀ (s : State) (core : Nat) (a : StateArray) (ids : List Nat),
    let u := errorEffect (.stateStructure core a ids) s
    (∀ id ∈ ids, (kfind s.teams id).isSome = true → (getTeam u id).killed = true ∧ ∀ g ∈ u.grids, g.pod = (getTeam s id).grid → g.killed.isSome = true) ∧
    (a = .codebook → (getCore u core).codebook = []) ∧ (a = .planes → (getCore u core).planes = [])) ∧
  (∀ (s : State) (core picker : Nat),
    let u := errorEffect (.redBuffer core picker) s
    kget [] (getCore u core).redbuf picker = [] ∧
      ∀ e ∈ kget [] (getCore s core).redbuf picker, ∀ g ∈ u.grids, g.pod = e.grid → g.killed.isSome = true) ∧
  (∀ (s : State) (core : Nat), errorEffect (.cleanCopy core) s = s ∧ errorEffect (.other core) s = s) ∧
  (∀ (s : State) (x : Seen) (core : Nat), s.errors.find? (fun y => decide (y.error.place = x.error.place) && !y.lasting && testDue s y) = some x →
    x.core = some core →
    let done := errRecord 1 s x
    let left := done.errors.filter (fun y => !sameStructure x y)
    exec (.selfTest x.error.place .transient) s = .next (modCore { done with errors := left } core (fun y =>
      { y with testing := left.any (fun z => decide (z.core = some core) && testDue { done with errors := left } z) }))) ∧
  (∀ (s : State) (x : Seen) (core : Nat), s.errors.find? (fun y => decide (y.error.place = x.error.place) && !y.lasting && testDue s y) = some x →
    x.core = some core →
    let done := errRecord 2 s x
    let u := { done with errors := done.errors.filter (fun y => !sameStructure x y) ++ [{ x with lasting := true }] }
    (getCore u core).fenced = false →
    exec (.selfTest x.error.place .lasting) s = .next (nextRequest (modCore u core (fun y => { y with fencing := true }))))

/-- R18, R251, R435, R446 to R449. Between RUN and IDLE a power request takes effect at once, and RETAIN waits for its conditions; the doorbells
held in RETAIN are delivered at the return to RUN, in order; SECADV with the key advances COUNT to at most 64; a checkpoint copies device
memory and the carve-out, and one that fails a prefix of them (how much is a free choice of the model: log entry 26); bring-up clears device
memory and starts the clock at 0; the counters of the live cores are sampled at each tick, and cleared. -/
def Obligations.PartEventResult : Prop :=
  (∀ s : State, s.pwrCur < 2 → partBusy s = false →
    exec .pwrctlRun s = .next (if s.pwrCur = 0 then { s with pwrReq := 0 } else releaseDoorbells { s with pwrReq := 0, pwrCur := 0 }) ∧
    exec .pwrctlIdle s = .next { s with pwrReq := 1, pwrCur := 1 } ∧
    exec .pwrctlRetain s = .next { s with pwrReq := 2 }) ∧
  (∀ s : State, s.pwrCur = 2 → partBusy s = false →
    (s.pwrReq = 0 → exec .powerStateChange s = .next (releaseDoorbells { s with pwrCur := 0 })) ∧
    (s.pwrReq = 1 → exec .powerStateChange s = .next { s with pwrCur := 1 })) ∧
  (∀ (s : State) (n width : Nat) (x : DWord) (r : List (Nat × DWord)), n < 256 → s.heldDoorbells = (n + 256 * width, x) :: r →
    releaseDoorbells s = r.foldl (fun s d => unitTake (.doorbell (d.1 % 256) (d.1 / 256) d.2) s)
      (unitTake (.doorbell n width x) { s with heldDoorbells := [] })) ∧
  (∀ s : State, s.pwrReq = 2 → s.pwrCur < 2 → partBusy s = false → s.teams = [] → enginesIdle s = true →
    exec .powerStateChange s = .next { s with pwrCur := 2 }) ∧
  (∀ s : State, s.secCount ≤ 64 → ∃ n, exec (.secadv 0x5EC00001#32) s = .next { s with secCount := n } ∧ n = min 64 (s.secCount + 1)) ∧
  (∀ (s : State) (key : Word), key ≠ 0x5EC00001#32 → exec (.secadv key) s = .next s) ∧
  (∀ (s : State) (x : DWord), x.msb = true → s.booted = true → s.ckptBusy = false →
    let base := (x.extractLsb' 12 32).toNat * 4096
    isCompanion base = true → isCompanion (base + ckptBytes s - 1) = true →
    exec (.ckptctlGo x) s = .next (nextRequest { s with ckptBusy := true, ckptErr := false, ckptBase := base, ckptWait := true })) ∧
  (∀ s : State, s.ckptBusy = true → s.ckptWait = false → s.pmt = none →
    exec (.checkpointEnd false) s = .next { copyOut (ckptBytes s) s with ckptBusy := false } ∧
    exec (.checkpointEnd true) s = .next
      { copyOut (Config.choice s.fresh % ckptBytes s) { s with fresh := s.fresh + 1 } with ckptBusy := false, ckptErr := true }) ∧
  (∀ (s : State) (b : Boot), s.booted = false → s.fwBad = false →
    (b.firmware < s.secCount → exec (.bringUp b) s = .next { s with fwBad := true }) ∧
    (s.secCount ≤ b.firmware → ∃ t, exec (.bringUp b) s = .next t ∧ t.booted = true ∧ t.clock = 0 ∧ t.carve = [] ∧ t.poisonLines = [] ∧
      t.unfitted = b.unfitted ∧ (∀ p, p ∈ t.peerUp ↔ p ∈ b.peers ∧ p < 8) ∧ t.order = Order.initial ∧ (∀ a, a < deviceTop → rdMem t a 1 = 0) ∧ (∀ c ∈ b.failing, c < 216 → (getCore t c).fenced = true))) ∧
  (∀ s : State, s.booted = true → samplePeriod s.rlmode ≠ 0 → s.nextTick ≤ s.clock →
    exec .counterSample s = .next
      { (List.range 216).foldl (sampleCore s.nextTick) s with nextTick := s.nextTick + samplePeriod s.rlmode }) ∧
  (∀ (s : State) (at_ core : Nat),
    ((getCore s core).fenced = true → sampleCore at_ s core = s) ∧
    ((getCore s core).fenced = false → (getCore (sampleCore at_ s core) core).counters = [] ∧
      ∀ j, j ≠ core → getCore (sampleCore at_ s core) j = getCore s j))


/-- R22 to R24, R27. Decoding the bytes of a well-formed instruction gives the instruction and the bytes after it, whatever follows; and the
bytes that decode to an instruction are those the encoder writes for it: no bit of a word is dropped. -/
def Obligations.DecodeUndoesEncode : Prop :=
  (∀ (f : Form) (i : Instr) (rest : List Word), wellFormed f i = true → isEvent i = false →
    decode (bytesOf (encode i ++ rest)) = .ok (i, bytesOf rest)) ∧
  (∀ (ws rest : List Word) (i : Instr), decodeWords ws = .ok (i, rest) → encode i ++ rest = ws)

/-- R22 to R28. Words that the chapters write out, one or two of each family, decode to the instructions they stand for: MOVI v1, 10; the
I-format ADD v1, v1, −1; the uniform ADD g40, g40, 1 with its literal; CMP.GT p1, v1, 0; BRP p1; RUNH of three words with x0; FMUL to a
temporary; XADD with a literal; LDG.B32 v3; ATG.CAS.B64.AR.DEV v8; FENCE.REL.DEV; GRED.ADD.F32 v5, v4; EQP 3; CPY with an origin and a
barrier; MXST v6; MLOC v16; VISW; BARX.ARR v7; HALT 5. -/
def Obligations.SpecWordsDecode : Prop :=
  let is (ws : List Word) (i : Instr) : Prop := decodeWords ws = .ok (i, [])
  is [0x0F01000A] (.movi ⟨false, 1, 10, none⟩) ∧ is [0x108103FF] (.addI ⟨false, 1, 1, 0x1FF, none⟩) ∧
    is [0x78285000, 0x00000001, 0x00000001] (.uniformPipeOp 0 ⟨false, 40, 40, 0, 0, 0, 1, some 1⟩) ∧
    is [0x78F103C0, 0x00000004] (.cmp ⟨false, 113, 1, 112, 0, 0, 4, none⟩) ∧ is [0x2297FFFB] (.brp ⟨false, 1, false, 0x7FFFB⟩) ∧
    is [0x700C0001] (.runh ⟨false, 3, 0, 1⟩) ∧ is [0x31400208] (.fmul ⟨false, 64, 1, 2, 0, none⟩) ∧
    is [0x3D0609FC, 0x30800000] (.xadd ⟨false, 6, 4, 127, 0, some 0x30800000⟩) ∧ is [0x53030900] (.ldg ⟨false, 3, 4, 64, 0, none⟩) ∧
    is [0x5788096B] (.atg ⟨false, 8, 4, 90, 3, none⟩) ∧ is [0x59000021] (.fence ⟨false, 0, 0, 8, 1, none⟩) ∧
    is [0x4A050820] (.gred ⟨false, 5, 4, 8, 0, none⟩) ∧ is [0x62800003] (.eqp ⟨false, 0, 3, none⟩) ∧
    is [0x79820610, 0x020B0001] (.cpy ⟨false, 2, 3, 4, 0, 5, 0x10001, none⟩) ∧
    is [0x7A060814, 0x030F0003] (.mxst ⟨false, 6, 4, 5, 0, 7, 0x10003, none⟩) ∧
    is [0x7A901010, 0x020C0000] (.mloc ⟨false, 16, 8, 4, 0, 6, 0, none⟩) ∧
    is [0x7B000818, 0x01100000] (.visw ⟨false, 0, 4, 6, 0, 8, 0, none⟩) ∧ is [0x60870819] (.barx ⟨false, 7, 4, 6, 1, none⟩) ∧
    is [0x6980FE00, 0x00000005] (.halt ⟨false, 0, 127, 0, 0, some 5⟩)

/-- R148, R149, R281, R37, R41. When the agenda's next turn issues, the words of the picker's bundle at its PC decode to instruction i, and
its co-issue set has begun, step is exec of i with that bundle in focus; on a D-form bundle nothing but the tick comes before. When it
names an event, step is exec of the event. The members of a co-issue set are executed in one step, the first of them first (R150). A tick moves the clock on and, while the counters are sampled, counts its cycles and samples
them at each tick it passes, and changes nothing else of the teams. A bundle that enters a run holds the words that its first thread's code
has at the RUNH, and begins there. -/
def Obligations.StepRunsTheDecodedInstruction : Prop :=
  (∀ (s u : State) (rest : List Turn) (core picker : Nat) (b : Bundle) (i : Instr) (ws : List Word),
    s.agenda = .issue core picker :: rest → core < 216 → picker < pickersOf (classOfCore core) →
    startSet execState (tick { s with agenda := rest }) core picker = some u → bundleAt u core picker = some b →
    decodeWords (codeFrom b b.pc) = .ok (i, ws) →
    (b.set = none → step s = exec i { u with focus := (core, picker) }) ∧
    (b.set.isSome = true → b.early ≠ some (b.pc, true) → step s = issueSet exec core picker 4 (exec i { u with focus := (core, picker) }))) ∧
  (∀ (s : State) (rest : List Turn) (core picker : Nat) (b : Bundle) (i : Instr) (ws : List Word),
    s.agenda = .issue core picker :: rest → core < 216 → picker < pickersOf (classOfCore core) →
    bundleAt s core picker = some b → b.form = .d → b.set = none →
    decodeWords (codeFrom b b.pc) = .ok (i, ws) → step s = exec i { tick { s with agenda := rest } with focus := (core, picker) }) ∧
  (∀ (s : State) (rest : List Turn) (i : Instr), s.agenda = .event i :: rest → isEvent i = true →
    step s = exec i (tick { s with agenda := rest })) ∧
  (∀ s : State, s.clock < (tick s).clock ∧ (tick s).fresh = s.fresh + 1 ∧
    (samplePeriod s.rlmode = 0 ∨ s.booted = false → tick s = { s with clock := (tick s).clock, fresh := s.fresh + 1 }) ∧
    (tick s).threads = s.threads ∧ (tick s).groups = s.groups ∧ (tick s).teams = s.teams ∧ (tick s).grids = s.grids ∧
    ∀ core picker, bundleAt (tick s) core picker = bundleAt s core picker) ∧
  (∀ (s : State) (core picker k : Nat) (ks : List Nat) (w : Word) (ws : List Word) (r : RunhForm),
    classOfCore core = .d → classOf s k = .d → (getThread s k).seq = none → (∀ j ∈ ks, (getThread s j).seq = none) →
    let pc := (getThread s k).pc
    fetchWord s k .d pc = .ok w → decodeWords [w] = .ok (.runh r, []) → legal .d (.runh r) = true → fetchWords s k .d pc (r.len.toNat + 2) = .ok ws →
    enterBundle s core picker k ks = setBundle s core picker (some
      { threads := ks, form := .d, pc := pc, base := pc, code := ws, seq := { head := pc, packet := 0, xmask := r.xmask.toNat, begun := false },
        set := none, rest := none, probe := false, arrivals := [], ahead := [], early := none }))

/-- R66, R111, R245, R247, R262, R292, R395, R407, R417, R430, R431, R446. What reset leaves: CLOCK 0 (R430), READY and FWBAD 0 (R448), power
state 0 with no request (R446), no checkpoint (R449), LQWEIGHT 1, 2, 4 and 8 pops, the error counts 0 and no doorbell bound (R111), MARCFG 0
and nothing carved (R247), THRESH 0x0100 with counting off and the ring of access counters at 0 (R262), RLMODE 0 and RRWATCH all ones (R431),
HALTSTAT and HALTPC 0 (R417), PMTCTL idle and PMTPOOL 0 (R407), PUBTAB 0 (R292), REDSPILL 0 (R395), L1CFG 1 on a D-core and 0 on an L-core
(R245), and every codebook the reset table (R66). The rings of errors, traces, counters and the replay log (R423, R432) reset as the ring of
access counters does: the model's choice, log entry 5. -/
def Obligations.ResetLeaves : Prop :=
  let s := State.reset
  s.clock = 0 ∧ s.booted = false ∧ s.fwBad = false ∧ s.pwrCur = 0 ∧ s.pwrReq = 0 ∧ s.ckptBusy = false ∧ s.ckptErr = false ∧
    s.lqweight = 0x01020408#32 ∧ s.dberr = 0 ∧ s.lqerr = 0 ∧ (∀ n, kget 0 s.dbbind n = 0) ∧ s.marcfgReq = 0 ∧ s.marcfgActive = 0 ∧
    s.accctl = 0x00000100#32 ∧ s.rlmode = 0 ∧ s.rrwatch = 0xFFFFFFFFFFFFFFFF#64 ∧ s.haltstat = 0 ∧ s.haltpc = 0 ∧ s.pmt = none ∧
    s.pmtPartial = false ∧ s.pmtpool = 0 ∧ s.pubtab = 0 ∧ s.redspill = 0 ∧
    (∀ r, r ∈ [s.accRing, s.errRing, s.traceRing, s.counterRing, s.logRing] → r = ⟨0, 0, 0, 0⟩) ∧
    (∀ core, (getCore s core).l1cfg = match classOfCore core with | .d => 1 | .l => 0) ∧
    (∀ core n, codeWord (getCore s core).codebook n = resetRow n)

/-- R67. The check sum of the reset table and the nibble totals of its eight components. -/
def Obligations.ResetTableCheckSum : Prop :=
  let table := (List.range 512).map (codeWord (getCore State.reset 0).codebook)
  table.foldl (fun n w => n + w.toNat) 0 % 2 ^ 32 = 0xCCA98D5C ∧
    (List.range 8).map (fun j => (table.map (fun w => w.toNat / 16 ^ j % 16)).foldl (· + ·) 0) = [924, 924, 976, 1016, 1030, 1030, 1032, 1032]

/-- Log entry 1. Memory after reset has its canonical form: addresses strictly rising, and no byte listed that reads as an unlisted one. -/
def Obligations.MemoryFormAtReset : Prop := Memory.wf State.reset.mem = true

/-- Log entry 1. Every step, of an instruction or of an event, keeps the canonical form of memory, so that equal memories are equal data. -/
def Obligations.StepKeepsMemoryForm : Prop := ∀ s t : State, Memory.wf s.mem = true → StepsTo s t → Memory.wf t.mem = true

/-- R25, R157, R241, R400, R426. The frame of the integer, bit, predicate, floating-point and interval instructions, in whatever next state
exec gives with the run record's WATCH and KILL records off: every byte of memory and every register of the part is as before, and so is
all of a team but that its grid may be killed, of a group but that a co-issue set ends, of a core but its bundles and counters; a vector
register or predicate that is neither a destination nor the destination of a result that was pending keeps its value; a thread's other
registers are as before, and FPCTL, the fault record and what a trap saved too unless the thread has entered or left its handler. -/
def Obligations.RegisterInstructionFrame : Prop :=
  ∀ (i : Instr) (s t : State), Says.registerOnly i = true → exec i s = .next t → s.rlmode.getLsbD 3 = false → s.rlmode.getLsbD 4 = false →
    t = { s with cores := t.cores, teams := t.teams, groups := t.groups, threads := t.threads, grids := t.grids, fresh := t.fresh } ∧
    (∀ id, getTeam t id = { getTeam s id with killed := (getTeam t id).killed }) ∧
    (∀ g, getGroup t g = { getGroup s g with uview := (getGroup t g).uview }) ∧
    (∀ c, getCore t c = { getCore s c with bundles := (getCore t c).bundles, counters := (getCore t c).counters }) ∧
    ∀ k, let x := getThread s k
      let y := getThread t k
      (∀ code, code < 64 → ¬code ∈ regWrites i → (∀ p ∈ x.pend, ¬code ∈ p.dests) → kget RVal.zero y.regs.v code = kget RVal.zero x.regs.v code) ∧
      (∀ n, n < 8 → ¬(112 + n) ∈ regWrites i → (∀ p ∈ x.pend, ¬(112 + n) ∈ p.dests) → kget PVal.zero y.regs.p n = kget PVal.zero x.regs.p n) ∧
      y.exited = x.exited ∧ y.csp = x.csp ∧ y.homeV = x.homeV ∧ y.eqp = x.eqp ∧ y.flush = x.flush ∧ y.marchcfg = x.marchcfg ∧
      y.psnlo = x.psnlo ∧ y.psnhi = x.psnhi ∧ y.psnpc = x.psnpc ∧ y.psninfo = x.psninfo ∧ y.clockHi = x.clockHi ∧ y.lpr = x.lpr ∧
      (y.intrap = x.intrap → y.fpctl = x.fpctl ∧ y.frec = x.frec ∧ y.saved = x.saved ∧ y.rpcWritten = x.rpcWritten)

/-- R103, R240, R269, R271. The frame of the stores, with the counting of accesses off: outside the bytes at the place that the address
operand names, of the access's size, every byte of memory, of scratch and of the carve-out reads as before, and no register of a thread
changes but its last-page register; STGM's bytes likewise. Making a thread ready, the notes before the threads' stores and the bundle's
going on after them store nothing, with the run record's WATCH and KILL records off. -/
def Obligations.StoreFrame : Prop :=
  (∀ (i : Instr) (sp : Space), Says.storesTo i = some sp → ∀ (b : Bundle) (k : Nat) (u v : State) (l : Loc), Says.Stores i sp b k u v l →
    let n := Says.accessBytes (descSz (rawOf i).b)
    Says.OnlyStorage u v ∧
    (u.accctl.getLsbD 31 = false → ∀ a, (∀ pa, l = .phys pa → a < pa ∨ pa + n ≤ a) → kget 0 v.mem a = kget 0 u.mem a) ∧
    (∀ a, (∀ o, l = .carve o → a < o ∨ o + n ≤ a) → kget 0 v.carve a = kget 0 u.carve a) ∧
    (∀ id a, (∀ o, l = .scratch id o → a < o ∨ o + n ≤ a) → kget 0 (getTeam v id).scratch a = kget 0 (getTeam u id).scratch a)) ∧
  (∀ (w : TForm) (b : Bundle) (k : Nat) (u v : State) (ps : List (Loc × Found × Nat)), Says.StoresMasked w b k u v ps →
    Says.OnlyStorage u v ∧
    (u.accctl.getLsbD 31 = false → ∀ a, (∀ p ∈ ps, p.1 ≠ .phys a) → kget 0 v.mem a = kget 0 u.mem a) ∧
    (∀ a, (∀ p ∈ ps, p.1 ≠ .carve a) → kget 0 v.carve a = kget 0 u.carve a) ∧
    (∀ id a, (∀ p ∈ ps, p.1 ≠ .scratch id a) → kget 0 (getTeam v id).scratch a = kget 0 (getTeam u id).scratch a)) ∧
  (∀ (i : Instr) (b : Bundle) (s t : State) (places : List (Loc × Nat)), s.rlmode.getLsbD 3 = false → t.rlmode.getLsbD 4 = false →
    (noted s b i).mem = s.mem ∧ (noted s b i).carve = s.carve ∧ (noted s b i).teams = s.teams ∧
    (past s i (clearLines t places)).mem = t.mem ∧ (past s i (clearLines t places)).carve = t.carve ∧
    ∀ id, (getTeam (past s i (clearLines t places)) id).scratch = (getTeam t id).scratch) ∧
  (∀ (i : Instr) (b : Bundle) (k : Nat) (s u : State), prepare s b i k = .ok u → u = { s with threads := u.threads })

/-- R205, R224, R399 to R401, R403. A thread of a team whose TRAPVEC is enabled, not in its handler, takes trap n: the collectives' results
that are pending are written, FPCTL, CSP, the predicates, the most recent equivalence point, the latches or temporaries of a sequence and
the position are saved, the fault record is written (for POISON with what PSNINFO, PSNPC, PSNLO and PSNHI hold), INTRAP is 1, FPCTL 0, and the thread stands at the class's handler PC; nothing else of
the machine changes. TRAP's own trap saves no position. Without a handler, or in it, the trap kills the grid and the thread's record
stays. -/
def Obligations.TrapEntry : Prop :=
  ∀ (s : State) (k n c : Nat) (place : Option (Nat × Nat)) (a : TrapAt), n < 256 → c < 256 → (∀ p, place = some p → p.2 < 16) →
    let t := (getThread s k).deliver (fun p => decide (p.kind = .collective))
    let seq := if n = 0x0E then none else a.seq
    let tm := teamOf s k
    let u := enterTrap s k n c place a
    let x := getThread u k
    (tm.trapvec.msb = true → t.intrap = false → tm.killed = false → haltingOn s (groupOf s k).core = false →
      x.intrap = true ∧ x.fpctl = 0 ∧ x.csp = t.csp ∧ x.joinPc = none ∧ x.rpcWritten = false ∧ x.seq = none ∧ x.regs.x = [] ∧
      x.saved = some { fpctl := t.fpctl, csp := t.csp, p := t.regs.p, x := if seq.isSome then t.regs.x else [], seq := seq, eqp := t.eqp } ∧
      x.eqp = t.eqp ∧
      x.pc = (match classOf s k with
        | .d => 4 * (tm.trapvec.extractLsb' 0 16).setWidth 32
        | .l => 12 * (tm.trapvec.extractLsb' 16 15).setWidth 32) ∧
      (kget 0 x.frec 0).extractLsb' 24 8 = BitVec.ofNat 8 n ∧
      (n ≠ 5 → (kget 0 x.frec 0).extractLsb' 16 8 = BitVec.ofNat 8 c ∧ kget 0 x.frec 10 = 0 ∧ kget 0 x.frec 11 = 0 ∧
        (place = none → (kget 0 x.frec 0).extractLsb' 8 4 = 0xF#4 ∧ kget 0 x.frec 8 = 0 ∧ kget 0 x.frec 9 = 0)) ∧
      (n = 5 → kget 0 x.frec 10 = t.psnpc ∧ kget 0 x.frec 11 = t.psninfo ∧ (place = none → kget 0 x.frec 8 = t.psnlo ∧ kget 0 x.frec 9 = t.psnhi) ∧
        (t.psninfo.msb = true → (kget 0 x.frec 0).extractLsb' 16 8 = (t.psninfo.extractLsb' 0 4).setWidth 8 ∧
          (kget 0 x.frec 0).extractLsb' 8 4 = t.psninfo.extractLsb' 4 4) ∧
        (t.psninfo.msb = false → (kget 0 x.frec 0).extractLsb' 16 8 = 0 ∧ (kget 0 x.frec 0).extractLsb' 8 4 = 0xF#4)) ∧
      kget 0 x.frec 1 = a.pc ∧ kget 0 x.frec 5 = a.word ∧ kget 0 x.frec 6 = a.word2 ∧ kget 0 x.frec 12 = BitVec.ofNat 32 (k % 1024) ∧
      kget 0 x.frec 14 = a.resume ∧
      (∀ p, place = some p → kget 0 x.frec 8 = BitVec.ofNat 32 p.1 ∧ kget 0 x.frec 9 = BitVec.ofNat 32 (p.1 / 2 ^ 32)) ∧
      u = { s with threads := u.threads } ∧ ∀ j, j ≠ k → getThread u j = getThread s j) ∧
    ((tm.trapvec.msb = false ∨ t.intrap = true ∨ tm.killed = true) →
      x = { t with pc := a.resume, view := none, next := none, seq := seq } ∧
      (∀ g ∈ u.grids, g.pod = tm.grid → g.killed.isSome = true) ∧ (∀ e ∈ u.teams, e.2.grid = tm.grid → e.2.killed = true) ∧
      ∀ j, j ≠ k → getThread u j = getThread s j)

/-- R157, R176, R240. Where operands stop a thread alone in its bundle: a load or store at an address that is not aligned, or outside its
space; a store with a poisoned address or data, or whose page does not allow it; a BRP with a poisoned predicate, a CALLI with a poisoned or
misaligned target, or no room on the stack. The thread takes the trap the spec names, and the instruction has no other effect. -/
def Obligations.OperandTraps : Prop :=
  (∀ (i : Instr) (sp : Space), Says.loadsFrom i = some sp → ∀ (s u : State) (b : Bundle) (k : Nat) (a : DVal), Says.Alone s i b k u →
    addrOf u (ctxOf b i k) sp = .ok a → a.poison = false →
    let n := Says.accessBytes (descSz (rawOf i).b)
    let at_ := a.bits.toNat
    (at_ % n ≠ 0 → Says.Traps s i b k 0x07 0 (some (at_, sp.code))) ∧
    (at_ % n = 0 → resolve u k sp at_ n .r = .space → Says.Traps s i b k 0x08 0 (some (at_, sp.code)))) ∧
  (∀ (i : Instr) (sp : Space), Says.storesTo i = some sp → ∀ (s u : State) (b : Bundle) (k : Nat) (a : DVal) (d : List RVal), Says.Alone s i b k u →
    addrOf u (ctxOf b i k) sp = .ok a → storeRegs u (ctxOf b i k) (szRegs (descSz (rawOf i).b)) = .ok d →
    let n := Says.accessBytes (descSz (rawOf i).b)
    let at_ := a.bits.toNat
    (a.poison = true ∨ anyBad d = true → Says.Traps s i b k 0x05 0 none) ∧
    (a.poison = false → anyBad d = false →
      (at_ % n ≠ 0 → Says.Traps s i b k 0x07 0 (some (at_, sp.code))) ∧
      (at_ % n = 0 → resolve u k sp at_ n .w = .space → Says.Traps s i b k 0x08 0 (some (at_, sp.code))) ∧
      (∀ e va, at_ % n = 0 → resolve u k sp at_ n .w = .fault e va → Says.Traps s i b k 0x06 e.code (some (at_, sp.code))))) ∧
  (∀ (w : JForm) (s u : State) (b : Bundle) (k : Nat), Says.Alone s (.brp w) b k u → (readP u k w.p.toNat).poison = true →
    Says.Traps s (.brp w) b k 0x05 0 none) ∧
  (∀ (w : TForm) (s u : State) (b : Bundle) (k : Nat) (x : RVal), Says.Alone s (.calli w) b k u → src u (ctxOf b (.calli w) k) .int w.a.toNat = .ok x →
    (x.poison = true → Says.Traps s (.calli w) b k 0x05 0 none) ∧
    (x.poison = false → (getThread u k).csp.toNat < 8 →
      Says.Traps s (.calli w) b k 0x08 0 (some (((getThread u k).csp - 8).toNat, 0))) ∧
    (x.poison = false → 8 ≤ (getThread u k).csp.toNat → x.bits.toNat % 4 ≠ 0 → Says.Traps s (.calli w) b k 0x07 0 none))

/-- R270, R372, R373, R376 to R381. A read of one part of storage gives each byte from the newest write that has it, but for writes passed
over: each of those is one that the agent need not see, for nothing puts it before the read, the agent has not read it, and no order of the
strong stores at its point puts it before one the agent has seen; a write is read whole or not at all, and with none to pass over the newest
bytes are read. A write once read is never passed over again by the same agent, and an agent reads its own write back. A write takes a place
below such writes alone, and an atomic reads what stands right below its place. An acquire that reads a release in scope, or one with
promotion whose release is narrower, comes after all that the release does, and so does a strong read once a fence that acquires at a scope
wide enough follows; a weak read orders nothing. A release carries all that its agent is ordered after and itself. FENCE.ARs of one scope
instance are ordered one after another, those of two instances not at all. (The choice among what a read may give, and among the places a
write may take, is the model's: log entry 2.) -/
def Obligations.MemoryModelResult : Prop :=
  -- what a read gives
  (∀ (s : State) (a : Nat) (acc : Acc) (part : Nat) (v : Ver), hideable s a acc part v = true ↔
    (if v.agent = a then v.priv ≠ acc.priv ∧ kget 0 s.order.selfFence a < v.ev else kget 0 (viewOf s.order a) v.agent < v.ev) ∧
    (v.merge = true → kget 0 (viewOf s.order a) (mergesAt v.point) < v.ev) ∧ ¬v.ev ∈ kget [] s.order.seen (a * 2 ^ 64 + part) ∧
    ¬(v.strong = true ∧ scopeLevel s a v.agent ≤ v.scope ∧ ∃ m, kfind (sightOf s.order s.clock a acc part) v.point = some m ∧
      (kget [] s.order.line v.point).idxOf v.ev ≤ (kget [] s.order.line v.point).idxOf m)) ∧
  (∀ (s : State) (a : Nat) (acc : Acc) (l : Loc) (n : Nat),
    let st := stripOf s l
    let range := (List.range n).map (fun j => offOf l + j)
    ∃ (pass : Nat → Ver → Bool) (f : Nat), (∀ i v, pass i v = true → hideable s a acc (partOf l) v = true) ∧
      let vs := supply range pass range 0 st.vers
      readPart s a acc l n = (range.map (byteOf st.base vs), meetAll { s with fresh := f } a acc (partOf l) vs)) ∧
  (∀ (range : List Nat) (pass : Nat → Ver → Bool) (base : List (Byte × Bool)) (vs : List Ver) (o : Nat), o ∈ range →
    let got := supply range pass range 0 vs
    (∀ v ∈ got, v ∈ vs) ∧
    (∀ v ∈ vs, v.has o = true → ¬v ∈ got → (∃ i, pass i v = true) ∨ ∃ w ∈ got, ∃ p ∈ range, w.has p = true ∧ v.has p = true) ∧
    ((∀ i v, v ∈ vs → pass i v = false) → byteOf base got o = byteOf base vs o)) ∧
  (∀ (s : State) (a part : Nat) (acc acc' : Acc) (v : Ver), hideable (meet s a acc part v) a acc' part v = false) ∧
  (∀ (s : State) (a : Nat) (acc acc' : Acc) (l : Loc) (bs : List Byte) (inh : List Release), bs ≠ [] → acc'.priv = acc.priv →
    (readPart (writePart s a acc l (pieceBytes l bs) 0 inh) a acc' l bs.length).1.map (·.1) = bs) ∧
  -- where a write may stand
  (∀ (s : State) (a : Nat) (acc : Acc) (l : Loc) (offs : List Nat) (c : Nat), c ∈ depths s a acc l offs →
    ∀ v ∈ (overlapping offs (stripOf s l).vers).take c, hideable s a acc (partOf l) v = true) ∧
  (∀ (s : State) (a : Nat) (acc : Acc) (l : Loc) (w : Nat) (new : Nat → Option Nat), acc.rel = false →
    let offs := (List.range w).map (fun j => offOf l + j)
    let st := stripOf s l
    ∃ c ∈ depths s a acc l offs,
      (updateAs s a acc l w new).1 = leNat (offs.map (fun o => (byteOf st.base ((overlapping offs st.vers).drop c) o).1))) ∧
  -- acquires
  (∀ (s : State) (a part x kind scope : Nat) (acc : Acc) (v : Ver) (r : Release), acc.strong = true → r ∈ v.rel →
    let level := scopeLevel s a r.agent
    let m := meet s a acc part v
    (level ≤ r.scope → level ≤ acc.scope → acc.acq = true → kget 0 r.view x ≤ kget 0 (viewOf m.order a) x) ∧
    (1 ≤ r.scope → r.scope < level → level ≤ acc.scope → acc.acq = true → acc.rmt = true → kget 0 r.view x ≤ kget 0 (viewOf m.order a) x) ∧
    (level ≤ r.scope → level ≤ acc.scope → level ≤ scope → kind ≠ 1 → kget 0 r.view x ≤ kget 0 (viewOf (fence m a kind scope).order a) x) ∧
    (1 ≤ r.scope → r.scope < level → level ≤ acc.scope → level ≤ scope → kind = 3 →
      kget 0 r.view x ≤ kget 0 (viewOf (fence m a kind scope).order a) x)) ∧
  (∀ (s : State) (a part : Nat) (acc : Acc) (v : Ver), acc.strong = false → viewOf (meet s a acc part v).order a = viewOf s.order a) ∧
  (∀ (s : State) (a b : Nat), a < 2 ^ 60 → b < 2 ^ 60 → a ≠ b →
    (scopeLevel s a b ≤ 1 ↔ keyGroup a = keyGroup b) ∧ (scopeLevel s a b ≤ 2 ↔ keyTeam a = keyTeam b) ∧
    (scopeLevel s a b ≤ 3 ↔ keyTeam a = keyTeam b ∨ keyTeam b ∈ (teamOf s a).mates) ∧ scopeLevel s a b ≤ 4) ∧
  -- releases
  (∀ (s : State) (a : Nat) (acc : Acc) (l : Loc) (bs : KMap Byte) (inh : List Release), acc.strong = true → acc.rel = true →
    ∃ v r, (stripOf (writePart s a acc l bs 0 inh) l).vers.head? = some v ∧ v.agent = a ∧ v.ev = s.order.next + 1 ∧ r ∈ v.rel ∧
      r.agent = a ∧ r.scope = acc.scope ∧ kget 0 r.view a = v.ev ∧ ∀ x, x ≠ a → kget 0 r.view x = kget 0 (viewOf s.order a) x) ∧
  -- FENCE.AR
  (∀ (s : State) (j k sj sk x : Nat), j ≠ k →
    let t := fence s j 2 sj
    let u := fence t k 2 sk
    (scopeInstance s j sj = scopeInstance s k sk → kget 0 (viewOf t.order j) x ≤ kget 0 (viewOf u.order k) x) ∧
    (scopeInstance s j sj ≠ scopeInstance s k sk → viewOf u.order k = viewOf (fence s k 2 sk).order k))
end

