-- ==== Sys2Proof/Laws/Map.lean ====
section
/-! SUPPORT. Sparse tables: reading after writing, and the canonical form that every operation keeps. -/

namespace Sys2Proof.Machine

variable {α : Type}

@[simp] theorem kfind_kput_self (m : KMap α) (k : Nat) (v : α) : kfind (kput m k v) k = some v := by
  induction m with
  | nil => simp [kput, kfind]
  | cons e r ih =>
    obtain ⟨j, u⟩ := e
    simp only [kput]
    split
    · simp [kfind]
    · split
      · simp [kfind]
      · rw [kfind, if_neg (by omega)]; exact ih

theorem kfind_kput_ne (m : KMap α) (k j : Nat) (v : α) (h : j ≠ k) : kfind (kput m k v) j = kfind m j := by
  induction m with
  | nil => simp [kput, kfind, Ne.symm h]
  | cons e r ih =>
    obtain ⟨i, u⟩ := e
    simp only [kput]
    split
    · simp [kfind, Ne.symm h]
    · split
      · rename_i hk; subst hk; simp [kfind, Ne.symm h]
      · simp only [kfind]; split <;> simp_all

@[simp] theorem kfind_kdel_self (m : KMap α) (k : Nat) : kfind (kdel m k) k = none := by
  induction m with
  | nil => rfl
  | cons e r ih =>
    obtain ⟨j, u⟩ := e
    simp only [kdel]
    split
    · exact ih
    · rename_i h; simp [kfind, h, ih]

theorem kfind_kdel_ne (m : KMap α) (k j : Nat) (h : j ≠ k) : kfind (kdel m k) j = kfind m j := by
  induction m with
  | nil => rfl
  | cons e r ih =>
    obtain ⟨i, u⟩ := e
    simp only [kdel, kfind]
    split
    · rename_i hk; subst hk; rw [ih, if_neg (Ne.symm h)]
    · simp only [kfind]; split <;> simp_all

@[simp] theorem kget_kset_self [DecidableEq α] (d : α) (m : KMap α) (k : Nat) (v : α) : kget d (kset d m k v) k = v := by
  unfold kset kget
  split
  · simp_all
  · simp

theorem kget_kset_ne [DecidableEq α] (d : α) (m : KMap α) (k j : Nat) (v : α) (h : j ≠ k) : kget d (kset d m k v) j = kget d m j := by
  unfold kset kget
  split
  · rw [kfind_kdel_ne m k j h]
  · rw [kfind_kput_ne m k j v h]

/-- Reading a table just after vs was stored at keys k, k + 1, …. -/
theorem kget_ksetList [DecidableEq α] (d : α) (vs : List α) : ∀ (m : KMap α) (k j : Nat),
    kget d (ksetList d m k vs) j = if k ≤ j ∧ j < k + vs.length then vs.getD (j - k) d else kget d m j := by
  induction vs with
  | nil =>
    intro m k j
    rw [if_neg (by rintro ⟨h1, h2⟩; simp only [List.length_nil] at h2; omega)]; rfl
  | cons v vs ih =>
    intro m k j
    simp only [ksetList, ih, List.length_cons]
    by_cases h1 : k + 1 ≤ j ∧ j < k + 1 + vs.length
    · rw [if_pos h1, if_pos (by omega)]
      have : j - k = (j - (k + 1)) + 1 := by omega
      rw [this, List.getD_cons_succ]
    · rw [if_neg h1]
      by_cases h2 : j = k
      · subst h2; simp
      · rw [kget_kset_ne d m k j v h2, if_neg (by omega)]

-- the canonical form

theorem ksorted_weaken (m : KMap α) (b : Nat) (h : ksorted (some b) m = true) : ksorted none m = true := by
  cases m with
  | nil => rfl
  | cons e r => obtain ⟨j, u⟩ := e; simp_all [ksorted]

theorem ksorted_lower (m : KMap α) (a b : Nat) (hab : a ≤ b) (h : ksorted (some b) m = true) : ksorted (some a) m = true := by
  cases m with
  | nil => rfl
  | cons e r => obtain ⟨j, u⟩ := e; simp_all [ksorted]; omega

theorem ksorted_kput (m : KMap α) : ∀ (b : Option Nat) (k : Nat) (v : α), ksorted b m = true →
    (match b with | none => True | some x => x < k) → ksorted b (kput m k v) = true := by
  induction m with
  | nil => intro b k v _ hb; cases b <;> simp_all [kput, ksorted]
  | cons e r ih =>
    obtain ⟨j, u⟩ := e
    intro b k v h hb
    simp only [kput]
    split
    · rename_i hk; cases b <;> simp_all [ksorted]
    · split
      · rename_i hk; subst hk; cases b <;> simp_all [ksorted]
      · have h2 : ksorted (some j) r = true := by cases b <;> simp_all [ksorted]
        have := ih (some j) k v h2 (by simp; omega)
        cases b <;> simp_all [ksorted]

theorem ksorted_kdel (m : KMap α) (k : Nat) : ∀ b : Option Nat, ksorted b m = true → ksorted b (kdel m k) = true := by
  induction m with
  | nil => intro b _; rfl
  | cons e r ih =>
    obtain ⟨j, u⟩ := e
    intro b h
    have h2 : ksorted (some j) r = true := by cases b <;> simp_all [ksorted]
    simp only [kdel]
    split
    · cases b with
      | none => exact ih none (ksorted_weaken r j h2)
      | some x => exact ih (some x) (ksorted_lower r x j (by simp_all [ksorted]; omega) h2)
    · have := ih (some j) h2; cases b <;> simp_all [ksorted]

theorem ksorted_filter (m : KMap α) (p : Nat × α → Bool) : ∀ b : Option Nat, ksorted b m = true → ksorted b (m.filter p) = true := by
  induction m with
  | nil => intro b _; rfl
  | cons e r ih =>
    obtain ⟨j, u⟩ := e
    intro b h
    have h2 : ksorted (some j) r = true := by cases b <;> simp_all [ksorted]
    simp only [List.filter]
    split
    · have := ih (some j) h2; cases b <;> simp_all [ksorted]
    · cases b with
      | none => exact ih none (ksorted_weaken r j h2)
      | some x => exact ih (some x) (ksorted_lower r x j (by simp_all [ksorted]; omega) h2)

theorem mem_kput (m : KMap α) (k : Nat) (v : α) (e : Nat × α) (h : e ∈ kput m k v) : e = (k, v) ∨ e ∈ m := by
  induction m with
  | nil => simp_all [kput]
  | cons x r ih =>
    obtain ⟨j, u⟩ := x
    simp only [kput] at h
    split at h
    · simp_all
    · split at h
      · simp only [List.mem_cons] at h ⊢; rcases h with h | h <;> simp_all
      · simp only [List.mem_cons] at h ⊢
        rcases h with h | h
        · simp_all
        · rcases ih h with h | h <;> simp_all

theorem mem_kdel (m : KMap α) (k : Nat) (e : Nat × α) (h : e ∈ kdel m k) : e ∈ m := by
  induction m with
  | nil => simp_all [kdel]
  | cons x r ih =>
    obtain ⟨j, u⟩ := x
    simp only [kdel] at h
    split at h
    · exact List.mem_cons_of_mem _ (ih h)
    · simp only [List.mem_cons] at h ⊢; rcases h with h | h <;> simp_all

theorem kwf_nil [DecidableEq α] (d : α) : kwf d ([] : KMap α) = true := rfl

theorem kwf_kset [DecidableEq α] (d : α) (m : KMap α) (k : Nat) (v : α) (h : kwf d m = true) : kwf d (kset d m k v) = true := by
  simp only [kwf, Bool.and_eq_true, List.all_eq_true, decide_eq_true_eq] at h ⊢
  unfold kset
  split
  · exact ⟨ksorted_kdel m k none h.1, fun e he => h.2 e (mem_kdel m k e he)⟩
  · refine ⟨ksorted_kput m none k v h.1 trivial, fun e he => ?_⟩
    rcases mem_kput m k v e he with rfl | he
    · assumption
    · exact h.2 e he

theorem kwf_ksetList [DecidableEq α] (d : α) (vs : List α) : ∀ (m : KMap α) (k : Nat), kwf d m = true → kwf d (ksetList d m k vs) = true := by
  induction vs with
  | nil => intro m k h; exact h
  | cons v vs ih => intro m k h; exact ih _ _ (kwf_kset d m k v h)

theorem kwf_filter [DecidableEq α] (d : α) (m : KMap α) (p : Nat × α → Bool) (h : kwf d m = true) : kwf d (m.filter p) = true := by
  simp only [kwf, Bool.and_eq_true, List.all_eq_true, decide_eq_true_eq] at h ⊢
  exact ⟨ksorted_filter m p none h.1, fun e he => h.2 e (List.mem_filter.mp he).1⟩

end Sys2Proof.Machine
end

