-- ==== Sys2Proof/Laws/State.lean ====
section
/-! SUPPORT. What each update of the state leaves of each field. -/

namespace Sys2Proof.Machine

section setThread
variable (s : State) (k : Nat) (t : Thread)
@[simp] theorem setThread_clock : (setThread s k t).clock = s.clock := rfl
@[simp] theorem setThread_booted : (setThread s k t).booted = s.booted := rfl
@[simp] theorem setThread_fwBad : (setThread s k t).fwBad = s.fwBad := rfl
@[simp] theorem setThread_secCount : (setThread s k t).secCount = s.secCount := rfl
@[simp] theorem setThread_pwrCur : (setThread s k t).pwrCur = s.pwrCur := rfl
@[simp] theorem setThread_pwrReq : (setThread s k t).pwrReq = s.pwrReq := rfl
@[simp] theorem setThread_heldDoorbells : (setThread s k t).heldDoorbells = s.heldDoorbells := rfl
@[simp] theorem setThread_ckptBusy : (setThread s k t).ckptBusy = s.ckptBusy := rfl
@[simp] theorem setThread_ckptErr : (setThread s k t).ckptErr = s.ckptErr := rfl
@[simp] theorem setThread_ckptBase : (setThread s k t).ckptBase = s.ckptBase := rfl
@[simp] theorem setThread_ckptWait : (setThread s k t).ckptWait = s.ckptWait := rfl
@[simp] theorem setThread_agenda : (setThread s k t).agenda = s.agenda := rfl
@[simp] theorem setThread_focus : (setThread s k t).focus = s.focus := rfl
@[simp] theorem setThread_fresh : (setThread s k t).fresh = s.fresh := rfl
@[simp] theorem setThread_nextTeam : (setThread s k t).nextTeam = s.nextTeam := rfl
@[simp] theorem setThread_mem : (setThread s k t).mem = s.mem := rfl
@[simp] theorem setThread_poisonLines : (setThread s k t).poisonLines = s.poisonLines := rfl
@[simp] theorem setThread_carve : (setThread s k t).carve = s.carve := rfl
@[simp] theorem setThread_carvePoison : (setThread s k t).carvePoison = s.carvePoison := rfl
@[simp] theorem setThread_retired : (setThread s k t).retired = s.retired := rfl
@[simp] theorem setThread_peerUp : (setThread s k t).peerUp = s.peerUp := rfl
@[simp] theorem setThread_unfitted : (setThread s k t).unfitted = s.unfitted := rfl
@[simp] theorem setThread_astab : (setThread s k t).astab = s.astab := rfl
@[simp] theorem setThread_tlbinv : (setThread s k t).tlbinv = s.tlbinv := rfl
@[simp] theorem setThread_marcfgReq : (setThread s k t).marcfgReq = s.marcfgReq := rfl
@[simp] theorem setThread_marcfgActive : (setThread s k t).marcfgActive = s.marcfgActive := rfl
@[simp] theorem setThread_mclass : (setThread s k t).mclass = s.mclass := rfl
@[simp] theorem setThread_accctl : (setThread s k t).accctl = s.accctl := rfl
@[simp] theorem setThread_accRing : (setThread s k t).accRing = s.accRing := rfl
@[simp] theorem setThread_accCounts : (setThread s k t).accCounts = s.accCounts := rfl
@[simp] theorem setThread_pubtab : (setThread s k t).pubtab = s.pubtab := rfl
@[simp] theorem setThread_redspill : (setThread s k t).redspill = s.redspill := rfl
@[simp] theorem setThread_redSpilled : (setThread s k t).redSpilled = s.redSpilled := rfl
@[simp] theorem setThread_errRing : (setThread s k t).errRing = s.errRing := rfl
@[simp] theorem setThread_rlmode : (setThread s k t).rlmode = s.rlmode := rfl
@[simp] theorem setThread_rrwatch : (setThread s k t).rrwatch = s.rrwatch := rfl
@[simp] theorem setThread_traceRing : (setThread s k t).traceRing = s.traceRing := rfl
@[simp] theorem setThread_counterRing : (setThread s k t).counterRing = s.counterRing := rfl
@[simp] theorem setThread_nextTick : (setThread s k t).nextTick = s.nextTick := rfl
@[simp] theorem setThread_logRing : (setThread s k t).logRing = s.logRing := rfl
@[simp] theorem setThread_logLost : (setThread s k t).logLost = s.logLost := rfl
@[simp] theorem setThread_logSeq : (setThread s k t).logSeq = s.logSeq := rfl
@[simp] theorem setThread_lqweight : (setThread s k t).lqweight = s.lqweight := rfl
@[simp] theorem setThread_dberr : (setThread s k t).dberr = s.dberr := rfl
@[simp] theorem setThread_lqerr : (setThread s k t).lqerr = s.lqerr := rfl
@[simp] theorem setThread_dbbind : (setThread s k t).dbbind = s.dbbind := rfl
@[simp] theorem setThread_pmt : (setThread s k t).pmt = s.pmt := rfl
@[simp] theorem setThread_pmtPartial : (setThread s k t).pmtPartial = s.pmtPartial := rfl
@[simp] theorem setThread_pmtpool : (setThread s k t).pmtpool = s.pmtpool := rfl
@[simp] theorem setThread_saved : (setThread s k t).saved = s.saved := rfl
@[simp] theorem setThread_killBusy : (setThread s k t).killBusy = s.killBusy := rfl
@[simp] theorem setThread_haltstat : (setThread s k t).haltstat = s.haltstat := rfl
@[simp] theorem setThread_haltpc : (setThread s k t).haltpc = s.haltpc := rfl
@[simp] theorem setThread_haltWaits : (setThread s k t).haltWaits = s.haltWaits := rfl
@[simp] theorem setThread_gridHalts : (setThread s k t).gridHalts = s.gridHalts := rfl
@[simp] theorem setThread_unitWaits : (setThread s k t).unitWaits = s.unitWaits := rfl
@[simp] theorem setThread_signals : (setThread s k t).signals = s.signals := rfl
@[simp] theorem setThread_queues : (setThread s k t).queues = s.queues := rfl
@[simp] theorem setThread_wrrPlace : (setThread s k t).wrrPlace = s.wrrPlace := rfl
@[simp] theorem setThread_wrrEngine : (setThread s k t).wrrEngine = s.wrrEngine := rfl
@[simp] theorem setThread_flight : (setThread s k t).flight = s.flight := rfl
@[simp] theorem setThread_grids : (setThread s k t).grids = s.grids := rfl
@[simp] theorem setThread_waits : (setThread s k t).waits = s.waits := rfl
@[simp] theorem setThread_cores : (setThread s k t).cores = s.cores := rfl
@[simp] theorem setThread_teams : (setThread s k t).teams = s.teams := rfl
@[simp] theorem setThread_groups : (setThread s k t).groups = s.groups := rfl
@[simp] theorem setThread_threads : (setThread s k t).threads = kput s.threads k t := rfl
@[simp] theorem setThread_pubs : (setThread s k t).pubs = s.pubs := rfl
@[simp] theorem setThread_binq : (setThread s k t).binq = s.binq := rfl
@[simp] theorem setThread_rasterWaits : (setThread s k t).rasterWaits = s.rasterWaits := rfl
@[simp] theorem setThread_targets : (setThread s k t).targets = s.targets := rfl
@[simp] theorem setThread_errors : (setThread s k t).errors = s.errors := rfl
@[simp] theorem setThread_marrow : (setThread s k t).marrow = s.marrow := rfl
@[simp] theorem setThread_order : (setThread s k t).order = s.order := rfl
end setThread

section setGroup
variable (s : State) (k : Nat) (t : Group)
@[simp] theorem setGroup_clock : (setGroup s k t).clock = s.clock := rfl
@[simp] theorem setGroup_booted : (setGroup s k t).booted = s.booted := rfl
@[simp] theorem setGroup_fwBad : (setGroup s k t).fwBad = s.fwBad := rfl
@[simp] theorem setGroup_secCount : (setGroup s k t).secCount = s.secCount := rfl
@[simp] theorem setGroup_pwrCur : (setGroup s k t).pwrCur = s.pwrCur := rfl
@[simp] theorem setGroup_pwrReq : (setGroup s k t).pwrReq = s.pwrReq := rfl
@[simp] theorem setGroup_heldDoorbells : (setGroup s k t).heldDoorbells = s.heldDoorbells := rfl
@[simp] theorem setGroup_ckptBusy : (setGroup s k t).ckptBusy = s.ckptBusy := rfl
@[simp] theorem setGroup_ckptErr : (setGroup s k t).ckptErr = s.ckptErr := rfl
@[simp] theorem setGroup_ckptBase : (setGroup s k t).ckptBase = s.ckptBase := rfl
@[simp] theorem setGroup_ckptWait : (setGroup s k t).ckptWait = s.ckptWait := rfl
@[simp] theorem setGroup_agenda : (setGroup s k t).agenda = s.agenda := rfl
@[simp] theorem setGroup_focus : (setGroup s k t).focus = s.focus := rfl
@[simp] theorem setGroup_fresh : (setGroup s k t).fresh = s.fresh := rfl
@[simp] theorem setGroup_nextTeam : (setGroup s k t).nextTeam = s.nextTeam := rfl
@[simp] theorem setGroup_mem : (setGroup s k t).mem = s.mem := rfl
@[simp] theorem setGroup_poisonLines : (setGroup s k t).poisonLines = s.poisonLines := rfl
@[simp] theorem setGroup_carve : (setGroup s k t).carve = s.carve := rfl
@[simp] theorem setGroup_carvePoison : (setGroup s k t).carvePoison = s.carvePoison := rfl
@[simp] theorem setGroup_retired : (setGroup s k t).retired = s.retired := rfl
@[simp] theorem setGroup_peerUp : (setGroup s k t).peerUp = s.peerUp := rfl
@[simp] theorem setGroup_unfitted : (setGroup s k t).unfitted = s.unfitted := rfl
@[simp] theorem setGroup_astab : (setGroup s k t).astab = s.astab := rfl
@[simp] theorem setGroup_tlbinv : (setGroup s k t).tlbinv = s.tlbinv := rfl
@[simp] theorem setGroup_marcfgReq : (setGroup s k t).marcfgReq = s.marcfgReq := rfl
@[simp] theorem setGroup_marcfgActive : (setGroup s k t).marcfgActive = s.marcfgActive := rfl
@[simp] theorem setGroup_mclass : (setGroup s k t).mclass = s.mclass := rfl
@[simp] theorem setGroup_accctl : (setGroup s k t).accctl = s.accctl := rfl
@[simp] theorem setGroup_accRing : (setGroup s k t).accRing = s.accRing := rfl
@[simp] theorem setGroup_accCounts : (setGroup s k t).accCounts = s.accCounts := rfl
@[simp] theorem setGroup_pubtab : (setGroup s k t).pubtab = s.pubtab := rfl
@[simp] theorem setGroup_redspill : (setGroup s k t).redspill = s.redspill := rfl
@[simp] theorem setGroup_redSpilled : (setGroup s k t).redSpilled = s.redSpilled := rfl
@[simp] theorem setGroup_errRing : (setGroup s k t).errRing = s.errRing := rfl
@[simp] theorem setGroup_rlmode : (setGroup s k t).rlmode = s.rlmode := rfl
@[simp] theorem setGroup_rrwatch : (setGroup s k t).rrwatch = s.rrwatch := rfl
@[simp] theorem setGroup_traceRing : (setGroup s k t).traceRing = s.traceRing := rfl
@[simp] theorem setGroup_counterRing : (setGroup s k t).counterRing = s.counterRing := rfl
@[simp] theorem setGroup_nextTick : (setGroup s k t).nextTick = s.nextTick := rfl
@[simp] theorem setGroup_logRing : (setGroup s k t).logRing = s.logRing := rfl
@[simp] theorem setGroup_logLost : (setGroup s k t).logLost = s.logLost := rfl
@[simp] theorem setGroup_logSeq : (setGroup s k t).logSeq = s.logSeq := rfl
@[simp] theorem setGroup_lqweight : (setGroup s k t).lqweight = s.lqweight := rfl
@[simp] theorem setGroup_dberr : (setGroup s k t).dberr = s.dberr := rfl
@[simp] theorem setGroup_lqerr : (setGroup s k t).lqerr = s.lqerr := rfl
@[simp] theorem setGroup_dbbind : (setGroup s k t).dbbind = s.dbbind := rfl
@[simp] theorem setGroup_pmt : (setGroup s k t).pmt = s.pmt := rfl
@[simp] theorem setGroup_pmtPartial : (setGroup s k t).pmtPartial = s.pmtPartial := rfl
@[simp] theorem setGroup_pmtpool : (setGroup s k t).pmtpool = s.pmtpool := rfl
@[simp] theorem setGroup_saved : (setGroup s k t).saved = s.saved := rfl
@[simp] theorem setGroup_killBusy : (setGroup s k t).killBusy = s.killBusy := rfl
@[simp] theorem setGroup_haltstat : (setGroup s k t).haltstat = s.haltstat := rfl
@[simp] theorem setGroup_haltpc : (setGroup s k t).haltpc = s.haltpc := rfl
@[simp] theorem setGroup_haltWaits : (setGroup s k t).haltWaits = s.haltWaits := rfl
@[simp] theorem setGroup_gridHalts : (setGroup s k t).gridHalts = s.gridHalts := rfl
@[simp] theorem setGroup_unitWaits : (setGroup s k t).unitWaits = s.unitWaits := rfl
@[simp] theorem setGroup_signals : (setGroup s k t).signals = s.signals := rfl
@[simp] theorem setGroup_queues : (setGroup s k t).queues = s.queues := rfl
@[simp] theorem setGroup_wrrPlace : (setGroup s k t).wrrPlace = s.wrrPlace := rfl
@[simp] theorem setGroup_wrrEngine : (setGroup s k t).wrrEngine = s.wrrEngine := rfl
@[simp] theorem setGroup_flight : (setGroup s k t).flight = s.flight := rfl
@[simp] theorem setGroup_grids : (setGroup s k t).grids = s.grids := rfl
@[simp] theorem setGroup_waits : (setGroup s k t).waits = s.waits := rfl
@[simp] theorem setGroup_cores : (setGroup s k t).cores = s.cores := rfl
@[simp] theorem setGroup_teams : (setGroup s k t).teams = s.teams := rfl
@[simp] theorem setGroup_groups : (setGroup s k t).groups = kput s.groups k t := rfl
@[simp] theorem setGroup_threads : (setGroup s k t).threads = s.threads := rfl
@[simp] theorem setGroup_pubs : (setGroup s k t).pubs = s.pubs := rfl
@[simp] theorem setGroup_binq : (setGroup s k t).binq = s.binq := rfl
@[simp] theorem setGroup_rasterWaits : (setGroup s k t).rasterWaits = s.rasterWaits := rfl
@[simp] theorem setGroup_targets : (setGroup s k t).targets = s.targets := rfl
@[simp] theorem setGroup_errors : (setGroup s k t).errors = s.errors := rfl
@[simp] theorem setGroup_marrow : (setGroup s k t).marrow = s.marrow := rfl
@[simp] theorem setGroup_order : (setGroup s k t).order = s.order := rfl
end setGroup

section setTeam
variable (s : State) (k : Nat) (t : Team)
@[simp] theorem setTeam_clock : (setTeam s k t).clock = s.clock := rfl
@[simp] theorem setTeam_booted : (setTeam s k t).booted = s.booted := rfl
@[simp] theorem setTeam_fwBad : (setTeam s k t).fwBad = s.fwBad := rfl
@[simp] theorem setTeam_secCount : (setTeam s k t).secCount = s.secCount := rfl
@[simp] theorem setTeam_pwrCur : (setTeam s k t).pwrCur = s.pwrCur := rfl
@[simp] theorem setTeam_pwrReq : (setTeam s k t).pwrReq = s.pwrReq := rfl
@[simp] theorem setTeam_heldDoorbells : (setTeam s k t).heldDoorbells = s.heldDoorbells := rfl
@[simp] theorem setTeam_ckptBusy : (setTeam s k t).ckptBusy = s.ckptBusy := rfl
@[simp] theorem setTeam_ckptErr : (setTeam s k t).ckptErr = s.ckptErr := rfl
@[simp] theorem setTeam_ckptBase : (setTeam s k t).ckptBase = s.ckptBase := rfl
@[simp] theorem setTeam_ckptWait : (setTeam s k t).ckptWait = s.ckptWait := rfl
@[simp] theorem setTeam_agenda : (setTeam s k t).agenda = s.agenda := rfl
@[simp] theorem setTeam_focus : (setTeam s k t).focus = s.focus := rfl
@[simp] theorem setTeam_fresh : (setTeam s k t).fresh = s.fresh := rfl
@[simp] theorem setTeam_nextTeam : (setTeam s k t).nextTeam = s.nextTeam := rfl
@[simp] theorem setTeam_mem : (setTeam s k t).mem = s.mem := rfl
@[simp] theorem setTeam_poisonLines : (setTeam s k t).poisonLines = s.poisonLines := rfl
@[simp] theorem setTeam_carve : (setTeam s k t).carve = s.carve := rfl
@[simp] theorem setTeam_carvePoison : (setTeam s k t).carvePoison = s.carvePoison := rfl
@[simp] theorem setTeam_retired : (setTeam s k t).retired = s.retired := rfl
@[simp] theorem setTeam_peerUp : (setTeam s k t).peerUp = s.peerUp := rfl
@[simp] theorem setTeam_unfitted : (setTeam s k t).unfitted = s.unfitted := rfl
@[simp] theorem setTeam_astab : (setTeam s k t).astab = s.astab := rfl
@[simp] theorem setTeam_tlbinv : (setTeam s k t).tlbinv = s.tlbinv := rfl
@[simp] theorem setTeam_marcfgReq : (setTeam s k t).marcfgReq = s.marcfgReq := rfl
@[simp] theorem setTeam_marcfgActive : (setTeam s k t).marcfgActive = s.marcfgActive := rfl
@[simp] theorem setTeam_mclass : (setTeam s k t).mclass = s.mclass := rfl
@[simp] theorem setTeam_accctl : (setTeam s k t).accctl = s.accctl := rfl
@[simp] theorem setTeam_accRing : (setTeam s k t).accRing = s.accRing := rfl
@[simp] theorem setTeam_accCounts : (setTeam s k t).accCounts = s.accCounts := rfl
@[simp] theorem setTeam_pubtab : (setTeam s k t).pubtab = s.pubtab := rfl
@[simp] theorem setTeam_redspill : (setTeam s k t).redspill = s.redspill := rfl
@[simp] theorem setTeam_redSpilled : (setTeam s k t).redSpilled = s.redSpilled := rfl
@[simp] theorem setTeam_errRing : (setTeam s k t).errRing = s.errRing := rfl
@[simp] theorem setTeam_rlmode : (setTeam s k t).rlmode = s.rlmode := rfl
@[simp] theorem setTeam_rrwatch : (setTeam s k t).rrwatch = s.rrwatch := rfl
@[simp] theorem setTeam_traceRing : (setTeam s k t).traceRing = s.traceRing := rfl
@[simp] theorem setTeam_counterRing : (setTeam s k t).counterRing = s.counterRing := rfl
@[simp] theorem setTeam_nextTick : (setTeam s k t).nextTick = s.nextTick := rfl
@[simp] theorem setTeam_logRing : (setTeam s k t).logRing = s.logRing := rfl
@[simp] theorem setTeam_logLost : (setTeam s k t).logLost = s.logLost := rfl
@[simp] theorem setTeam_logSeq : (setTeam s k t).logSeq = s.logSeq := rfl
@[simp] theorem setTeam_lqweight : (setTeam s k t).lqweight = s.lqweight := rfl
@[simp] theorem setTeam_dberr : (setTeam s k t).dberr = s.dberr := rfl
@[simp] theorem setTeam_lqerr : (setTeam s k t).lqerr = s.lqerr := rfl
@[simp] theorem setTeam_dbbind : (setTeam s k t).dbbind = s.dbbind := rfl
@[simp] theorem setTeam_pmt : (setTeam s k t).pmt = s.pmt := rfl
@[simp] theorem setTeam_pmtPartial : (setTeam s k t).pmtPartial = s.pmtPartial := rfl
@[simp] theorem setTeam_pmtpool : (setTeam s k t).pmtpool = s.pmtpool := rfl
@[simp] theorem setTeam_saved : (setTeam s k t).saved = s.saved := rfl
@[simp] theorem setTeam_killBusy : (setTeam s k t).killBusy = s.killBusy := rfl
@[simp] theorem setTeam_haltstat : (setTeam s k t).haltstat = s.haltstat := rfl
@[simp] theorem setTeam_haltpc : (setTeam s k t).haltpc = s.haltpc := rfl
@[simp] theorem setTeam_haltWaits : (setTeam s k t).haltWaits = s.haltWaits := rfl
@[simp] theorem setTeam_gridHalts : (setTeam s k t).gridHalts = s.gridHalts := rfl
@[simp] theorem setTeam_unitWaits : (setTeam s k t).unitWaits = s.unitWaits := rfl
@[simp] theorem setTeam_signals : (setTeam s k t).signals = s.signals := rfl
@[simp] theorem setTeam_queues : (setTeam s k t).queues = s.queues := rfl
@[simp] theorem setTeam_wrrPlace : (setTeam s k t).wrrPlace = s.wrrPlace := rfl
@[simp] theorem setTeam_wrrEngine : (setTeam s k t).wrrEngine = s.wrrEngine := rfl
@[simp] theorem setTeam_flight : (setTeam s k t).flight = s.flight := rfl
@[simp] theorem setTeam_grids : (setTeam s k t).grids = s.grids := rfl
@[simp] theorem setTeam_waits : (setTeam s k t).waits = s.waits := rfl
@[simp] theorem setTeam_cores : (setTeam s k t).cores = s.cores := rfl
@[simp] theorem setTeam_teams : (setTeam s k t).teams = kput s.teams k t := rfl
@[simp] theorem setTeam_groups : (setTeam s k t).groups = s.groups := rfl
@[simp] theorem setTeam_threads : (setTeam s k t).threads = s.threads := rfl
@[simp] theorem setTeam_pubs : (setTeam s k t).pubs = s.pubs := rfl
@[simp] theorem setTeam_binq : (setTeam s k t).binq = s.binq := rfl
@[simp] theorem setTeam_rasterWaits : (setTeam s k t).rasterWaits = s.rasterWaits := rfl
@[simp] theorem setTeam_targets : (setTeam s k t).targets = s.targets := rfl
@[simp] theorem setTeam_errors : (setTeam s k t).errors = s.errors := rfl
@[simp] theorem setTeam_marrow : (setTeam s k t).marrow = s.marrow := rfl
@[simp] theorem setTeam_order : (setTeam s k t).order = s.order := rfl
end setTeam

section setCore
variable (s : State) (k : Nat) (t : Core)
@[simp] theorem setCore_clock : (setCore s k t).clock = s.clock := rfl
@[simp] theorem setCore_booted : (setCore s k t).booted = s.booted := rfl
@[simp] theorem setCore_fwBad : (setCore s k t).fwBad = s.fwBad := rfl
@[simp] theorem setCore_secCount : (setCore s k t).secCount = s.secCount := rfl
@[simp] theorem setCore_pwrCur : (setCore s k t).pwrCur = s.pwrCur := rfl
@[simp] theorem setCore_pwrReq : (setCore s k t).pwrReq = s.pwrReq := rfl
@[simp] theorem setCore_heldDoorbells : (setCore s k t).heldDoorbells = s.heldDoorbells := rfl
@[simp] theorem setCore_ckptBusy : (setCore s k t).ckptBusy = s.ckptBusy := rfl
@[simp] theorem setCore_ckptErr : (setCore s k t).ckptErr = s.ckptErr := rfl
@[simp] theorem setCore_ckptBase : (setCore s k t).ckptBase = s.ckptBase := rfl
@[simp] theorem setCore_ckptWait : (setCore s k t).ckptWait = s.ckptWait := rfl
@[simp] theorem setCore_agenda : (setCore s k t).agenda = s.agenda := rfl
@[simp] theorem setCore_focus : (setCore s k t).focus = s.focus := rfl
@[simp] theorem setCore_fresh : (setCore s k t).fresh = s.fresh := rfl
@[simp] theorem setCore_nextTeam : (setCore s k t).nextTeam = s.nextTeam := rfl
@[simp] theorem setCore_mem : (setCore s k t).mem = s.mem := rfl
@[simp] theorem setCore_poisonLines : (setCore s k t).poisonLines = s.poisonLines := rfl
@[simp] theorem setCore_carve : (setCore s k t).carve = s.carve := rfl
@[simp] theorem setCore_carvePoison : (setCore s k t).carvePoison = s.carvePoison := rfl
@[simp] theorem setCore_retired : (setCore s k t).retired = s.retired := rfl
@[simp] theorem setCore_peerUp : (setCore s k t).peerUp = s.peerUp := rfl
@[simp] theorem setCore_unfitted : (setCore s k t).unfitted = s.unfitted := rfl
@[simp] theorem setCore_astab : (setCore s k t).astab = s.astab := rfl
@[simp] theorem setCore_tlbinv : (setCore s k t).tlbinv = s.tlbinv := rfl
@[simp] theorem setCore_marcfgReq : (setCore s k t).marcfgReq = s.marcfgReq := rfl
@[simp] theorem setCore_marcfgActive : (setCore s k t).marcfgActive = s.marcfgActive := rfl
@[simp] theorem setCore_mclass : (setCore s k t).mclass = s.mclass := rfl
@[simp] theorem setCore_accctl : (setCore s k t).accctl = s.accctl := rfl
@[simp] theorem setCore_accRing : (setCore s k t).accRing = s.accRing := rfl
@[simp] theorem setCore_accCounts : (setCore s k t).accCounts = s.accCounts := rfl
@[simp] theorem setCore_pubtab : (setCore s k t).pubtab = s.pubtab := rfl
@[simp] theorem setCore_redspill : (setCore s k t).redspill = s.redspill := rfl
@[simp] theorem setCore_redSpilled : (setCore s k t).redSpilled = s.redSpilled := rfl
@[simp] theorem setCore_errRing : (setCore s k t).errRing = s.errRing := rfl
@[simp] theorem setCore_rlmode : (setCore s k t).rlmode = s.rlmode := rfl
@[simp] theorem setCore_rrwatch : (setCore s k t).rrwatch = s.rrwatch := rfl
@[simp] theorem setCore_traceRing : (setCore s k t).traceRing = s.traceRing := rfl
@[simp] theorem setCore_counterRing : (setCore s k t).counterRing = s.counterRing := rfl
@[simp] theorem setCore_nextTick : (setCore s k t).nextTick = s.nextTick := rfl
@[simp] theorem setCore_logRing : (setCore s k t).logRing = s.logRing := rfl
@[simp] theorem setCore_logLost : (setCore s k t).logLost = s.logLost := rfl
@[simp] theorem setCore_logSeq : (setCore s k t).logSeq = s.logSeq := rfl
@[simp] theorem setCore_lqweight : (setCore s k t).lqweight = s.lqweight := rfl
@[simp] theorem setCore_dberr : (setCore s k t).dberr = s.dberr := rfl
@[simp] theorem setCore_lqerr : (setCore s k t).lqerr = s.lqerr := rfl
@[simp] theorem setCore_dbbind : (setCore s k t).dbbind = s.dbbind := rfl
@[simp] theorem setCore_pmt : (setCore s k t).pmt = s.pmt := rfl
@[simp] theorem setCore_pmtPartial : (setCore s k t).pmtPartial = s.pmtPartial := rfl
@[simp] theorem setCore_pmtpool : (setCore s k t).pmtpool = s.pmtpool := rfl
@[simp] theorem setCore_saved : (setCore s k t).saved = s.saved := rfl
@[simp] theorem setCore_killBusy : (setCore s k t).killBusy = s.killBusy := rfl
@[simp] theorem setCore_haltstat : (setCore s k t).haltstat = s.haltstat := rfl
@[simp] theorem setCore_haltpc : (setCore s k t).haltpc = s.haltpc := rfl
@[simp] theorem setCore_haltWaits : (setCore s k t).haltWaits = s.haltWaits := rfl
@[simp] theorem setCore_gridHalts : (setCore s k t).gridHalts = s.gridHalts := rfl
@[simp] theorem setCore_unitWaits : (setCore s k t).unitWaits = s.unitWaits := rfl
@[simp] theorem setCore_signals : (setCore s k t).signals = s.signals := rfl
@[simp] theorem setCore_queues : (setCore s k t).queues = s.queues := rfl
@[simp] theorem setCore_wrrPlace : (setCore s k t).wrrPlace = s.wrrPlace := rfl
@[simp] theorem setCore_wrrEngine : (setCore s k t).wrrEngine = s.wrrEngine := rfl
@[simp] theorem setCore_flight : (setCore s k t).flight = s.flight := rfl
@[simp] theorem setCore_grids : (setCore s k t).grids = s.grids := rfl
@[simp] theorem setCore_waits : (setCore s k t).waits = s.waits := rfl
@[simp] theorem setCore_cores : (setCore s k t).cores = kput s.cores k t := rfl
@[simp] theorem setCore_teams : (setCore s k t).teams = s.teams := rfl
@[simp] theorem setCore_groups : (setCore s k t).groups = s.groups := rfl
@[simp] theorem setCore_threads : (setCore s k t).threads = s.threads := rfl
@[simp] theorem setCore_pubs : (setCore s k t).pubs = s.pubs := rfl
@[simp] theorem setCore_binq : (setCore s k t).binq = s.binq := rfl
@[simp] theorem setCore_rasterWaits : (setCore s k t).rasterWaits = s.rasterWaits := rfl
@[simp] theorem setCore_targets : (setCore s k t).targets = s.targets := rfl
@[simp] theorem setCore_errors : (setCore s k t).errors = s.errors := rfl
@[simp] theorem setCore_marrow : (setCore s k t).marrow = s.marrow := rfl
@[simp] theorem setCore_order : (setCore s k t).order = s.order := rfl
end setCore

section modThread
variable (s : State) (k : Nat) (f : Thread → Thread)
@[simp] theorem modThread_clock : (modThread s k f).clock = s.clock := rfl
@[simp] theorem modThread_booted : (modThread s k f).booted = s.booted := rfl
@[simp] theorem modThread_fwBad : (modThread s k f).fwBad = s.fwBad := rfl
@[simp] theorem modThread_secCount : (modThread s k f).secCount = s.secCount := rfl
@[simp] theorem modThread_pwrCur : (modThread s k f).pwrCur = s.pwrCur := rfl
@[simp] theorem modThread_pwrReq : (modThread s k f).pwrReq = s.pwrReq := rfl
@[simp] theorem modThread_heldDoorbells : (modThread s k f).heldDoorbells = s.heldDoorbells := rfl
@[simp] theorem modThread_ckptBusy : (modThread s k f).ckptBusy = s.ckptBusy := rfl
@[simp] theorem modThread_ckptErr : (modThread s k f).ckptErr = s.ckptErr := rfl
@[simp] theorem modThread_ckptBase : (modThread s k f).ckptBase = s.ckptBase := rfl
@[simp] theorem modThread_ckptWait : (modThread s k f).ckptWait = s.ckptWait := rfl
@[simp] theorem modThread_agenda : (modThread s k f).agenda = s.agenda := rfl
@[simp] theorem modThread_focus : (modThread s k f).focus = s.focus := rfl
@[simp] theorem modThread_fresh : (modThread s k f).fresh = s.fresh := rfl
@[simp] theorem modThread_nextTeam : (modThread s k f).nextTeam = s.nextTeam := rfl
@[simp] theorem modThread_mem : (modThread s k f).mem = s.mem := rfl
@[simp] theorem modThread_poisonLines : (modThread s k f).poisonLines = s.poisonLines := rfl
@[simp] theorem modThread_carve : (modThread s k f).carve = s.carve := rfl
@[simp] theorem modThread_carvePoison : (modThread s k f).carvePoison = s.carvePoison := rfl
@[simp] theorem modThread_retired : (modThread s k f).retired = s.retired := rfl
@[simp] theorem modThread_peerUp : (modThread s k f).peerUp = s.peerUp := rfl
@[simp] theorem modThread_unfitted : (modThread s k f).unfitted = s.unfitted := rfl
@[simp] theorem modThread_astab : (modThread s k f).astab = s.astab := rfl
@[simp] theorem modThread_tlbinv : (modThread s k f).tlbinv = s.tlbinv := rfl
@[simp] theorem modThread_marcfgReq : (modThread s k f).marcfgReq = s.marcfgReq := rfl
@[simp] theorem modThread_marcfgActive : (modThread s k f).marcfgActive = s.marcfgActive := rfl
@[simp] theorem modThread_mclass : (modThread s k f).mclass = s.mclass := rfl
@[simp] theorem modThread_accctl : (modThread s k f).accctl = s.accctl := rfl
@[simp] theorem modThread_accRing : (modThread s k f).accRing = s.accRing := rfl
@[simp] theorem modThread_accCounts : (modThread s k f).accCounts = s.accCounts := rfl
@[simp] theorem modThread_pubtab : (modThread s k f).pubtab = s.pubtab := rfl
@[simp] theorem modThread_redspill : (modThread s k f).redspill = s.redspill := rfl
@[simp] theorem modThread_redSpilled : (modThread s k f).redSpilled = s.redSpilled := rfl
@[simp] theorem modThread_errRing : (modThread s k f).errRing = s.errRing := rfl
@[simp] theorem modThread_rlmode : (modThread s k f).rlmode = s.rlmode := rfl
@[simp] theorem modThread_rrwatch : (modThread s k f).rrwatch = s.rrwatch := rfl
@[simp] theorem modThread_traceRing : (modThread s k f).traceRing = s.traceRing := rfl
@[simp] theorem modThread_counterRing : (modThread s k f).counterRing = s.counterRing := rfl
@[simp] theorem modThread_nextTick : (modThread s k f).nextTick = s.nextTick := rfl
@[simp] theorem modThread_logRing : (modThread s k f).logRing = s.logRing := rfl
@[simp] theorem modThread_logLost : (modThread s k f).logLost = s.logLost := rfl
@[simp] theorem modThread_logSeq : (modThread s k f).logSeq = s.logSeq := rfl
@[simp] theorem modThread_lqweight : (modThread s k f).lqweight = s.lqweight := rfl
@[simp] theorem modThread_dberr : (modThread s k f).dberr = s.dberr := rfl
@[simp] theorem modThread_lqerr : (modThread s k f).lqerr = s.lqerr := rfl
@[simp] theorem modThread_dbbind : (modThread s k f).dbbind = s.dbbind := rfl
@[simp] theorem modThread_pmt : (modThread s k f).pmt = s.pmt := rfl
@[simp] theorem modThread_pmtPartial : (modThread s k f).pmtPartial = s.pmtPartial := rfl
@[simp] theorem modThread_pmtpool : (modThread s k f).pmtpool = s.pmtpool := rfl
@[simp] theorem modThread_saved : (modThread s k f).saved = s.saved := rfl
@[simp] theorem modThread_killBusy : (modThread s k f).killBusy = s.killBusy := rfl
@[simp] theorem modThread_haltstat : (modThread s k f).haltstat = s.haltstat := rfl
@[simp] theorem modThread_haltpc : (modThread s k f).haltpc = s.haltpc := rfl
@[simp] theorem modThread_haltWaits : (modThread s k f).haltWaits = s.haltWaits := rfl
@[simp] theorem modThread_gridHalts : (modThread s k f).gridHalts = s.gridHalts := rfl
@[simp] theorem modThread_unitWaits : (modThread s k f).unitWaits = s.unitWaits := rfl
@[simp] theorem modThread_signals : (modThread s k f).signals = s.signals := rfl
@[simp] theorem modThread_queues : (modThread s k f).queues = s.queues := rfl
@[simp] theorem modThread_wrrPlace : (modThread s k f).wrrPlace = s.wrrPlace := rfl
@[simp] theorem modThread_wrrEngine : (modThread s k f).wrrEngine = s.wrrEngine := rfl
@[simp] theorem modThread_flight : (modThread s k f).flight = s.flight := rfl
@[simp] theorem modThread_grids : (modThread s k f).grids = s.grids := rfl
@[simp] theorem modThread_waits : (modThread s k f).waits = s.waits := rfl
@[simp] theorem modThread_cores : (modThread s k f).cores = s.cores := rfl
@[simp] theorem modThread_teams : (modThread s k f).teams = s.teams := rfl
@[simp] theorem modThread_groups : (modThread s k f).groups = s.groups := rfl
@[simp] theorem modThread_threads : (modThread s k f).threads = kput s.threads k (f (getThread s k)) := rfl
@[simp] theorem modThread_pubs : (modThread s k f).pubs = s.pubs := rfl
@[simp] theorem modThread_binq : (modThread s k f).binq = s.binq := rfl
@[simp] theorem modThread_rasterWaits : (modThread s k f).rasterWaits = s.rasterWaits := rfl
@[simp] theorem modThread_targets : (modThread s k f).targets = s.targets := rfl
@[simp] theorem modThread_errors : (modThread s k f).errors = s.errors := rfl
@[simp] theorem modThread_marrow : (modThread s k f).marrow = s.marrow := rfl
@[simp] theorem modThread_order : (modThread s k f).order = s.order := rfl
end modThread

section modGroup
variable (s : State) (k : Nat) (f : Group → Group)
@[simp] theorem modGroup_clock : (modGroup s k f).clock = s.clock := rfl
@[simp] theorem modGroup_booted : (modGroup s k f).booted = s.booted := rfl
@[simp] theorem modGroup_fwBad : (modGroup s k f).fwBad = s.fwBad := rfl
@[simp] theorem modGroup_secCount : (modGroup s k f).secCount = s.secCount := rfl
@[simp] theorem modGroup_pwrCur : (modGroup s k f).pwrCur = s.pwrCur := rfl
@[simp] theorem modGroup_pwrReq : (modGroup s k f).pwrReq = s.pwrReq := rfl
@[simp] theorem modGroup_heldDoorbells : (modGroup s k f).heldDoorbells = s.heldDoorbells := rfl
@[simp] theorem modGroup_ckptBusy : (modGroup s k f).ckptBusy = s.ckptBusy := rfl
@[simp] theorem modGroup_ckptErr : (modGroup s k f).ckptErr = s.ckptErr := rfl
@[simp] theorem modGroup_ckptBase : (modGroup s k f).ckptBase = s.ckptBase := rfl
@[simp] theorem modGroup_ckptWait : (modGroup s k f).ckptWait = s.ckptWait := rfl
@[simp] theorem modGroup_agenda : (modGroup s k f).agenda = s.agenda := rfl
@[simp] theorem modGroup_focus : (modGroup s k f).focus = s.focus := rfl
@[simp] theorem modGroup_fresh : (modGroup s k f).fresh = s.fresh := rfl
@[simp] theorem modGroup_nextTeam : (modGroup s k f).nextTeam = s.nextTeam := rfl
@[simp] theorem modGroup_mem : (modGroup s k f).mem = s.mem := rfl
@[simp] theorem modGroup_poisonLines : (modGroup s k f).poisonLines = s.poisonLines := rfl
@[simp] theorem modGroup_carve : (modGroup s k f).carve = s.carve := rfl
@[simp] theorem modGroup_carvePoison : (modGroup s k f).carvePoison = s.carvePoison := rfl
@[simp] theorem modGroup_retired : (modGroup s k f).retired = s.retired := rfl
@[simp] theorem modGroup_peerUp : (modGroup s k f).peerUp = s.peerUp := rfl
@[simp] theorem modGroup_unfitted : (modGroup s k f).unfitted = s.unfitted := rfl
@[simp] theorem modGroup_astab : (modGroup s k f).astab = s.astab := rfl
@[simp] theorem modGroup_tlbinv : (modGroup s k f).tlbinv = s.tlbinv := rfl
@[simp] theorem modGroup_marcfgReq : (modGroup s k f).marcfgReq = s.marcfgReq := rfl
@[simp] theorem modGroup_marcfgActive : (modGroup s k f).marcfgActive = s.marcfgActive := rfl
@[simp] theorem modGroup_mclass : (modGroup s k f).mclass = s.mclass := rfl
@[simp] theorem modGroup_accctl : (modGroup s k f).accctl = s.accctl := rfl
@[simp] theorem modGroup_accRing : (modGroup s k f).accRing = s.accRing := rfl
@[simp] theorem modGroup_accCounts : (modGroup s k f).accCounts = s.accCounts := rfl
@[simp] theorem modGroup_pubtab : (modGroup s k f).pubtab = s.pubtab := rfl
@[simp] theorem modGroup_redspill : (modGroup s k f).redspill = s.redspill := rfl
@[simp] theorem modGroup_redSpilled : (modGroup s k f).redSpilled = s.redSpilled := rfl
@[simp] theorem modGroup_errRing : (modGroup s k f).errRing = s.errRing := rfl
@[simp] theorem modGroup_rlmode : (modGroup s k f).rlmode = s.rlmode := rfl
@[simp] theorem modGroup_rrwatch : (modGroup s k f).rrwatch = s.rrwatch := rfl
@[simp] theorem modGroup_traceRing : (modGroup s k f).traceRing = s.traceRing := rfl
@[simp] theorem modGroup_counterRing : (modGroup s k f).counterRing = s.counterRing := rfl
@[simp] theorem modGroup_nextTick : (modGroup s k f).nextTick = s.nextTick := rfl
@[simp] theorem modGroup_logRing : (modGroup s k f).logRing = s.logRing := rfl
@[simp] theorem modGroup_logLost : (modGroup s k f).logLost = s.logLost := rfl
@[simp] theorem modGroup_logSeq : (modGroup s k f).logSeq = s.logSeq := rfl
@[simp] theorem modGroup_lqweight : (modGroup s k f).lqweight = s.lqweight := rfl
@[simp] theorem modGroup_dberr : (modGroup s k f).dberr = s.dberr := rfl
@[simp] theorem modGroup_lqerr : (modGroup s k f).lqerr = s.lqerr := rfl
@[simp] theorem modGroup_dbbind : (modGroup s k f).dbbind = s.dbbind := rfl
@[simp] theorem modGroup_pmt : (modGroup s k f).pmt = s.pmt := rfl
@[simp] theorem modGroup_pmtPartial : (modGroup s k f).pmtPartial = s.pmtPartial := rfl
@[simp] theorem modGroup_pmtpool : (modGroup s k f).pmtpool = s.pmtpool := rfl
@[simp] theorem modGroup_saved : (modGroup s k f).saved = s.saved := rfl
@[simp] theorem modGroup_killBusy : (modGroup s k f).killBusy = s.killBusy := rfl
@[simp] theorem modGroup_haltstat : (modGroup s k f).haltstat = s.haltstat := rfl
@[simp] theorem modGroup_haltpc : (modGroup s k f).haltpc = s.haltpc := rfl
@[simp] theorem modGroup_haltWaits : (modGroup s k f).haltWaits = s.haltWaits := rfl
@[simp] theorem modGroup_gridHalts : (modGroup s k f).gridHalts = s.gridHalts := rfl
@[simp] theorem modGroup_unitWaits : (modGroup s k f).unitWaits = s.unitWaits := rfl
@[simp] theorem modGroup_signals : (modGroup s k f).signals = s.signals := rfl
@[simp] theorem modGroup_queues : (modGroup s k f).queues = s.queues := rfl
@[simp] theorem modGroup_wrrPlace : (modGroup s k f).wrrPlace = s.wrrPlace := rfl
@[simp] theorem modGroup_wrrEngine : (modGroup s k f).wrrEngine = s.wrrEngine := rfl
@[simp] theorem modGroup_flight : (modGroup s k f).flight = s.flight := rfl
@[simp] theorem modGroup_grids : (modGroup s k f).grids = s.grids := rfl
@[simp] theorem modGroup_waits : (modGroup s k f).waits = s.waits := rfl
@[simp] theorem modGroup_cores : (modGroup s k f).cores = s.cores := rfl
@[simp] theorem modGroup_teams : (modGroup s k f).teams = s.teams := rfl
@[simp] theorem modGroup_groups : (modGroup s k f).groups = kput s.groups k (f (getGroup s k)) := rfl
@[simp] theorem modGroup_threads : (modGroup s k f).threads = s.threads := rfl
@[simp] theorem modGroup_pubs : (modGroup s k f).pubs = s.pubs := rfl
@[simp] theorem modGroup_binq : (modGroup s k f).binq = s.binq := rfl
@[simp] theorem modGroup_rasterWaits : (modGroup s k f).rasterWaits = s.rasterWaits := rfl
@[simp] theorem modGroup_targets : (modGroup s k f).targets = s.targets := rfl
@[simp] theorem modGroup_errors : (modGroup s k f).errors = s.errors := rfl
@[simp] theorem modGroup_marrow : (modGroup s k f).marrow = s.marrow := rfl
@[simp] theorem modGroup_order : (modGroup s k f).order = s.order := rfl
end modGroup

section modTeam
variable (s : State) (k : Nat) (f : Team → Team)
@[simp] theorem modTeam_clock : (modTeam s k f).clock = s.clock := rfl
@[simp] theorem modTeam_booted : (modTeam s k f).booted = s.booted := rfl
@[simp] theorem modTeam_fwBad : (modTeam s k f).fwBad = s.fwBad := rfl
@[simp] theorem modTeam_secCount : (modTeam s k f).secCount = s.secCount := rfl
@[simp] theorem modTeam_pwrCur : (modTeam s k f).pwrCur = s.pwrCur := rfl
@[simp] theorem modTeam_pwrReq : (modTeam s k f).pwrReq = s.pwrReq := rfl
@[simp] theorem modTeam_heldDoorbells : (modTeam s k f).heldDoorbells = s.heldDoorbells := rfl
@[simp] theorem modTeam_ckptBusy : (modTeam s k f).ckptBusy = s.ckptBusy := rfl
@[simp] theorem modTeam_ckptErr : (modTeam s k f).ckptErr = s.ckptErr := rfl
@[simp] theorem modTeam_ckptBase : (modTeam s k f).ckptBase = s.ckptBase := rfl
@[simp] theorem modTeam_ckptWait : (modTeam s k f).ckptWait = s.ckptWait := rfl
@[simp] theorem modTeam_agenda : (modTeam s k f).agenda = s.agenda := rfl
@[simp] theorem modTeam_focus : (modTeam s k f).focus = s.focus := rfl
@[simp] theorem modTeam_fresh : (modTeam s k f).fresh = s.fresh := rfl
@[simp] theorem modTeam_nextTeam : (modTeam s k f).nextTeam = s.nextTeam := rfl
@[simp] theorem modTeam_mem : (modTeam s k f).mem = s.mem := rfl
@[simp] theorem modTeam_poisonLines : (modTeam s k f).poisonLines = s.poisonLines := rfl
@[simp] theorem modTeam_carve : (modTeam s k f).carve = s.carve := rfl
@[simp] theorem modTeam_carvePoison : (modTeam s k f).carvePoison = s.carvePoison := rfl
@[simp] theorem modTeam_retired : (modTeam s k f).retired = s.retired := rfl
@[simp] theorem modTeam_peerUp : (modTeam s k f).peerUp = s.peerUp := rfl
@[simp] theorem modTeam_unfitted : (modTeam s k f).unfitted = s.unfitted := rfl
@[simp] theorem modTeam_astab : (modTeam s k f).astab = s.astab := rfl
@[simp] theorem modTeam_tlbinv : (modTeam s k f).tlbinv = s.tlbinv := rfl
@[simp] theorem modTeam_marcfgReq : (modTeam s k f).marcfgReq = s.marcfgReq := rfl
@[simp] theorem modTeam_marcfgActive : (modTeam s k f).marcfgActive = s.marcfgActive := rfl
@[simp] theorem modTeam_mclass : (modTeam s k f).mclass = s.mclass := rfl
@[simp] theorem modTeam_accctl : (modTeam s k f).accctl = s.accctl := rfl
@[simp] theorem modTeam_accRing : (modTeam s k f).accRing = s.accRing := rfl
@[simp] theorem modTeam_accCounts : (modTeam s k f).accCounts = s.accCounts := rfl
@[simp] theorem modTeam_pubtab : (modTeam s k f).pubtab = s.pubtab := rfl
@[simp] theorem modTeam_redspill : (modTeam s k f).redspill = s.redspill := rfl
@[simp] theorem modTeam_redSpilled : (modTeam s k f).redSpilled = s.redSpilled := rfl
@[simp] theorem modTeam_errRing : (modTeam s k f).errRing = s.errRing := rfl
@[simp] theorem modTeam_rlmode : (modTeam s k f).rlmode = s.rlmode := rfl
@[simp] theorem modTeam_rrwatch : (modTeam s k f).rrwatch = s.rrwatch := rfl
@[simp] theorem modTeam_traceRing : (modTeam s k f).traceRing = s.traceRing := rfl
@[simp] theorem modTeam_counterRing : (modTeam s k f).counterRing = s.counterRing := rfl
@[simp] theorem modTeam_nextTick : (modTeam s k f).nextTick = s.nextTick := rfl
@[simp] theorem modTeam_logRing : (modTeam s k f).logRing = s.logRing := rfl
@[simp] theorem modTeam_logLost : (modTeam s k f).logLost = s.logLost := rfl
@[simp] theorem modTeam_logSeq : (modTeam s k f).logSeq = s.logSeq := rfl
@[simp] theorem modTeam_lqweight : (modTeam s k f).lqweight = s.lqweight := rfl
@[simp] theorem modTeam_dberr : (modTeam s k f).dberr = s.dberr := rfl
@[simp] theorem modTeam_lqerr : (modTeam s k f).lqerr = s.lqerr := rfl
@[simp] theorem modTeam_dbbind : (modTeam s k f).dbbind = s.dbbind := rfl
@[simp] theorem modTeam_pmt : (modTeam s k f).pmt = s.pmt := rfl
@[simp] theorem modTeam_pmtPartial : (modTeam s k f).pmtPartial = s.pmtPartial := rfl
@[simp] theorem modTeam_pmtpool : (modTeam s k f).pmtpool = s.pmtpool := rfl
@[simp] theorem modTeam_saved : (modTeam s k f).saved = s.saved := rfl
@[simp] theorem modTeam_killBusy : (modTeam s k f).killBusy = s.killBusy := rfl
@[simp] theorem modTeam_haltstat : (modTeam s k f).haltstat = s.haltstat := rfl
@[simp] theorem modTeam_haltpc : (modTeam s k f).haltpc = s.haltpc := rfl
@[simp] theorem modTeam_haltWaits : (modTeam s k f).haltWaits = s.haltWaits := rfl
@[simp] theorem modTeam_gridHalts : (modTeam s k f).gridHalts = s.gridHalts := rfl
@[simp] theorem modTeam_unitWaits : (modTeam s k f).unitWaits = s.unitWaits := rfl
@[simp] theorem modTeam_signals : (modTeam s k f).signals = s.signals := rfl
@[simp] theorem modTeam_queues : (modTeam s k f).queues = s.queues := rfl
@[simp] theorem modTeam_wrrPlace : (modTeam s k f).wrrPlace = s.wrrPlace := rfl
@[simp] theorem modTeam_wrrEngine : (modTeam s k f).wrrEngine = s.wrrEngine := rfl
@[simp] theorem modTeam_flight : (modTeam s k f).flight = s.flight := rfl
@[simp] theorem modTeam_grids : (modTeam s k f).grids = s.grids := rfl
@[simp] theorem modTeam_waits : (modTeam s k f).waits = s.waits := rfl
@[simp] theorem modTeam_cores : (modTeam s k f).cores = s.cores := rfl
@[simp] theorem modTeam_teams : (modTeam s k f).teams = kput s.teams k (f (getTeam s k)) := rfl
@[simp] theorem modTeam_groups : (modTeam s k f).groups = s.groups := rfl
@[simp] theorem modTeam_threads : (modTeam s k f).threads = s.threads := rfl
@[simp] theorem modTeam_pubs : (modTeam s k f).pubs = s.pubs := rfl
@[simp] theorem modTeam_binq : (modTeam s k f).binq = s.binq := rfl
@[simp] theorem modTeam_rasterWaits : (modTeam s k f).rasterWaits = s.rasterWaits := rfl
@[simp] theorem modTeam_targets : (modTeam s k f).targets = s.targets := rfl
@[simp] theorem modTeam_errors : (modTeam s k f).errors = s.errors := rfl
@[simp] theorem modTeam_marrow : (modTeam s k f).marrow = s.marrow := rfl
@[simp] theorem modTeam_order : (modTeam s k f).order = s.order := rfl
end modTeam

section modCore
variable (s : State) (k : Nat) (f : Core → Core)
@[simp] theorem modCore_clock : (modCore s k f).clock = s.clock := rfl
@[simp] theorem modCore_booted : (modCore s k f).booted = s.booted := rfl
@[simp] theorem modCore_fwBad : (modCore s k f).fwBad = s.fwBad := rfl
@[simp] theorem modCore_secCount : (modCore s k f).secCount = s.secCount := rfl
@[simp] theorem modCore_pwrCur : (modCore s k f).pwrCur = s.pwrCur := rfl
@[simp] theorem modCore_pwrReq : (modCore s k f).pwrReq = s.pwrReq := rfl
@[simp] theorem modCore_heldDoorbells : (modCore s k f).heldDoorbells = s.heldDoorbells := rfl
@[simp] theorem modCore_ckptBusy : (modCore s k f).ckptBusy = s.ckptBusy := rfl
@[simp] theorem modCore_ckptErr : (modCore s k f).ckptErr = s.ckptErr := rfl
@[simp] theorem modCore_ckptBase : (modCore s k f).ckptBase = s.ckptBase := rfl
@[simp] theorem modCore_ckptWait : (modCore s k f).ckptWait = s.ckptWait := rfl
@[simp] theorem modCore_agenda : (modCore s k f).agenda = s.agenda := rfl
@[simp] theorem modCore_focus : (modCore s k f).focus = s.focus := rfl
@[simp] theorem modCore_fresh : (modCore s k f).fresh = s.fresh := rfl
@[simp] theorem modCore_nextTeam : (modCore s k f).nextTeam = s.nextTeam := rfl
@[simp] theorem modCore_mem : (modCore s k f).mem = s.mem := rfl
@[simp] theorem modCore_poisonLines : (modCore s k f).poisonLines = s.poisonLines := rfl
@[simp] theorem modCore_carve : (modCore s k f).carve = s.carve := rfl
@[simp] theorem modCore_carvePoison : (modCore s k f).carvePoison = s.carvePoison := rfl
@[simp] theorem modCore_retired : (modCore s k f).retired = s.retired := rfl
@[simp] theorem modCore_peerUp : (modCore s k f).peerUp = s.peerUp := rfl
@[simp] theorem modCore_unfitted : (modCore s k f).unfitted = s.unfitted := rfl
@[simp] theorem modCore_astab : (modCore s k f).astab = s.astab := rfl
@[simp] theorem modCore_tlbinv : (modCore s k f).tlbinv = s.tlbinv := rfl
@[simp] theorem modCore_marcfgReq : (modCore s k f).marcfgReq = s.marcfgReq := rfl
@[simp] theorem modCore_marcfgActive : (modCore s k f).marcfgActive = s.marcfgActive := rfl
@[simp] theorem modCore_mclass : (modCore s k f).mclass = s.mclass := rfl
@[simp] theorem modCore_accctl : (modCore s k f).accctl = s.accctl := rfl
@[simp] theorem modCore_accRing : (modCore s k f).accRing = s.accRing := rfl
@[simp] theorem modCore_accCounts : (modCore s k f).accCounts = s.accCounts := rfl
@[simp] theorem modCore_pubtab : (modCore s k f).pubtab = s.pubtab := rfl
@[simp] theorem modCore_redspill : (modCore s k f).redspill = s.redspill := rfl
@[simp] theorem modCore_redSpilled : (modCore s k f).redSpilled = s.redSpilled := rfl
@[simp] theorem modCore_errRing : (modCore s k f).errRing = s.errRing := rfl
@[simp] theorem modCore_rlmode : (modCore s k f).rlmode = s.rlmode := rfl
@[simp] theorem modCore_rrwatch : (modCore s k f).rrwatch = s.rrwatch := rfl
@[simp] theorem modCore_traceRing : (modCore s k f).traceRing = s.traceRing := rfl
@[simp] theorem modCore_counterRing : (modCore s k f).counterRing = s.counterRing := rfl
@[simp] theorem modCore_nextTick : (modCore s k f).nextTick = s.nextTick := rfl
@[simp] theorem modCore_logRing : (modCore s k f).logRing = s.logRing := rfl
@[simp] theorem modCore_logLost : (modCore s k f).logLost = s.logLost := rfl
@[simp] theorem modCore_logSeq : (modCore s k f).logSeq = s.logSeq := rfl
@[simp] theorem modCore_lqweight : (modCore s k f).lqweight = s.lqweight := rfl
@[simp] theorem modCore_dberr : (modCore s k f).dberr = s.dberr := rfl
@[simp] theorem modCore_lqerr : (modCore s k f).lqerr = s.lqerr := rfl
@[simp] theorem modCore_dbbind : (modCore s k f).dbbind = s.dbbind := rfl
@[simp] theorem modCore_pmt : (modCore s k f).pmt = s.pmt := rfl
@[simp] theorem modCore_pmtPartial : (modCore s k f).pmtPartial = s.pmtPartial := rfl
@[simp] theorem modCore_pmtpool : (modCore s k f).pmtpool = s.pmtpool := rfl
@[simp] theorem modCore_saved : (modCore s k f).saved = s.saved := rfl
@[simp] theorem modCore_killBusy : (modCore s k f).killBusy = s.killBusy := rfl
@[simp] theorem modCore_haltstat : (modCore s k f).haltstat = s.haltstat := rfl
@[simp] theorem modCore_haltpc : (modCore s k f).haltpc = s.haltpc := rfl
@[simp] theorem modCore_haltWaits : (modCore s k f).haltWaits = s.haltWaits := rfl
@[simp] theorem modCore_gridHalts : (modCore s k f).gridHalts = s.gridHalts := rfl
@[simp] theorem modCore_unitWaits : (modCore s k f).unitWaits = s.unitWaits := rfl
@[simp] theorem modCore_signals : (modCore s k f).signals = s.signals := rfl
@[simp] theorem modCore_queues : (modCore s k f).queues = s.queues := rfl
@[simp] theorem modCore_wrrPlace : (modCore s k f).wrrPlace = s.wrrPlace := rfl
@[simp] theorem modCore_wrrEngine : (modCore s k f).wrrEngine = s.wrrEngine := rfl
@[simp] theorem modCore_flight : (modCore s k f).flight = s.flight := rfl
@[simp] theorem modCore_grids : (modCore s k f).grids = s.grids := rfl
@[simp] theorem modCore_waits : (modCore s k f).waits = s.waits := rfl
@[simp] theorem modCore_cores : (modCore s k f).cores = kput s.cores k (f (getCore s k)) := rfl
@[simp] theorem modCore_teams : (modCore s k f).teams = s.teams := rfl
@[simp] theorem modCore_groups : (modCore s k f).groups = s.groups := rfl
@[simp] theorem modCore_threads : (modCore s k f).threads = s.threads := rfl
@[simp] theorem modCore_pubs : (modCore s k f).pubs = s.pubs := rfl
@[simp] theorem modCore_binq : (modCore s k f).binq = s.binq := rfl
@[simp] theorem modCore_rasterWaits : (modCore s k f).rasterWaits = s.rasterWaits := rfl
@[simp] theorem modCore_targets : (modCore s k f).targets = s.targets := rfl
@[simp] theorem modCore_errors : (modCore s k f).errors = s.errors := rfl
@[simp] theorem modCore_marrow : (modCore s k f).marrow = s.marrow := rfl
@[simp] theorem modCore_order : (modCore s k f).order = s.order := rfl
end modCore

section settleMem
variable (s : State) (pa n : Nat)
@[simp] theorem settleMem_clock : (settleMem s pa n).clock = s.clock := rfl
@[simp] theorem settleMem_booted : (settleMem s pa n).booted = s.booted := rfl
@[simp] theorem settleMem_fwBad : (settleMem s pa n).fwBad = s.fwBad := rfl
@[simp] theorem settleMem_secCount : (settleMem s pa n).secCount = s.secCount := rfl
@[simp] theorem settleMem_pwrCur : (settleMem s pa n).pwrCur = s.pwrCur := rfl
@[simp] theorem settleMem_pwrReq : (settleMem s pa n).pwrReq = s.pwrReq := rfl
@[simp] theorem settleMem_heldDoorbells : (settleMem s pa n).heldDoorbells = s.heldDoorbells := rfl
@[simp] theorem settleMem_ckptBusy : (settleMem s pa n).ckptBusy = s.ckptBusy := rfl
@[simp] theorem settleMem_ckptErr : (settleMem s pa n).ckptErr = s.ckptErr := rfl
@[simp] theorem settleMem_ckptBase : (settleMem s pa n).ckptBase = s.ckptBase := rfl
@[simp] theorem settleMem_ckptWait : (settleMem s pa n).ckptWait = s.ckptWait := rfl
@[simp] theorem settleMem_agenda : (settleMem s pa n).agenda = s.agenda := rfl
@[simp] theorem settleMem_focus : (settleMem s pa n).focus = s.focus := rfl
@[simp] theorem settleMem_fresh : (settleMem s pa n).fresh = s.fresh := rfl
@[simp] theorem settleMem_nextTeam : (settleMem s pa n).nextTeam = s.nextTeam := rfl
@[simp] theorem settleMem_mem : (settleMem s pa n).mem = s.mem := rfl
@[simp] theorem settleMem_poisonLines : (settleMem s pa n).poisonLines = s.poisonLines := rfl
@[simp] theorem settleMem_carve : (settleMem s pa n).carve = s.carve := rfl
@[simp] theorem settleMem_carvePoison : (settleMem s pa n).carvePoison = s.carvePoison := rfl
@[simp] theorem settleMem_retired : (settleMem s pa n).retired = s.retired := rfl
@[simp] theorem settleMem_peerUp : (settleMem s pa n).peerUp = s.peerUp := rfl
@[simp] theorem settleMem_unfitted : (settleMem s pa n).unfitted = s.unfitted := rfl
@[simp] theorem settleMem_astab : (settleMem s pa n).astab = s.astab := rfl
@[simp] theorem settleMem_tlbinv : (settleMem s pa n).tlbinv = s.tlbinv := rfl
@[simp] theorem settleMem_marcfgReq : (settleMem s pa n).marcfgReq = s.marcfgReq := rfl
@[simp] theorem settleMem_marcfgActive : (settleMem s pa n).marcfgActive = s.marcfgActive := rfl
@[simp] theorem settleMem_mclass : (settleMem s pa n).mclass = s.mclass := rfl
@[simp] theorem settleMem_accctl : (settleMem s pa n).accctl = s.accctl := rfl
@[simp] theorem settleMem_accRing : (settleMem s pa n).accRing = s.accRing := rfl
@[simp] theorem settleMem_accCounts : (settleMem s pa n).accCounts = s.accCounts := rfl
@[simp] theorem settleMem_pubtab : (settleMem s pa n).pubtab = s.pubtab := rfl
@[simp] theorem settleMem_redspill : (settleMem s pa n).redspill = s.redspill := rfl
@[simp] theorem settleMem_redSpilled : (settleMem s pa n).redSpilled = s.redSpilled := rfl
@[simp] theorem settleMem_errRing : (settleMem s pa n).errRing = s.errRing := rfl
@[simp] theorem settleMem_rlmode : (settleMem s pa n).rlmode = s.rlmode := rfl
@[simp] theorem settleMem_rrwatch : (settleMem s pa n).rrwatch = s.rrwatch := rfl
@[simp] theorem settleMem_traceRing : (settleMem s pa n).traceRing = s.traceRing := rfl
@[simp] theorem settleMem_counterRing : (settleMem s pa n).counterRing = s.counterRing := rfl
@[simp] theorem settleMem_nextTick : (settleMem s pa n).nextTick = s.nextTick := rfl
@[simp] theorem settleMem_logRing : (settleMem s pa n).logRing = s.logRing := rfl
@[simp] theorem settleMem_logLost : (settleMem s pa n).logLost = s.logLost := rfl
@[simp] theorem settleMem_logSeq : (settleMem s pa n).logSeq = s.logSeq := rfl
@[simp] theorem settleMem_lqweight : (settleMem s pa n).lqweight = s.lqweight := rfl
@[simp] theorem settleMem_dberr : (settleMem s pa n).dberr = s.dberr := rfl
@[simp] theorem settleMem_lqerr : (settleMem s pa n).lqerr = s.lqerr := rfl
@[simp] theorem settleMem_dbbind : (settleMem s pa n).dbbind = s.dbbind := rfl
@[simp] theorem settleMem_pmt : (settleMem s pa n).pmt = s.pmt := rfl
@[simp] theorem settleMem_pmtPartial : (settleMem s pa n).pmtPartial = s.pmtPartial := rfl
@[simp] theorem settleMem_pmtpool : (settleMem s pa n).pmtpool = s.pmtpool := rfl
@[simp] theorem settleMem_saved : (settleMem s pa n).saved = s.saved := rfl
@[simp] theorem settleMem_killBusy : (settleMem s pa n).killBusy = s.killBusy := rfl
@[simp] theorem settleMem_haltstat : (settleMem s pa n).haltstat = s.haltstat := rfl
@[simp] theorem settleMem_haltpc : (settleMem s pa n).haltpc = s.haltpc := rfl
@[simp] theorem settleMem_haltWaits : (settleMem s pa n).haltWaits = s.haltWaits := rfl
@[simp] theorem settleMem_gridHalts : (settleMem s pa n).gridHalts = s.gridHalts := rfl
@[simp] theorem settleMem_unitWaits : (settleMem s pa n).unitWaits = s.unitWaits := rfl
@[simp] theorem settleMem_signals : (settleMem s pa n).signals = s.signals := rfl
@[simp] theorem settleMem_queues : (settleMem s pa n).queues = s.queues := rfl
@[simp] theorem settleMem_wrrPlace : (settleMem s pa n).wrrPlace = s.wrrPlace := rfl
@[simp] theorem settleMem_wrrEngine : (settleMem s pa n).wrrEngine = s.wrrEngine := rfl
@[simp] theorem settleMem_flight : (settleMem s pa n).flight = s.flight := rfl
@[simp] theorem settleMem_grids : (settleMem s pa n).grids = s.grids := rfl
@[simp] theorem settleMem_waits : (settleMem s pa n).waits = s.waits := rfl
@[simp] theorem settleMem_cores : (settleMem s pa n).cores = s.cores := rfl
@[simp] theorem settleMem_teams : (settleMem s pa n).teams = s.teams := rfl
@[simp] theorem settleMem_groups : (settleMem s pa n).groups = s.groups := rfl
@[simp] theorem settleMem_threads : (settleMem s pa n).threads = s.threads := rfl
@[simp] theorem settleMem_pubs : (settleMem s pa n).pubs = s.pubs := rfl
@[simp] theorem settleMem_binq : (settleMem s pa n).binq = s.binq := rfl
@[simp] theorem settleMem_rasterWaits : (settleMem s pa n).rasterWaits = s.rasterWaits := rfl
@[simp] theorem settleMem_targets : (settleMem s pa n).targets = s.targets := rfl
@[simp] theorem settleMem_errors : (settleMem s pa n).errors = s.errors := rfl
@[simp] theorem settleMem_marrow : (settleMem s pa n).marrow = s.marrow := rfl
@[simp] theorem settleMem_order : (settleMem s pa n).order = { s.order with hist := s.order.hist.filter (fun e => decide (e.1 % 3 ≠ 0 ∨ e.1 < partOf (.phys pa) ∨ partOf (.phys (pa + n - 1)) < e.1)) } := rfl
end settleMem

section asAgent
variable (s : State) (a : Nat)
@[simp] theorem asAgent_clock : (asAgent s a).clock = s.clock := rfl
@[simp] theorem asAgent_booted : (asAgent s a).booted = s.booted := rfl
@[simp] theorem asAgent_fwBad : (asAgent s a).fwBad = s.fwBad := rfl
@[simp] theorem asAgent_secCount : (asAgent s a).secCount = s.secCount := rfl
@[simp] theorem asAgent_pwrCur : (asAgent s a).pwrCur = s.pwrCur := rfl
@[simp] theorem asAgent_pwrReq : (asAgent s a).pwrReq = s.pwrReq := rfl
@[simp] theorem asAgent_heldDoorbells : (asAgent s a).heldDoorbells = s.heldDoorbells := rfl
@[simp] theorem asAgent_ckptBusy : (asAgent s a).ckptBusy = s.ckptBusy := rfl
@[simp] theorem asAgent_ckptErr : (asAgent s a).ckptErr = s.ckptErr := rfl
@[simp] theorem asAgent_ckptBase : (asAgent s a).ckptBase = s.ckptBase := rfl
@[simp] theorem asAgent_ckptWait : (asAgent s a).ckptWait = s.ckptWait := rfl
@[simp] theorem asAgent_agenda : (asAgent s a).agenda = s.agenda := rfl
@[simp] theorem asAgent_focus : (asAgent s a).focus = s.focus := rfl
@[simp] theorem asAgent_fresh : (asAgent s a).fresh = s.fresh := rfl
@[simp] theorem asAgent_nextTeam : (asAgent s a).nextTeam = s.nextTeam := rfl
@[simp] theorem asAgent_mem : (asAgent s a).mem = s.mem := rfl
@[simp] theorem asAgent_poisonLines : (asAgent s a).poisonLines = s.poisonLines := rfl
@[simp] theorem asAgent_carve : (asAgent s a).carve = s.carve := rfl
@[simp] theorem asAgent_carvePoison : (asAgent s a).carvePoison = s.carvePoison := rfl
@[simp] theorem asAgent_retired : (asAgent s a).retired = s.retired := rfl
@[simp] theorem asAgent_peerUp : (asAgent s a).peerUp = s.peerUp := rfl
@[simp] theorem asAgent_unfitted : (asAgent s a).unfitted = s.unfitted := rfl
@[simp] theorem asAgent_astab : (asAgent s a).astab = s.astab := rfl
@[simp] theorem asAgent_tlbinv : (asAgent s a).tlbinv = s.tlbinv := rfl
@[simp] theorem asAgent_marcfgReq : (asAgent s a).marcfgReq = s.marcfgReq := rfl
@[simp] theorem asAgent_marcfgActive : (asAgent s a).marcfgActive = s.marcfgActive := rfl
@[simp] theorem asAgent_mclass : (asAgent s a).mclass = s.mclass := rfl
@[simp] theorem asAgent_accctl : (asAgent s a).accctl = s.accctl := rfl
@[simp] theorem asAgent_accRing : (asAgent s a).accRing = s.accRing := rfl
@[simp] theorem asAgent_accCounts : (asAgent s a).accCounts = s.accCounts := rfl
@[simp] theorem asAgent_pubtab : (asAgent s a).pubtab = s.pubtab := rfl
@[simp] theorem asAgent_redspill : (asAgent s a).redspill = s.redspill := rfl
@[simp] theorem asAgent_redSpilled : (asAgent s a).redSpilled = s.redSpilled := rfl
@[simp] theorem asAgent_errRing : (asAgent s a).errRing = s.errRing := rfl
@[simp] theorem asAgent_rlmode : (asAgent s a).rlmode = s.rlmode := rfl
@[simp] theorem asAgent_rrwatch : (asAgent s a).rrwatch = s.rrwatch := rfl
@[simp] theorem asAgent_traceRing : (asAgent s a).traceRing = s.traceRing := rfl
@[simp] theorem asAgent_counterRing : (asAgent s a).counterRing = s.counterRing := rfl
@[simp] theorem asAgent_nextTick : (asAgent s a).nextTick = s.nextTick := rfl
@[simp] theorem asAgent_logRing : (asAgent s a).logRing = s.logRing := rfl
@[simp] theorem asAgent_logLost : (asAgent s a).logLost = s.logLost := rfl
@[simp] theorem asAgent_logSeq : (asAgent s a).logSeq = s.logSeq := rfl
@[simp] theorem asAgent_lqweight : (asAgent s a).lqweight = s.lqweight := rfl
@[simp] theorem asAgent_dberr : (asAgent s a).dberr = s.dberr := rfl
@[simp] theorem asAgent_lqerr : (asAgent s a).lqerr = s.lqerr := rfl
@[simp] theorem asAgent_dbbind : (asAgent s a).dbbind = s.dbbind := rfl
@[simp] theorem asAgent_pmt : (asAgent s a).pmt = s.pmt := rfl
@[simp] theorem asAgent_pmtPartial : (asAgent s a).pmtPartial = s.pmtPartial := rfl
@[simp] theorem asAgent_pmtpool : (asAgent s a).pmtpool = s.pmtpool := rfl
@[simp] theorem asAgent_saved : (asAgent s a).saved = s.saved := rfl
@[simp] theorem asAgent_killBusy : (asAgent s a).killBusy = s.killBusy := rfl
@[simp] theorem asAgent_haltstat : (asAgent s a).haltstat = s.haltstat := rfl
@[simp] theorem asAgent_haltpc : (asAgent s a).haltpc = s.haltpc := rfl
@[simp] theorem asAgent_haltWaits : (asAgent s a).haltWaits = s.haltWaits := rfl
@[simp] theorem asAgent_gridHalts : (asAgent s a).gridHalts = s.gridHalts := rfl
@[simp] theorem asAgent_unitWaits : (asAgent s a).unitWaits = s.unitWaits := rfl
@[simp] theorem asAgent_signals : (asAgent s a).signals = s.signals := rfl
@[simp] theorem asAgent_queues : (asAgent s a).queues = s.queues := rfl
@[simp] theorem asAgent_wrrPlace : (asAgent s a).wrrPlace = s.wrrPlace := rfl
@[simp] theorem asAgent_wrrEngine : (asAgent s a).wrrEngine = s.wrrEngine := rfl
@[simp] theorem asAgent_flight : (asAgent s a).flight = s.flight := rfl
@[simp] theorem asAgent_grids : (asAgent s a).grids = s.grids := rfl
@[simp] theorem asAgent_waits : (asAgent s a).waits = s.waits := rfl
@[simp] theorem asAgent_cores : (asAgent s a).cores = s.cores := rfl
@[simp] theorem asAgent_teams : (asAgent s a).teams = s.teams := rfl
@[simp] theorem asAgent_groups : (asAgent s a).groups = s.groups := rfl
@[simp] theorem asAgent_threads : (asAgent s a).threads = s.threads := rfl
@[simp] theorem asAgent_pubs : (asAgent s a).pubs = s.pubs := rfl
@[simp] theorem asAgent_binq : (asAgent s a).binq = s.binq := rfl
@[simp] theorem asAgent_rasterWaits : (asAgent s a).rasterWaits = s.rasterWaits := rfl
@[simp] theorem asAgent_targets : (asAgent s a).targets = s.targets := rfl
@[simp] theorem asAgent_errors : (asAgent s a).errors = s.errors := rfl
@[simp] theorem asAgent_marrow : (asAgent s a).marrow = s.marrow := rfl
@[simp] theorem asAgent_order : (asAgent s a).order = { s.order with actor := a } := rfl
end asAgent

section giveTo
variable (s : State) (a : Nat) (k : SyncKey)
@[simp] theorem giveTo_clock : (giveTo s a k).clock = s.clock := rfl
@[simp] theorem giveTo_booted : (giveTo s a k).booted = s.booted := rfl
@[simp] theorem giveTo_fwBad : (giveTo s a k).fwBad = s.fwBad := rfl
@[simp] theorem giveTo_secCount : (giveTo s a k).secCount = s.secCount := rfl
@[simp] theorem giveTo_pwrCur : (giveTo s a k).pwrCur = s.pwrCur := rfl
@[simp] theorem giveTo_pwrReq : (giveTo s a k).pwrReq = s.pwrReq := rfl
@[simp] theorem giveTo_heldDoorbells : (giveTo s a k).heldDoorbells = s.heldDoorbells := rfl
@[simp] theorem giveTo_ckptBusy : (giveTo s a k).ckptBusy = s.ckptBusy := rfl
@[simp] theorem giveTo_ckptErr : (giveTo s a k).ckptErr = s.ckptErr := rfl
@[simp] theorem giveTo_ckptBase : (giveTo s a k).ckptBase = s.ckptBase := rfl
@[simp] theorem giveTo_ckptWait : (giveTo s a k).ckptWait = s.ckptWait := rfl
@[simp] theorem giveTo_agenda : (giveTo s a k).agenda = s.agenda := rfl
@[simp] theorem giveTo_focus : (giveTo s a k).focus = s.focus := rfl
@[simp] theorem giveTo_fresh : (giveTo s a k).fresh = s.fresh := rfl
@[simp] theorem giveTo_nextTeam : (giveTo s a k).nextTeam = s.nextTeam := rfl
@[simp] theorem giveTo_mem : (giveTo s a k).mem = s.mem := rfl
@[simp] theorem giveTo_poisonLines : (giveTo s a k).poisonLines = s.poisonLines := rfl
@[simp] theorem giveTo_carve : (giveTo s a k).carve = s.carve := rfl
@[simp] theorem giveTo_carvePoison : (giveTo s a k).carvePoison = s.carvePoison := rfl
@[simp] theorem giveTo_retired : (giveTo s a k).retired = s.retired := rfl
@[simp] theorem giveTo_peerUp : (giveTo s a k).peerUp = s.peerUp := rfl
@[simp] theorem giveTo_unfitted : (giveTo s a k).unfitted = s.unfitted := rfl
@[simp] theorem giveTo_astab : (giveTo s a k).astab = s.astab := rfl
@[simp] theorem giveTo_tlbinv : (giveTo s a k).tlbinv = s.tlbinv := rfl
@[simp] theorem giveTo_marcfgReq : (giveTo s a k).marcfgReq = s.marcfgReq := rfl
@[simp] theorem giveTo_marcfgActive : (giveTo s a k).marcfgActive = s.marcfgActive := rfl
@[simp] theorem giveTo_mclass : (giveTo s a k).mclass = s.mclass := rfl
@[simp] theorem giveTo_accctl : (giveTo s a k).accctl = s.accctl := rfl
@[simp] theorem giveTo_accRing : (giveTo s a k).accRing = s.accRing := rfl
@[simp] theorem giveTo_accCounts : (giveTo s a k).accCounts = s.accCounts := rfl
@[simp] theorem giveTo_pubtab : (giveTo s a k).pubtab = s.pubtab := rfl
@[simp] theorem giveTo_redspill : (giveTo s a k).redspill = s.redspill := rfl
@[simp] theorem giveTo_redSpilled : (giveTo s a k).redSpilled = s.redSpilled := rfl
@[simp] theorem giveTo_errRing : (giveTo s a k).errRing = s.errRing := rfl
@[simp] theorem giveTo_rlmode : (giveTo s a k).rlmode = s.rlmode := rfl
@[simp] theorem giveTo_rrwatch : (giveTo s a k).rrwatch = s.rrwatch := rfl
@[simp] theorem giveTo_traceRing : (giveTo s a k).traceRing = s.traceRing := rfl
@[simp] theorem giveTo_counterRing : (giveTo s a k).counterRing = s.counterRing := rfl
@[simp] theorem giveTo_nextTick : (giveTo s a k).nextTick = s.nextTick := rfl
@[simp] theorem giveTo_logRing : (giveTo s a k).logRing = s.logRing := rfl
@[simp] theorem giveTo_logLost : (giveTo s a k).logLost = s.logLost := rfl
@[simp] theorem giveTo_logSeq : (giveTo s a k).logSeq = s.logSeq := rfl
@[simp] theorem giveTo_lqweight : (giveTo s a k).lqweight = s.lqweight := rfl
@[simp] theorem giveTo_dberr : (giveTo s a k).dberr = s.dberr := rfl
@[simp] theorem giveTo_lqerr : (giveTo s a k).lqerr = s.lqerr := rfl
@[simp] theorem giveTo_dbbind : (giveTo s a k).dbbind = s.dbbind := rfl
@[simp] theorem giveTo_pmt : (giveTo s a k).pmt = s.pmt := rfl
@[simp] theorem giveTo_pmtPartial : (giveTo s a k).pmtPartial = s.pmtPartial := rfl
@[simp] theorem giveTo_pmtpool : (giveTo s a k).pmtpool = s.pmtpool := rfl
@[simp] theorem giveTo_saved : (giveTo s a k).saved = s.saved := rfl
@[simp] theorem giveTo_killBusy : (giveTo s a k).killBusy = s.killBusy := rfl
@[simp] theorem giveTo_haltstat : (giveTo s a k).haltstat = s.haltstat := rfl
@[simp] theorem giveTo_haltpc : (giveTo s a k).haltpc = s.haltpc := rfl
@[simp] theorem giveTo_haltWaits : (giveTo s a k).haltWaits = s.haltWaits := rfl
@[simp] theorem giveTo_gridHalts : (giveTo s a k).gridHalts = s.gridHalts := rfl
@[simp] theorem giveTo_unitWaits : (giveTo s a k).unitWaits = s.unitWaits := rfl
@[simp] theorem giveTo_signals : (giveTo s a k).signals = s.signals := rfl
@[simp] theorem giveTo_queues : (giveTo s a k).queues = s.queues := rfl
@[simp] theorem giveTo_wrrPlace : (giveTo s a k).wrrPlace = s.wrrPlace := rfl
@[simp] theorem giveTo_wrrEngine : (giveTo s a k).wrrEngine = s.wrrEngine := rfl
@[simp] theorem giveTo_flight : (giveTo s a k).flight = s.flight := rfl
@[simp] theorem giveTo_grids : (giveTo s a k).grids = s.grids := rfl
@[simp] theorem giveTo_waits : (giveTo s a k).waits = s.waits := rfl
@[simp] theorem giveTo_cores : (giveTo s a k).cores = s.cores := rfl
@[simp] theorem giveTo_teams : (giveTo s a k).teams = s.teams := rfl
@[simp] theorem giveTo_groups : (giveTo s a k).groups = s.groups := rfl
@[simp] theorem giveTo_threads : (giveTo s a k).threads = s.threads := rfl
@[simp] theorem giveTo_pubs : (giveTo s a k).pubs = s.pubs := rfl
@[simp] theorem giveTo_binq : (giveTo s a k).binq = s.binq := rfl
@[simp] theorem giveTo_rasterWaits : (giveTo s a k).rasterWaits = s.rasterWaits := rfl
@[simp] theorem giveTo_targets : (giveTo s a k).targets = s.targets := rfl
@[simp] theorem giveTo_errors : (giveTo s a k).errors = s.errors := rfl
@[simp] theorem giveTo_marrow : (giveTo s a k).marrow = s.marrow := rfl
@[simp] theorem giveTo_order : (giveTo s a k).order = addSync s.order k (viewOf s.order a) := rfl
end giveTo

section takeFrom
variable (s : State) (a : Nat) (k : SyncKey)
@[simp] theorem takeFrom_clock : (takeFrom s a k).clock = s.clock := rfl
@[simp] theorem takeFrom_booted : (takeFrom s a k).booted = s.booted := rfl
@[simp] theorem takeFrom_fwBad : (takeFrom s a k).fwBad = s.fwBad := rfl
@[simp] theorem takeFrom_secCount : (takeFrom s a k).secCount = s.secCount := rfl
@[simp] theorem takeFrom_pwrCur : (takeFrom s a k).pwrCur = s.pwrCur := rfl
@[simp] theorem takeFrom_pwrReq : (takeFrom s a k).pwrReq = s.pwrReq := rfl
@[simp] theorem takeFrom_heldDoorbells : (takeFrom s a k).heldDoorbells = s.heldDoorbells := rfl
@[simp] theorem takeFrom_ckptBusy : (takeFrom s a k).ckptBusy = s.ckptBusy := rfl
@[simp] theorem takeFrom_ckptErr : (takeFrom s a k).ckptErr = s.ckptErr := rfl
@[simp] theorem takeFrom_ckptBase : (takeFrom s a k).ckptBase = s.ckptBase := rfl
@[simp] theorem takeFrom_ckptWait : (takeFrom s a k).ckptWait = s.ckptWait := rfl
@[simp] theorem takeFrom_agenda : (takeFrom s a k).agenda = s.agenda := rfl
@[simp] theorem takeFrom_focus : (takeFrom s a k).focus = s.focus := rfl
@[simp] theorem takeFrom_fresh : (takeFrom s a k).fresh = s.fresh := rfl
@[simp] theorem takeFrom_nextTeam : (takeFrom s a k).nextTeam = s.nextTeam := rfl
@[simp] theorem takeFrom_mem : (takeFrom s a k).mem = s.mem := rfl
@[simp] theorem takeFrom_poisonLines : (takeFrom s a k).poisonLines = s.poisonLines := rfl
@[simp] theorem takeFrom_carve : (takeFrom s a k).carve = s.carve := rfl
@[simp] theorem takeFrom_carvePoison : (takeFrom s a k).carvePoison = s.carvePoison := rfl
@[simp] theorem takeFrom_retired : (takeFrom s a k).retired = s.retired := rfl
@[simp] theorem takeFrom_peerUp : (takeFrom s a k).peerUp = s.peerUp := rfl
@[simp] theorem takeFrom_unfitted : (takeFrom s a k).unfitted = s.unfitted := rfl
@[simp] theorem takeFrom_astab : (takeFrom s a k).astab = s.astab := rfl
@[simp] theorem takeFrom_tlbinv : (takeFrom s a k).tlbinv = s.tlbinv := rfl
@[simp] theorem takeFrom_marcfgReq : (takeFrom s a k).marcfgReq = s.marcfgReq := rfl
@[simp] theorem takeFrom_marcfgActive : (takeFrom s a k).marcfgActive = s.marcfgActive := rfl
@[simp] theorem takeFrom_mclass : (takeFrom s a k).mclass = s.mclass := rfl
@[simp] theorem takeFrom_accctl : (takeFrom s a k).accctl = s.accctl := rfl
@[simp] theorem takeFrom_accRing : (takeFrom s a k).accRing = s.accRing := rfl
@[simp] theorem takeFrom_accCounts : (takeFrom s a k).accCounts = s.accCounts := rfl
@[simp] theorem takeFrom_pubtab : (takeFrom s a k).pubtab = s.pubtab := rfl
@[simp] theorem takeFrom_redspill : (takeFrom s a k).redspill = s.redspill := rfl
@[simp] theorem takeFrom_redSpilled : (takeFrom s a k).redSpilled = s.redSpilled := rfl
@[simp] theorem takeFrom_errRing : (takeFrom s a k).errRing = s.errRing := rfl
@[simp] theorem takeFrom_rlmode : (takeFrom s a k).rlmode = s.rlmode := rfl
@[simp] theorem takeFrom_rrwatch : (takeFrom s a k).rrwatch = s.rrwatch := rfl
@[simp] theorem takeFrom_traceRing : (takeFrom s a k).traceRing = s.traceRing := rfl
@[simp] theorem takeFrom_counterRing : (takeFrom s a k).counterRing = s.counterRing := rfl
@[simp] theorem takeFrom_nextTick : (takeFrom s a k).nextTick = s.nextTick := rfl
@[simp] theorem takeFrom_logRing : (takeFrom s a k).logRing = s.logRing := rfl
@[simp] theorem takeFrom_logLost : (takeFrom s a k).logLost = s.logLost := rfl
@[simp] theorem takeFrom_logSeq : (takeFrom s a k).logSeq = s.logSeq := rfl
@[simp] theorem takeFrom_lqweight : (takeFrom s a k).lqweight = s.lqweight := rfl
@[simp] theorem takeFrom_dberr : (takeFrom s a k).dberr = s.dberr := rfl
@[simp] theorem takeFrom_lqerr : (takeFrom s a k).lqerr = s.lqerr := rfl
@[simp] theorem takeFrom_dbbind : (takeFrom s a k).dbbind = s.dbbind := rfl
@[simp] theorem takeFrom_pmt : (takeFrom s a k).pmt = s.pmt := rfl
@[simp] theorem takeFrom_pmtPartial : (takeFrom s a k).pmtPartial = s.pmtPartial := rfl
@[simp] theorem takeFrom_pmtpool : (takeFrom s a k).pmtpool = s.pmtpool := rfl
@[simp] theorem takeFrom_saved : (takeFrom s a k).saved = s.saved := rfl
@[simp] theorem takeFrom_killBusy : (takeFrom s a k).killBusy = s.killBusy := rfl
@[simp] theorem takeFrom_haltstat : (takeFrom s a k).haltstat = s.haltstat := rfl
@[simp] theorem takeFrom_haltpc : (takeFrom s a k).haltpc = s.haltpc := rfl
@[simp] theorem takeFrom_haltWaits : (takeFrom s a k).haltWaits = s.haltWaits := rfl
@[simp] theorem takeFrom_gridHalts : (takeFrom s a k).gridHalts = s.gridHalts := rfl
@[simp] theorem takeFrom_unitWaits : (takeFrom s a k).unitWaits = s.unitWaits := rfl
@[simp] theorem takeFrom_signals : (takeFrom s a k).signals = s.signals := rfl
@[simp] theorem takeFrom_queues : (takeFrom s a k).queues = s.queues := rfl
@[simp] theorem takeFrom_wrrPlace : (takeFrom s a k).wrrPlace = s.wrrPlace := rfl
@[simp] theorem takeFrom_wrrEngine : (takeFrom s a k).wrrEngine = s.wrrEngine := rfl
@[simp] theorem takeFrom_flight : (takeFrom s a k).flight = s.flight := rfl
@[simp] theorem takeFrom_grids : (takeFrom s a k).grids = s.grids := rfl
@[simp] theorem takeFrom_waits : (takeFrom s a k).waits = s.waits := rfl
@[simp] theorem takeFrom_cores : (takeFrom s a k).cores = s.cores := rfl
@[simp] theorem takeFrom_teams : (takeFrom s a k).teams = s.teams := rfl
@[simp] theorem takeFrom_groups : (takeFrom s a k).groups = s.groups := rfl
@[simp] theorem takeFrom_threads : (takeFrom s a k).threads = s.threads := rfl
@[simp] theorem takeFrom_pubs : (takeFrom s a k).pubs = s.pubs := rfl
@[simp] theorem takeFrom_binq : (takeFrom s a k).binq = s.binq := rfl
@[simp] theorem takeFrom_rasterWaits : (takeFrom s a k).rasterWaits = s.rasterWaits := rfl
@[simp] theorem takeFrom_targets : (takeFrom s a k).targets = s.targets := rfl
@[simp] theorem takeFrom_errors : (takeFrom s a k).errors = s.errors := rfl
@[simp] theorem takeFrom_marrow : (takeFrom s a k).marrow = s.marrow := rfl
@[simp] theorem takeFrom_order : (takeFrom s a k).order = learn s.order a (syncOf s.order k) := rfl
end takeFrom

section forget
variable (s : State) (k : SyncKey)
@[simp] theorem forget_clock : (forget s k).clock = s.clock := rfl
@[simp] theorem forget_booted : (forget s k).booted = s.booted := rfl
@[simp] theorem forget_fwBad : (forget s k).fwBad = s.fwBad := rfl
@[simp] theorem forget_secCount : (forget s k).secCount = s.secCount := rfl
@[simp] theorem forget_pwrCur : (forget s k).pwrCur = s.pwrCur := rfl
@[simp] theorem forget_pwrReq : (forget s k).pwrReq = s.pwrReq := rfl
@[simp] theorem forget_heldDoorbells : (forget s k).heldDoorbells = s.heldDoorbells := rfl
@[simp] theorem forget_ckptBusy : (forget s k).ckptBusy = s.ckptBusy := rfl
@[simp] theorem forget_ckptErr : (forget s k).ckptErr = s.ckptErr := rfl
@[simp] theorem forget_ckptBase : (forget s k).ckptBase = s.ckptBase := rfl
@[simp] theorem forget_ckptWait : (forget s k).ckptWait = s.ckptWait := rfl
@[simp] theorem forget_agenda : (forget s k).agenda = s.agenda := rfl
@[simp] theorem forget_focus : (forget s k).focus = s.focus := rfl
@[simp] theorem forget_fresh : (forget s k).fresh = s.fresh := rfl
@[simp] theorem forget_nextTeam : (forget s k).nextTeam = s.nextTeam := rfl
@[simp] theorem forget_mem : (forget s k).mem = s.mem := rfl
@[simp] theorem forget_poisonLines : (forget s k).poisonLines = s.poisonLines := rfl
@[simp] theorem forget_carve : (forget s k).carve = s.carve := rfl
@[simp] theorem forget_carvePoison : (forget s k).carvePoison = s.carvePoison := rfl
@[simp] theorem forget_retired : (forget s k).retired = s.retired := rfl
@[simp] theorem forget_peerUp : (forget s k).peerUp = s.peerUp := rfl
@[simp] theorem forget_unfitted : (forget s k).unfitted = s.unfitted := rfl
@[simp] theorem forget_astab : (forget s k).astab = s.astab := rfl
@[simp] theorem forget_tlbinv : (forget s k).tlbinv = s.tlbinv := rfl
@[simp] theorem forget_marcfgReq : (forget s k).marcfgReq = s.marcfgReq := rfl
@[simp] theorem forget_marcfgActive : (forget s k).marcfgActive = s.marcfgActive := rfl
@[simp] theorem forget_mclass : (forget s k).mclass = s.mclass := rfl
@[simp] theorem forget_accctl : (forget s k).accctl = s.accctl := rfl
@[simp] theorem forget_accRing : (forget s k).accRing = s.accRing := rfl
@[simp] theorem forget_accCounts : (forget s k).accCounts = s.accCounts := rfl
@[simp] theorem forget_pubtab : (forget s k).pubtab = s.pubtab := rfl
@[simp] theorem forget_redspill : (forget s k).redspill = s.redspill := rfl
@[simp] theorem forget_redSpilled : (forget s k).redSpilled = s.redSpilled := rfl
@[simp] theorem forget_errRing : (forget s k).errRing = s.errRing := rfl
@[simp] theorem forget_rlmode : (forget s k).rlmode = s.rlmode := rfl
@[simp] theorem forget_rrwatch : (forget s k).rrwatch = s.rrwatch := rfl
@[simp] theorem forget_traceRing : (forget s k).traceRing = s.traceRing := rfl
@[simp] theorem forget_counterRing : (forget s k).counterRing = s.counterRing := rfl
@[simp] theorem forget_nextTick : (forget s k).nextTick = s.nextTick := rfl
@[simp] theorem forget_logRing : (forget s k).logRing = s.logRing := rfl
@[simp] theorem forget_logLost : (forget s k).logLost = s.logLost := rfl
@[simp] theorem forget_logSeq : (forget s k).logSeq = s.logSeq := rfl
@[simp] theorem forget_lqweight : (forget s k).lqweight = s.lqweight := rfl
@[simp] theorem forget_dberr : (forget s k).dberr = s.dberr := rfl
@[simp] theorem forget_lqerr : (forget s k).lqerr = s.lqerr := rfl
@[simp] theorem forget_dbbind : (forget s k).dbbind = s.dbbind := rfl
@[simp] theorem forget_pmt : (forget s k).pmt = s.pmt := rfl
@[simp] theorem forget_pmtPartial : (forget s k).pmtPartial = s.pmtPartial := rfl
@[simp] theorem forget_pmtpool : (forget s k).pmtpool = s.pmtpool := rfl
@[simp] theorem forget_saved : (forget s k).saved = s.saved := rfl
@[simp] theorem forget_killBusy : (forget s k).killBusy = s.killBusy := rfl
@[simp] theorem forget_haltstat : (forget s k).haltstat = s.haltstat := rfl
@[simp] theorem forget_haltpc : (forget s k).haltpc = s.haltpc := rfl
@[simp] theorem forget_haltWaits : (forget s k).haltWaits = s.haltWaits := rfl
@[simp] theorem forget_gridHalts : (forget s k).gridHalts = s.gridHalts := rfl
@[simp] theorem forget_unitWaits : (forget s k).unitWaits = s.unitWaits := rfl
@[simp] theorem forget_signals : (forget s k).signals = s.signals := rfl
@[simp] theorem forget_queues : (forget s k).queues = s.queues := rfl
@[simp] theorem forget_wrrPlace : (forget s k).wrrPlace = s.wrrPlace := rfl
@[simp] theorem forget_wrrEngine : (forget s k).wrrEngine = s.wrrEngine := rfl
@[simp] theorem forget_flight : (forget s k).flight = s.flight := rfl
@[simp] theorem forget_grids : (forget s k).grids = s.grids := rfl
@[simp] theorem forget_waits : (forget s k).waits = s.waits := rfl
@[simp] theorem forget_cores : (forget s k).cores = s.cores := rfl
@[simp] theorem forget_teams : (forget s k).teams = s.teams := rfl
@[simp] theorem forget_groups : (forget s k).groups = s.groups := rfl
@[simp] theorem forget_threads : (forget s k).threads = s.threads := rfl
@[simp] theorem forget_pubs : (forget s k).pubs = s.pubs := rfl
@[simp] theorem forget_binq : (forget s k).binq = s.binq := rfl
@[simp] theorem forget_rasterWaits : (forget s k).rasterWaits = s.rasterWaits := rfl
@[simp] theorem forget_targets : (forget s k).targets = s.targets := rfl
@[simp] theorem forget_errors : (forget s k).errors = s.errors := rfl
@[simp] theorem forget_marrow : (forget s k).marrow = s.marrow := rfl
@[simp] theorem forget_order : (forget s k).order = setSync s.order k [] := rfl
end forget

section newEvent
variable (s : State) (a : Nat)
@[simp] theorem newEvent_clock : (newEvent s a).clock = s.clock := rfl
@[simp] theorem newEvent_booted : (newEvent s a).booted = s.booted := rfl
@[simp] theorem newEvent_fwBad : (newEvent s a).fwBad = s.fwBad := rfl
@[simp] theorem newEvent_secCount : (newEvent s a).secCount = s.secCount := rfl
@[simp] theorem newEvent_pwrCur : (newEvent s a).pwrCur = s.pwrCur := rfl
@[simp] theorem newEvent_pwrReq : (newEvent s a).pwrReq = s.pwrReq := rfl
@[simp] theorem newEvent_heldDoorbells : (newEvent s a).heldDoorbells = s.heldDoorbells := rfl
@[simp] theorem newEvent_ckptBusy : (newEvent s a).ckptBusy = s.ckptBusy := rfl
@[simp] theorem newEvent_ckptErr : (newEvent s a).ckptErr = s.ckptErr := rfl
@[simp] theorem newEvent_ckptBase : (newEvent s a).ckptBase = s.ckptBase := rfl
@[simp] theorem newEvent_ckptWait : (newEvent s a).ckptWait = s.ckptWait := rfl
@[simp] theorem newEvent_agenda : (newEvent s a).agenda = s.agenda := rfl
@[simp] theorem newEvent_focus : (newEvent s a).focus = s.focus := rfl
@[simp] theorem newEvent_fresh : (newEvent s a).fresh = s.fresh := rfl
@[simp] theorem newEvent_nextTeam : (newEvent s a).nextTeam = s.nextTeam := rfl
@[simp] theorem newEvent_mem : (newEvent s a).mem = s.mem := rfl
@[simp] theorem newEvent_poisonLines : (newEvent s a).poisonLines = s.poisonLines := rfl
@[simp] theorem newEvent_carve : (newEvent s a).carve = s.carve := rfl
@[simp] theorem newEvent_carvePoison : (newEvent s a).carvePoison = s.carvePoison := rfl
@[simp] theorem newEvent_retired : (newEvent s a).retired = s.retired := rfl
@[simp] theorem newEvent_peerUp : (newEvent s a).peerUp = s.peerUp := rfl
@[simp] theorem newEvent_unfitted : (newEvent s a).unfitted = s.unfitted := rfl
@[simp] theorem newEvent_astab : (newEvent s a).astab = s.astab := rfl
@[simp] theorem newEvent_tlbinv : (newEvent s a).tlbinv = s.tlbinv := rfl
@[simp] theorem newEvent_marcfgReq : (newEvent s a).marcfgReq = s.marcfgReq := rfl
@[simp] theorem newEvent_marcfgActive : (newEvent s a).marcfgActive = s.marcfgActive := rfl
@[simp] theorem newEvent_mclass : (newEvent s a).mclass = s.mclass := rfl
@[simp] theorem newEvent_accctl : (newEvent s a).accctl = s.accctl := rfl
@[simp] theorem newEvent_accRing : (newEvent s a).accRing = s.accRing := rfl
@[simp] theorem newEvent_accCounts : (newEvent s a).accCounts = s.accCounts := rfl
@[simp] theorem newEvent_pubtab : (newEvent s a).pubtab = s.pubtab := rfl
@[simp] theorem newEvent_redspill : (newEvent s a).redspill = s.redspill := rfl
@[simp] theorem newEvent_redSpilled : (newEvent s a).redSpilled = s.redSpilled := rfl
@[simp] theorem newEvent_errRing : (newEvent s a).errRing = s.errRing := rfl
@[simp] theorem newEvent_rlmode : (newEvent s a).rlmode = s.rlmode := rfl
@[simp] theorem newEvent_rrwatch : (newEvent s a).rrwatch = s.rrwatch := rfl
@[simp] theorem newEvent_traceRing : (newEvent s a).traceRing = s.traceRing := rfl
@[simp] theorem newEvent_counterRing : (newEvent s a).counterRing = s.counterRing := rfl
@[simp] theorem newEvent_nextTick : (newEvent s a).nextTick = s.nextTick := rfl
@[simp] theorem newEvent_logRing : (newEvent s a).logRing = s.logRing := rfl
@[simp] theorem newEvent_logLost : (newEvent s a).logLost = s.logLost := rfl
@[simp] theorem newEvent_logSeq : (newEvent s a).logSeq = s.logSeq := rfl
@[simp] theorem newEvent_lqweight : (newEvent s a).lqweight = s.lqweight := rfl
@[simp] theorem newEvent_dberr : (newEvent s a).dberr = s.dberr := rfl
@[simp] theorem newEvent_lqerr : (newEvent s a).lqerr = s.lqerr := rfl
@[simp] theorem newEvent_dbbind : (newEvent s a).dbbind = s.dbbind := rfl
@[simp] theorem newEvent_pmt : (newEvent s a).pmt = s.pmt := rfl
@[simp] theorem newEvent_pmtPartial : (newEvent s a).pmtPartial = s.pmtPartial := rfl
@[simp] theorem newEvent_pmtpool : (newEvent s a).pmtpool = s.pmtpool := rfl
@[simp] theorem newEvent_saved : (newEvent s a).saved = s.saved := rfl
@[simp] theorem newEvent_killBusy : (newEvent s a).killBusy = s.killBusy := rfl
@[simp] theorem newEvent_haltstat : (newEvent s a).haltstat = s.haltstat := rfl
@[simp] theorem newEvent_haltpc : (newEvent s a).haltpc = s.haltpc := rfl
@[simp] theorem newEvent_haltWaits : (newEvent s a).haltWaits = s.haltWaits := rfl
@[simp] theorem newEvent_gridHalts : (newEvent s a).gridHalts = s.gridHalts := rfl
@[simp] theorem newEvent_unitWaits : (newEvent s a).unitWaits = s.unitWaits := rfl
@[simp] theorem newEvent_signals : (newEvent s a).signals = s.signals := rfl
@[simp] theorem newEvent_queues : (newEvent s a).queues = s.queues := rfl
@[simp] theorem newEvent_wrrPlace : (newEvent s a).wrrPlace = s.wrrPlace := rfl
@[simp] theorem newEvent_wrrEngine : (newEvent s a).wrrEngine = s.wrrEngine := rfl
@[simp] theorem newEvent_flight : (newEvent s a).flight = s.flight := rfl
@[simp] theorem newEvent_grids : (newEvent s a).grids = s.grids := rfl
@[simp] theorem newEvent_waits : (newEvent s a).waits = s.waits := rfl
@[simp] theorem newEvent_cores : (newEvent s a).cores = s.cores := rfl
@[simp] theorem newEvent_teams : (newEvent s a).teams = s.teams := rfl
@[simp] theorem newEvent_groups : (newEvent s a).groups = s.groups := rfl
@[simp] theorem newEvent_threads : (newEvent s a).threads = s.threads := rfl
@[simp] theorem newEvent_pubs : (newEvent s a).pubs = s.pubs := rfl
@[simp] theorem newEvent_binq : (newEvent s a).binq = s.binq := rfl
@[simp] theorem newEvent_rasterWaits : (newEvent s a).rasterWaits = s.rasterWaits := rfl
@[simp] theorem newEvent_targets : (newEvent s a).targets = s.targets := rfl
@[simp] theorem newEvent_errors : (newEvent s a).errors = s.errors := rfl
@[simp] theorem newEvent_marrow : (newEvent s a).marrow = s.marrow := rfl
@[simp] theorem newEvent_order : (newEvent s a).order = setView { s.order with next := s.order.next + 1 } a (kput (viewOf s.order a) a (s.order.next + 1)) := rfl
end newEvent

end Sys2Proof.Machine
end

