-- ==== Sys2Proof/Laws/Access.lean ====
section
/-! SUPPORT. Records read after one of them has been changed. -/

namespace Sys2Proof.Machine

@[simp] theorem getThread_setThread (s : State) (k : Nat) (t : Thread) : getThread (setThread s k t) k = t := by
  simp [getThread]

theorem getThread_setThread_ne (s : State) (k j : Nat) (t : Thread) (h : j ≠ k) : getThread (setThread s k t) j = getThread s j := by
  simp [getThread, kfind_kput_ne s.threads k j t h]

@[simp] theorem getThread_modThread (s : State) (k : Nat) (f : Thread → Thread) : getThread (modThread s k f) k = f (getThread s k) := by
  simp [modThread]

theorem getThread_modThread_ne (s : State) (k j : Nat) (f : Thread → Thread) (h : j ≠ k) :
    getThread (modThread s k f) j = getThread s j := getThread_setThread_ne s k j _ h

@[simp] theorem getGroup_setGroup (s : State) (k : Nat) (t : Group) : getGroup (setGroup s k t) k = t := by
  simp [getGroup]

theorem getGroup_setGroup_ne (s : State) (k j : Nat) (t : Group) (h : j ≠ k) : getGroup (setGroup s k t) j = getGroup s j := by
  simp [getGroup, kfind_kput_ne s.groups k j t h]

@[simp] theorem getGroup_modGroup (s : State) (k : Nat) (f : Group → Group) : getGroup (modGroup s k f) k = f (getGroup s k) := by
  simp [modGroup]

@[simp] theorem getTeam_setTeam (s : State) (k : Nat) (t : Team) : getTeam (setTeam s k t) k = t := by
  simp [getTeam]

theorem getTeam_setTeam_ne (s : State) (k j : Nat) (t : Team) (h : j ≠ k) : getTeam (setTeam s k t) j = getTeam s j := by
  simp [getTeam, kfind_kput_ne s.teams k j t h]

@[simp] theorem getTeam_modTeam (s : State) (k : Nat) (f : Team → Team) : getTeam (modTeam s k f) k = f (getTeam s k) := by
  simp [modTeam]

@[simp] theorem getCore_setCore (s : State) (k : Nat) (t : Core) : getCore (setCore s k t) k = t := by
  simp [getCore]

theorem getCore_setCore_ne (s : State) (k j : Nat) (t : Core) (h : j ≠ k) : getCore (setCore s k t) j = getCore s j := by
  simp [getCore, kfind_kput_ne s.cores k j t h]

@[simp] theorem getCore_modCore (s : State) (k : Nat) (f : Core → Core) : getCore (modCore s k f) k = f (getCore s k) := by
  simp [modCore]

theorem getCore_modCore_ne (s : State) (k j : Nat) (f : Core → Core) (h : j ≠ k) : getCore (modCore s k f) j = getCore s j :=
  getCore_setCore_ne s k j _ h

/-- Records of one kind stay as they are while another kind changes: what is read depends on its own table alone. -/
theorem getThread_congr {s t : State} (h : s.threads = t.threads) (k : Nat) : getThread s k = getThread t k := by simp [getThread, h]
theorem getGroup_congr {s t : State} (h : s.groups = t.groups) (k : Nat) : getGroup s k = getGroup t k := by simp [getGroup, h]
theorem getTeam_congr {s t : State} (h : s.teams = t.teams) (k : Nat) : getTeam s k = getTeam t k := by simp [getTeam, h]
theorem getCore_congr {s t : State} (h : s.cores = t.cores) (k : Nat) : getCore s k = getCore t k := by simp [getCore, h]

@[simp] theorem getThread_setGroup (s : State) (g k : Nat) (x : Group) : getThread (setGroup s g x) k = getThread s k := rfl
@[simp] theorem getThread_setTeam (s : State) (g k : Nat) (x : Team) : getThread (setTeam s g x) k = getThread s k := rfl
@[simp] theorem getThread_setCore (s : State) (g k : Nat) (x : Core) : getThread (setCore s g x) k = getThread s k := rfl
@[simp] theorem getThread_modGroup (s : State) (g k : Nat) (f : Group → Group) : getThread (modGroup s g f) k = getThread s k := rfl
@[simp] theorem getThread_modTeam (s : State) (g k : Nat) (f : Team → Team) : getThread (modTeam s g f) k = getThread s k := rfl
@[simp] theorem getThread_modCore (s : State) (g k : Nat) (f : Core → Core) : getThread (modCore s g f) k = getThread s k := rfl
@[simp] theorem getGroup_setThread (s : State) (g k : Nat) (x : Thread) : getGroup (setThread s k x) g = getGroup s g := rfl
@[simp] theorem getGroup_setTeam (s : State) (g k : Nat) (x : Team) : getGroup (setTeam s k x) g = getGroup s g := rfl
@[simp] theorem getGroup_setCore (s : State) (g k : Nat) (x : Core) : getGroup (setCore s k x) g = getGroup s g := rfl
@[simp] theorem getGroup_modThread (s : State) (g k : Nat) (f : Thread → Thread) : getGroup (modThread s k f) g = getGroup s g := rfl
@[simp] theorem getGroup_modTeam (s : State) (g k : Nat) (f : Team → Team) : getGroup (modTeam s k f) g = getGroup s g := rfl
@[simp] theorem getGroup_modCore (s : State) (g k : Nat) (f : Core → Core) : getGroup (modCore s k f) g = getGroup s g := rfl
@[simp] theorem getTeam_setThread (s : State) (g k : Nat) (x : Thread) : getTeam (setThread s k x) g = getTeam s g := rfl
@[simp] theorem getTeam_setGroup (s : State) (g k : Nat) (x : Group) : getTeam (setGroup s k x) g = getTeam s g := rfl
@[simp] theorem getTeam_setCore (s : State) (g k : Nat) (x : Core) : getTeam (setCore s k x) g = getTeam s g := rfl
@[simp] theorem getTeam_modThread (s : State) (g k : Nat) (f : Thread → Thread) : getTeam (modThread s k f) g = getTeam s g := rfl
@[simp] theorem getTeam_modGroup (s : State) (g k : Nat) (f : Group → Group) : getTeam (modGroup s k f) g = getTeam s g := rfl
@[simp] theorem getTeam_modCore (s : State) (g k : Nat) (f : Core → Core) : getTeam (modCore s k f) g = getTeam s g := rfl
@[simp] theorem getCore_setThread (s : State) (g k : Nat) (x : Thread) : getCore (setThread s k x) g = getCore s g := rfl
@[simp] theorem getCore_setGroup (s : State) (g k : Nat) (x : Group) : getCore (setGroup s k x) g = getCore s g := rfl
@[simp] theorem getCore_setTeam (s : State) (g k : Nat) (x : Team) : getCore (setTeam s k x) g = getCore s g := rfl
@[simp] theorem getCore_modThread (s : State) (g k : Nat) (f : Thread → Thread) : getCore (modThread s k f) g = getCore s g := rfl
@[simp] theorem getCore_modGroup (s : State) (g k : Nat) (f : Group → Group) : getCore (modGroup s k f) g = getCore s g := rfl
@[simp] theorem getCore_modTeam (s : State) (g k : Nat) (f : Team → Team) : getCore (modTeam s k f) g = getCore s g := rfl

end Sys2Proof.Machine
end

