-- ==== Sys2Proof/Laws/Encode.lean ====
section
/-! SUPPORT. Slices of joined bit vectors, and what the decoder reads from the words the encoder writes, for each word format. -/

namespace Sys2Proof

open Sys2Proof.Machine

theorem slice_low {n m : Nat} (x : BitVec n) (y : BitVec m) (s l : Nat) (h : s + l ≤ m) :
    (x ++ y).extractLsb' s l = y.extractLsb' s l := by
  ext i hi
  simp [BitVec.getLsbD_append, show s + i < m by omega]

theorem slice_high {n m : Nat} (x : BitVec n) (y : BitVec m) (s l : Nat) (h : m ≤ s) :
    (x ++ y).extractLsb' s l = x.extractLsb' (s - m) l := by
  ext i hi
  simp only [BitVec.getElem_extractLsb', BitVec.getLsbD_append]
  rw [if_neg (by omega)]
  congr 1; omega

theorem slice_all {m : Nat} (y : BitVec m) : y.extractLsb' 0 m = y := by
  ext i hi; simp

theorem bit_slice {n : Nat} (y : BitVec n) (i : Nat) : y.getLsbD i = (y.extractLsb' i 1).getLsbD 0 := by simp

theorem ofBool_bit (k : Bool) : (BitVec.ofBool k).getLsbD 0 = k := by cases k <;> rfl

variable (op sub : BitVec 8) (l : Option Word)

/-- The first word of formats T and X gives back its fields. -/
theorem decT_word (k : Bool) (d a b : Code) (m : BitVec 2) :
    let w : Word := (BitVec.ofBool k ++ op ++ d ++ a ++ b ++ m : BitVec 32)
    opOf w = op.toNat ∧ decT w l = { k := k, d := d, a := a, b := b, m := m, lit := l } := by
  intro w
  have hw : w = (BitVec.ofBool k ++ op ++ d ++ a ++ b ++ m : BitVec (1 + 8 + 7 + 7 + 7 + 2)) := rfl
  unfold opOf decT kOf
  rw [hw, bit_slice]
  simp (disch := omega) only [slice_high, slice_low]
  exact ⟨congrArg BitVec.toNat (slice_all op), by simp only [slice_all, Nat.reduceSub, ofBool_bit]⟩

theorem decX_word (k : Bool) (d a b : Code) (m : BitVec 2) (c : Code) (e : BitVec 17) :
    let w : Word := (BitVec.ofBool k ++ op ++ d ++ a ++ b ++ m : BitVec 32)
    let x : Word := (sub ++ c ++ e : BitVec 32)
    subOf x = sub ∧ decX w x l = { k := k, d := d, a := a, b := b, m := m, c := c, e := e, lit := l } := by
  intro w x
  have hw : w = (BitVec.ofBool k ++ op ++ d ++ a ++ b ++ m : BitVec (1 + 8 + 7 + 7 + 7 + 2)) := rfl
  have hx : x = (sub ++ c ++ e : BitVec (8 + 7 + 17)) := rfl
  unfold subOf decX kOf
  rw [hw, hx, bit_slice]
  simp (disch := omega) only [slice_high, slice_low]
  exact ⟨slice_all sub, by simp only [slice_all, Nat.reduceSub, ofBool_bit]⟩

theorem decI_word (k : Bool) (d a : Code) (imm : BitVec 9) :
    let w : Word := (BitVec.ofBool k ++ op ++ d ++ a ++ imm : BitVec 32)
    opOf w = op.toNat ∧ decI w l = { k := k, d := d, a := a, imm := imm, lit := l } := by
  intro w
  have hw : w = (BitVec.ofBool k ++ op ++ d ++ a ++ imm : BitVec (1 + 8 + 7 + 7 + 9)) := rfl
  unfold opOf decI kOf
  rw [hw, bit_slice]
  simp (disch := omega) only [slice_high, slice_low]
  exact ⟨congrArg BitVec.toNat (slice_all op), by simp only [slice_all, Nat.reduceSub, ofBool_bit]⟩

theorem decJ_word (k : Bool) (p : BitVec 3) (n : Bool) (off : BitVec 19) :
    let w : Word := (BitVec.ofBool k ++ op ++ p ++ BitVec.ofBool n ++ off : BitVec 32)
    opOf w = op.toNat ∧ decJ w = { k := k, p := p, n := n, off := off } := by
  intro w
  have hw : w = (BitVec.ofBool k ++ op ++ p ++ BitVec.ofBool n ++ off : BitVec (1 + 8 + 3 + 1 + 19)) := rfl
  unfold opOf decJ kOf
  rw [hw, bit_slice _ 31, bit_slice _ 19]
  simp (disch := omega) only [slice_high, slice_low]
  exact ⟨congrArg BitVec.toNat (slice_all op), by simp only [slice_all, Nat.reduceSub, ofBool_bit]⟩

theorem decW_word (k : Bool) (d : Code) (imm : BitVec 16) :
    let w : Word := (BitVec.ofBool k ++ op ++ d ++ imm : BitVec 32)
    opOf w = op.toNat ∧ decW w l = { k := k, d := d, imm := imm, lit := l } := by
  intro w
  have hw : w = (BitVec.ofBool k ++ op ++ d ++ imm : BitVec (1 + 8 + 7 + 16)) := rfl
  unfold opOf decW kOf
  rw [hw, bit_slice]
  simp (disch := omega) only [slice_high, slice_low]
  exact ⟨congrArg BitVec.toNat (slice_all op), by simp only [slice_all, Nat.reduceSub, ofBool_bit]⟩

/-- An instruction and its literal come back from the words after its own, when it takes a literal exactly as it has one. -/
theorem addLit_of (d : Option Word → Option Instr) (op sub : Nat) (g : Option Word → Instr) (rest : List Word)
    (hd : ∀ l, d l = some (g l)) (ht : takesLit (g none) = l.isSome) :
    addLit d op sub (litList l ++ rest) = .ok (g l, rest) := by
  unfold addLit
  rw [hd none]
  cases l <;> simp [ht, litList, hd]

variable {f : Form}

/-- A well-formed instruction has a literal exactly when it takes one. -/
theorem lit_of_wf {i : Instr} {r : Raw} (h : wellFormed f i = true) (hr : instrRaw i = some r) : takesLit i = r.lit.isSome := by
  unfold wellFormed litFits at h
  simp only [hr, Bool.and_eq_true, decide_eq_true_eq] at h
  exact h.1.2.symm

/-- A well-formed instruction's fields are as its encoding says. -/
theorem fields_of_wf {i : Instr} {r : Raw} (h : wellFormed f i = true) (hr : instrRaw i = some r) : fieldsOk i r = true := by
  unfold wellFormed legal at h
  simp only [hr, Bool.and_eq_true] at h
  exact h.1.1.1.1.2

theorem roundT (C : TForm → Instr) (w : TForm) (rest : List Word) (hop : op.toNat < 0xE0)
    (hi : ∀ l, instrT op.toNat { w with lit := l } = some (C { w with lit := l }))
    (hl : takesLit (C { w with lit := none }) = w.lit.isSome) :
    decodeWords (encT op w ++ rest) = .ok (C w, rest) := by
  obtain ⟨k, d, a, b, m, l⟩ := w
  have hd := fun l => decT_word op l k d a b m
  unfold encT decodeWords
  simp only [List.cons_append, (hd none).1]
  rw [if_pos (by omega)]
  exact addLit_of l _ _ 0 (fun l => C ⟨k, d, a, b, m, l⟩) rest
    (fun l => by unfold instrOne; simp only [(hd none).1, (hd l).2]; have := hi l; simp only at this; rw [this]) hl

theorem roundI (C : IForm → Instr) (w : IForm) (rest : List Word) (hop : op.toNat < 0xE0)
    (ht : ∀ w, instrT op.toNat w = none) (hi : ∀ l, instrI op.toNat { w with lit := l } = some (C { w with lit := l }))
    (hl : takesLit (C { w with lit := none }) = w.lit.isSome) :
    decodeWords (encI op w ++ rest) = .ok (C w, rest) := by
  obtain ⟨k, d, a, imm, l⟩ := w
  have hd := fun l => decI_word op l k d a imm
  unfold encI decodeWords
  simp only [List.cons_append, (hd none).1]
  rw [if_pos (by omega)]
  exact addLit_of l _ _ 0 (fun l => C ⟨k, d, a, imm, l⟩) rest
    (fun l => by unfold instrOne; simp only [(hd none).1, (hd l).2, ht]; have := hi l; simp only at this; rw [this]) hl

theorem roundW (C : WForm → Instr) (w : WForm) (rest : List Word) (hop : op.toNat < 0xE0)
    (ht : ∀ w, instrT op.toNat w = none) (hti : ∀ w, instrI op.toNat w = none) (htj : ∀ w, instrJ op.toNat w = none)
    (hi : ∀ l, instrW op.toNat { w with lit := l } = some (C { w with lit := l }))
    (hl : takesLit (C { w with lit := none }) = w.lit.isSome) :
    decodeWords (encW op w ++ rest) = .ok (C w, rest) := by
  obtain ⟨k, d, imm, l⟩ := w
  have hd := fun l => decW_word op l k d imm
  unfold encW decodeWords
  simp only [List.cons_append, (hd none).1]
  rw [if_pos (by omega)]
  exact addLit_of l _ _ 0 (fun l => C ⟨k, d, imm, l⟩) rest
    (fun l => by unfold instrOne; simp only [(hd none).1, (hd l).2, ht, hti, htj]; have := hi l; simp only at this; rw [this]) hl

theorem roundJ (C : JForm → Instr) (w : JForm) (rest : List Word) (hop : op.toNat < 0xE0)
    (ht : ∀ w, instrT op.toNat w = none) (hti : ∀ w, instrI op.toNat w = none) (hi : instrJ op.toNat w = some (C w))
    (hl : takesLit (C w) = false) : decodeWords (encJ op w ++ rest) = .ok (C w, rest) := by
  obtain ⟨k, p, n, off⟩ := w
  have hd := decJ_word op k p n off
  unfold encJ decodeWords
  simp only [List.cons_append, List.nil_append, hd.1]
  rw [if_pos (by omega)]
  exact addLit_of none _ _ 0 (fun _ => C ⟨k, p, n, off⟩) rest
    (fun l => by unfold instrOne; simp only [hd.1, hd.2, ht, hti, hi]) hl

theorem roundX (C : XForm → Instr) (w : XForm) (rest : List Word) (hop : 0xF0 ≤ op.toNat ∧ op.toNat ≤ 0xF6)
    (hi : ∀ l, instrX op.toNat sub { w with lit := l } = some (C { w with lit := l }))
    (hl : takesLit (C { w with lit := none }) = w.lit.isSome) :
    decodeWords (encX op sub w ++ rest) = .ok (C w, rest) := by
  obtain ⟨k, d, a, b, m, c, e, l⟩ := w
  have hd := (decT_word op none k d a b m).1
  have hx := fun l => decX_word op sub l k d a b m c e
  unfold encX decodeWords
  simp only [List.cons_append, hd, (hx none).1]
  rw [if_neg (by omega), if_neg (by omega)]
  exact addLit_of l _ _ _ (fun l => C ⟨k, d, a, b, m, c, e, l⟩) rest
    (fun l => by simp only [(hx l).2]; exact hi l) hl

theorem roundFrame (w : Word) (i : Instr) (rest : List Word) (n : Nat) (hn : opOf w = n) (hop : 0xE0 ≤ n ∧ n ≤ 0xE2)
    (hi : ∀ l, instrOne w l = some i) (hl : takesLit i = false) : decodeWords (w :: rest) = .ok (i, rest) := by
  unfold decodeWords
  simp only [hn]
  rw [if_pos (by omega)]
  exact addLit_of none _ _ 0 (fun _ => i) rest (fun l => hi l) hl

theorem roundRunh (w : RunhForm) (rest : List Word) : decodeWords (encRunh w ++ rest) = .ok (.runh w, rest) := by
  obtain ⟨k, len, hint, x⟩ := w
  have hw : (BitVec.ofBool k ++ 0xE0#8 ++ len ++ hint ++ x : BitVec 32) = (BitVec.ofBool k ++ 0xE0#8 ++ len ++ hint ++ x : BitVec (1 + 8 + 5 + 2 + 16)) := rfl
  have ho : opOf (BitVec.ofBool k ++ 0xE0#8 ++ len ++ hint ++ x : BitVec 32) = 0xE0 := by
    unfold opOf; rw [hw]; simp (disch := omega) only [slice_high, slice_low]; exact congrArg BitVec.toNat (slice_all 0xE0#8)
  refine roundFrame _ _ rest 0xE0 ho (by decide) (fun l => ?_) rfl
  have hd : decRunh (BitVec.ofBool k ++ 0xE0#8 ++ len ++ hint ++ x : BitVec 32) = ⟨k, len, hint, x⟩ := by
    unfold decRunh kOf
    rw [hw, bit_slice]
    simp (disch := omega) only [slice_high, slice_low]
    simp only [slice_all, Nat.reduceSub, ofBool_bit]
  unfold instrOne
  simp only [ho, hd]
  rfl

theorem roundRunt (w : RuntForm) (rest : List Word) : decodeWords (encRunt w ++ rest) = .ok (.runt w, rest) := by
  obtain ⟨k, w1, w2, w3, hint⟩ := w
  have hw : (BitVec.ofBool k ++ 0xE1#8 ++ w1 ++ w2 ++ w3 ++ hint : BitVec 32) = (BitVec.ofBool k ++ 0xE1#8 ++ w1 ++ w2 ++ w3 ++ hint : BitVec (1 + 8 + 7 + 7 + 7 + 2)) := rfl
  have ho : opOf (BitVec.ofBool k ++ 0xE1#8 ++ w1 ++ w2 ++ w3 ++ hint : BitVec 32) = 0xE1 := by
    unfold opOf; rw [hw]; simp (disch := omega) only [slice_high, slice_low]; exact congrArg BitVec.toNat (slice_all 0xE1#8)
  refine roundFrame _ _ rest 0xE1 ho (by decide) (fun l => ?_) rfl
  have hd : decRunt (BitVec.ofBool k ++ 0xE1#8 ++ w1 ++ w2 ++ w3 ++ hint : BitVec 32) = ⟨k, w1, w2, w3, hint⟩ := by
    unfold decRunt kOf
    rw [hw, bit_slice]
    simp (disch := omega) only [slice_high, slice_low]
    simp only [slice_all, Nat.reduceSub, ofBool_bit]
  unfold instrOne
  simp only [ho, hd]
  rfl

theorem roundPad (w : PadForm) (rest : List Word) : decodeWords (encPad w ++ rest) = .ok (.pad w, rest) := by
  obtain ⟨k, hint⟩ := w
  have hw : (BitVec.ofBool k ++ 0xE2#8 ++ hint : BitVec 32) = (BitVec.ofBool k ++ 0xE2#8 ++ hint : BitVec (1 + 8 + 23)) := rfl
  have ho : opOf (BitVec.ofBool k ++ 0xE2#8 ++ hint : BitVec 32) = 0xE2 := by
    unfold opOf; rw [hw]; simp (disch := omega) only [slice_high, slice_low]; exact congrArg BitVec.toNat (slice_all 0xE2#8)
  refine roundFrame _ _ rest 0xE2 ho (by decide) (fun l => ?_) rfl
  have hd : decPad (BitVec.ofBool k ++ 0xE2#8 ++ hint : BitVec 32) = ⟨k, hint⟩ := by
    unfold decPad kOf
    rw [hw, bit_slice]
    simp (disch := omega) only [slice_high, slice_low]
    simp only [slice_all, Nat.reduceSub, ofBool_bit]
  unfold instrOne
  simp only [ho, hd]
  rfl

end Sys2Proof
end

