-- ==== Sys2Proof/Laws/Memory.lean ====
section
/-! SUPPORT. Memory: its canonical form, which every operation that writes it keeps, and reading after writing. -/

namespace Sys2Proof.Machine

theorem reset_memory_wf : Memory.wf State.reset.mem = true := rfl

theorem wf_foldl (f : Nat × Byte → Nat) : ∀ (bs : KMap Byte) (m : KMap Byte), kwf 0 m = true →
    kwf 0 (bs.foldl (fun m b => kset 0 m (f b) b.2) m) = true
  | [], _, h => h
  | b :: bs, m, h => wf_foldl f bs _ (kwf_kset 0 m _ b.2 h)

theorem wf_setBytes (s : State) (l : Loc) (bs : KMap Byte) (h : Memory.wf s.mem = true) : Memory.wf (setBytes s l bs).mem = true := by
  cases l with
  | phys pa => exact wf_foldl _ bs _ h
  | scratch tm o => exact h
  | carve o => exact h

theorem wf_writePart (s : State) (a : Nat) (acc : Acc) (l : Loc) (bs : KMap Byte) (c : Nat) (rs : List Release) (h : Memory.wf s.mem = true) :
    Memory.wf (writePart s a acc l bs c rs).mem = true := wf_setBytes _ l _ h

/-- A free choice changes no more than the counter of free values. -/
theorem choosePlace_state (s : State) (cs : List Nat) : ∃ n, (choosePlace s cs).2 = { s with fresh := n } := by
  unfold choosePlace
  split
  · exact ⟨s.fresh, rfl⟩
  · exact ⟨_, rfl⟩

theorem wf_writePieces (a : Nat) (acc : Acc) : ∀ (ns : List Nat) (l : Loc) (bs : List Byte) (s : State), Memory.wf s.mem = true →
    Memory.wf (writePieces a acc l ns bs s).mem = true := by
  intro ns
  induction ns with
  | nil => intro l bs s h; exact h
  | cons n r ih =>
    intro l bs s h
    simp only [writePieces]
    apply ih
    split
    · split <;> exact h
    · apply wf_writePart
      obtain ⟨m, hm⟩ := choosePlace_state (if acc.rel then { s with order := { s.order with selfFence := kput s.order.selfFence a s.order.next } } else s)
        (depths _ a acc l ((softBytes _ l (bs.take n)).map (·.1)))
      rw [hm]
      split <;> exact h

theorem wf_writeAs (s : State) (a : Nat) (acc : Acc) (l : Loc) (bs : List Byte) (h : Memory.wf s.mem = true) :
    Memory.wf (writeAs s a acc l bs).mem = true := wf_writePieces a acc _ l bs s h

/-- A unit's write changes memory and the order of writes alone. -/
theorem unitPieces_state (a : Nat) (acc : Acc) : ∀ (ns : List Nat) (pa : Nat) (bs : List Byte) (s : State),
    ∃ m o, unitPieces a acc (.phys pa) ns bs s = { s with mem := m, order := o } := by
  intro ns
  induction ns with
  | nil => intro pa bs s; exact ⟨s.mem, s.order, rfl⟩
  | cons n r ih =>
    intro pa bs s
    obtain ⟨m, o, h⟩ := ih (pa + n) (bs.drop n) (writePart s a acc (.phys pa) (pieceBytes (.phys pa) (bs.take n)) 0 [])
    exact ⟨m, o, by simp only [unitPieces, Loc.plus]; rw [h]; rfl⟩

theorem unitWrite_state (s : State) (a pa : Nat) (bs : List Byte) : ∃ m o, unitWrite s a pa bs = { s with mem := m, order := o } :=
  unitPieces_state a drainAcc _ pa bs s

theorem wf_unitPieces (a : Nat) (acc : Acc) : ∀ (ns : List Nat) (l : Loc) (bs : List Byte) (s : State), Memory.wf s.mem = true →
    Memory.wf (unitPieces a acc l ns bs s).mem = true := by
  intro ns
  induction ns with
  | nil => intro l bs s h; exact h
  | cons n r ih => intro l bs s h; exact ih _ _ _ (wf_writePart s a acc l _ 0 [] h)

theorem wf_unitWrite (s : State) (a pa : Nat) (bs : List Byte) (h : Memory.wf s.mem = true) : Memory.wf (unitWrite s a pa bs).mem = true :=
  wf_unitPieces a drainAcc _ _ bs s h

theorem wf_ringWrite (s : State) (r : Ring) (sz : Nat) (recs : List (List Byte)) (h : Memory.wf s.mem = true) :
    Memory.wf (ringWrite s r sz recs).1.mem = true := by
  have fold : ∀ (l : List (List Byte)) (a : State × Ring), Memory.wf a.1.mem = true →
      Memory.wf (l.foldl (fun (a : State × Ring) b =>
        (unitWrite a.1 launchAgent (ringAt a.2 sz a.2.head.toNat) b, { a.2 with head := a.2.head + 1 })) a).1.mem = true := by
    intro l
    induction l with
    | nil => intro a h; exact h
    | cons b bs ih => intro a h; exact ih _ (wf_unitWrite a.1 _ _ b h)
  unfold ringWrite
  split
  · exact h
  · exact fold recs (s, r) h

theorem wf_bringUp (b : Boot) (s : State) (h : Memory.wf s.mem = true) : Memory.wf (bringUp b s).mem = true := by
  have core : ∀ (cs : List Nat) (s : State), Memory.wf s.mem = true →
      Memory.wf (cs.foldl (fun s c => modCore s c (fun x => { x with fenced := true })) s).mem = true := by
    intro cs
    induction cs with
    | nil => intro s h; exact h
    | cons c cs ih => intro s h; exact ih _ h
  unfold bringUp
  split
  · exact h
  · split
    · exact h
    · exact kwf_filter 0 _ _ (core _ s h)

theorem wf_copyTable (m : KMap Byte) (base n : Nat) (mem : KMap Byte) (h : kwf 0 mem = true) : kwf 0 (copyTable m base n mem) = true := by
  have fold : ∀ (es : List (Nat × Byte)) (a : KMap Byte), kwf 0 a = true →
      kwf 0 (es.foldl (fun a e => kset 0 a (base + e.1) e.2) a) = true := by
    intro es
    induction es with
    | nil => intro a h; exact h
    | cons e es ih => intro a h; exact ih _ (kwf_kset 0 a _ _ h)
  exact fold _ _ (kwf_filter 0 mem _ h)

theorem wf_copyBadLines (bad : List Nat) (base n : Nat) (s : State) (h : Memory.wf s.mem = true) : Memory.wf (copyBadLines bad base n s).mem = true := by
  unfold copyBadLines
  generalize bad.filter _ = ls
  induction ls generalizing s with
  | nil => exact h
  | cons l ls ih => exact ih _ (kwf_ksetList 0 _ _ _ h)

theorem wf_endCheckpoint (failed : Bool) (s : State) (h : Memory.wf s.mem = true) : Memory.wf (endCheckpoint failed s).mem = true := by
  have copy : ∀ (n : Nat) (s : State), Memory.wf s.mem = true → Memory.wf (copyOut n s).mem = true := by
    intro n s h
    exact wf_copyBadLines _ _ _ _ (wf_copyBadLines _ _ _ _ (wf_copyTable _ _ _ _ (wf_copyTable _ _ _ _ h)))
  unfold endCheckpoint
  split
  · exact h
  · split
    · exact copy _ _ h
    · exact copy _ _ h

/-- A byte outside the bytes that a part is set to reads as before. -/
theorem byte_setBytes_ne (s : State) (pa a : Nat) : ∀ (bs : KMap Byte), (∀ b ∈ bs, pa / 8 * 8 + b.1 ≠ a) →
    kget 0 (setBytes s (.phys pa) bs).mem a = kget 0 s.mem a := by
  have fold : ∀ (bs : KMap Byte) (m : KMap Byte), (∀ b ∈ bs, pa / 8 * 8 + b.1 ≠ a) →
      kget 0 (bs.foldl (fun m b => kset 0 m (pa / 8 * 8 + b.1) b.2) m) a = kget 0 m a := by
    intro bs
    induction bs with
    | nil => intro m _; rfl
    | cons b bs ih =>
      intro m h
      rw [List.foldl_cons, ih _ (fun c hc => h c (List.mem_cons_of_mem _ hc)), kget_kset_ne 0 m _ a b.2 (h b (by simp)).symm]
  exact fun bs h => fold bs s.mem h

end Sys2Proof.Machine
end

