-- ==== Sys2Proof/Laws/Frame.lean ====
section
/-! SUPPORT. What the run record's notes leave alone, how a thread alone in its bundle executes an instruction, and how a bundle goes on. -/

namespace Sys2Proof.Machine

-- the run record

/-- A ring's records change memory alone, and settle the writes that stood there. -/
theorem ringWrite_state (s : State) (r : Ring) (sz : Nat) (recs : List (List Byte)) :
    ∃ m o, (ringWrite s r sz recs).1 = { s with mem := m, order := o } := by
  have fold : ∀ (l : List (List Byte)) (a : State × Ring), (∃ m o, a.1 = { s with mem := m, order := o }) →
      ∃ m o, (l.foldl (fun (a : State × Ring) b =>
        (unitWrite a.1 launchAgent (ringAt a.2 sz a.2.head.toNat) b, { a.2 with head := a.2.head + 1 })) a).1 = { s with mem := m, order := o } := by
    intro l
    induction l with
    | nil => intro a h; exact h
    | cons b bs ih =>
      intro a h
      obtain ⟨m, o, hm⟩ := h
      obtain ⟨m2, o2, h2⟩ := unitWrite_state a.1 launchAgent (ringAt a.2 sz a.2.head.toNat) b
      exact ih _ ⟨m2, o2, by dsimp only; rw [h2, hm]⟩
  unfold ringWrite
  split
  · exact ⟨s.mem, s.order, rfl⟩
  · exact fold recs (s, r) ⟨s.mem, s.order, rfl⟩

/-- A trace record changes memory, with the writes that stood there, and the trace ring alone. -/
theorem trace_state (s : State) (bit kind : Nat) (a : TraceAt) (arg : List Byte) :
    ∃ m o r, trace s bit kind a arg = { s with mem := m, order := o, traceRing := r } := by
  unfold trace
  split
  · obtain ⟨m, o, hm⟩ := ringWrite_state s s.traceRing 64 [traceBytes s.clock kind a arg]
    exact ⟨m, o, _, by unfold traceWrite; simp only [hm]; rfl⟩
  · exact ⟨s.mem, s.order, s.traceRing, rfl⟩

/-- WATCH records change memory, with the writes that stood there, and the trace ring alone. -/
theorem watch_state (s : State) (b : Bundle) : ∃ m o r, watch s b = { s with mem := m, order := o, traceRing := r } := by
  have fold : ∀ (f : State → Nat → State), (∀ s g, ∃ m o r, f s g = { s with mem := m, order := o, traceRing := r }) → ∀ (gs : List Nat)
      (s : State), ∃ m o r, gs.foldl f s = { s with mem := m, order := o, traceRing := r } := by
    intro f hf gs
    induction gs with
    | nil => intro s; exact ⟨s.mem, s.order, s.traceRing, rfl⟩
    | cons g gs ih =>
      intro s
      obtain ⟨m, o, r, h⟩ := hf s g
      obtain ⟨m', o', r', h'⟩ := ih (f s g)
      exact ⟨m', o', r', by rw [List.foldl_cons, h', h]⟩
  unfold watch
  extract_lets at_
  by_cases hw : s.rlmode.getLsbD 3 = true ∧ at_ = b.pc
  · rw [if_pos hw]
    apply fold
    intro s g
    dsimp only
    split
    · exact ⟨s.mem, s.order, s.traceRing, rfl⟩
    · exact trace_state _ _ _ _ _
  · rw [if_neg hw]
    exact ⟨s.mem, s.order, s.traceRing, rfl⟩

/-- The notes of an issue change memory, with the writes that stood there, the trace ring and the cores' counters alone. -/
theorem noteIssue_state (s : State) (core : Nat) (b : Bundle) (i : Instr) :
    ∃ m o r cs, noteIssue s core b i = { s with mem := m, order := o, traceRing := r, cores := cs } := by
  unfold noteIssue
  split
  · exact ⟨s.mem, s.order, s.traceRing, s.cores, rfl⟩
  · obtain ⟨m, o, r, h⟩ := watch_state s b
    rw [h]
    dsimp only
    split
    · exact ⟨m, o, r, _, rfl⟩
    · exact ⟨m, o, r, s.cores, rfl⟩

/-- With no run record on, nothing is noted but the counters. -/
theorem noteIssue_quiet (s : State) (core : Nat) (b : Bundle) (i : Instr) (h : s.rlmode.getLsbD 3 = false) :
    ∃ cs, noteIssue s core b i = { s with cores := cs } := by
  have hw : watch s b = s := by unfold watch; extract_lets at_; rw [if_neg]; rw [h]; rintro ⟨h0, -⟩; cases h0
  unfold noteIssue
  rw [hw]
  split
  · exact ⟨s.cores, rfl⟩
  · dsimp only
    split
    · exact ⟨_, rfl⟩
    · exact ⟨s.cores, rfl⟩

variable (s : State) (core : Nat) (b : Bundle) (i : Instr)

@[simp] theorem noteIssue_threads : (noteIssue s core b i).threads = s.threads := by obtain ⟨m, o, r, c, h⟩ := noteIssue_state s core b i; rw [h]
@[simp] theorem noteIssue_groups : (noteIssue s core b i).groups = s.groups := by obtain ⟨m, o, r, c, h⟩ := noteIssue_state s core b i; rw [h]
@[simp] theorem noteIssue_teams : (noteIssue s core b i).teams = s.teams := by obtain ⟨m, o, r, c, h⟩ := noteIssue_state s core b i; rw [h]
@[simp] theorem noteIssue_grids : (noteIssue s core b i).grids = s.grids := by obtain ⟨m, o, r, c, h⟩ := noteIssue_state s core b i; rw [h]
@[simp] theorem noteIssue_focus : (noteIssue s core b i).focus = s.focus := by obtain ⟨m, o, r, c, h⟩ := noteIssue_state s core b i; rw [h]
@[simp] theorem noteIssue_fresh : (noteIssue s core b i).fresh = s.fresh := by obtain ⟨m, o, r, c, h⟩ := noteIssue_state s core b i; rw [h]
@[simp] theorem noteIssue_clock : (noteIssue s core b i).clock = s.clock := by obtain ⟨m, o, r, c, h⟩ := noteIssue_state s core b i; rw [h]

@[simp] theorem getThread_noteIssue (k : Nat) : getThread (noteIssue s core b i) k = getThread s k := getThread_congr (by simp) k
@[simp] theorem getGroup_noteIssue (k : Nat) : getGroup (noteIssue s core b i) k = getGroup s k := getGroup_congr (by simp) k
@[simp] theorem getTeam_noteIssue (k : Nat) : getTeam (noteIssue s core b i) k = getTeam s k := getTeam_congr (by simp) k

/-- The notes of an issue keep the bundles. -/
@[simp] theorem bundleAt_noteIssue (c p : Nat) : bundleAt (noteIssue s core b i) c p = bundleAt s c p := by
  have hb : ∀ (s : State) (c' n k : Nat), bundleAt (bump s c' n k) c p = bundleAt s c p := by
    intro s c' n k
    unfold bundleAt bump
    by_cases h : c = c'
    · subst h; simp
    · rw [getCore_modCore_ne _ _ _ _ h]
  unfold noteIssue
  split
  · rfl
  · obtain ⟨m, o, r, h⟩ := watch_state s b
    have hw : bundleAt (watch s b) c p = bundleAt s c p := by rw [h]; rfl
    dsimp only
    split
    · rw [hb, hb, hw]
    · exact hw

-- operands

@[simp] theorem readVx_noteIssue (k code : Nat) : readVx (noteIssue s core b i) k code = readVx s k code := by simp [readVx]
@[simp] theorem readUni_noteIssue (g n : Nat) : readUni (noteIssue s core b i) g n = readUni s g n := by simp [readUni]
@[simp] theorem readP_noteIssue (k n : Nat) : readP (noteIssue s core b i) k n = readP s k n := by simp [readP]
@[simp] theorem identity_noteIssue (k c : Nat) : identity (noteIssue s core b i) k c = identity s k c := by simp [identity, teamOf]
@[simp] theorem readCode_noteIssue (c : Ctx) (code : Nat) : readCode (noteIssue s core b i) c code = readCode s c code := by simp [readCode]
@[simp] theorem src_noteIssue (c : Ctx) (ty : Ty) (code : Nat) : src (noteIssue s core b i) c ty code = src s c ty code := by simp [src]
@[simp] theorem srcD_noteIssue (c : Ctx) (ty : Ty) (code : Nat) : srcD (noteIssue s core b i) c ty code = srcD s c ty code := by
  unfold srcD; simp
@[simp] theorem srcV_noteIssue (c : Ctx) (m code : Nat) : srcV (noteIssue s core b i) c m code = srcV s c m code := by simp [srcV]
@[simp] theorem srcP_noteIssue (c : Ctx) (code : Nat) : srcP (noteIssue s core b i) c code = srcP s c code := by simp [srcP]
@[simp] theorem uni_noteIssue (c : Ctx) (n : Nat) : uni (noteIssue s core b i) c n = uni s c n := by simp [uni]
@[simp] theorem uniD_noteIssue (c : Ctx) (n : Nat) : uniD (noteIssue s core b i) c n = uniD s c n := by simp [uniD]
@[simp] theorem uniV_noteIssue (c : Ctx) (m n : Nat) : uniV (noteIssue s core b i) c m n = uniV s c m n := by simp [uniV]
@[simp] theorem uniB_noteIssue (c : Ctx) (m : Nat) : uniB (noteIssue s core b i) c m = uniB s c m := by simp [uniB]

end Sys2Proof.Machine

namespace Sys2Proof

open Sys2Proof.Machine

-- threads that execute

variable {s t u : State} {i : Instr} {b : Bundle} {E : Nat → State → State → Prop} {f : Ctx → State → Act}

/-- Threads that execute one after another are what a pass over them leaves. -/
theorem Each.run (hp : b.probe = false) (hf : ∀ k u v, E k u v → f (ctxOf b i k) u = .ok v) (core picker : Nat) :
    ∀ {ks : List Nat} {s t : State}, Each i b E ks s t → runThreads i f core picker b s ks = ⟨t, ks, []⟩
  | [], _, _, h => by subst h; rfl
  | k :: ks, s, t, ⟨u, v, hu, hv, h⟩ => by
    simp [runThreads, hu, hf k u v hv, hp, Each.run hp hf core picker h]

/-- A bundle executes an instruction: its threads' effects, what follows them, and the bundle goes on. -/
theorem Executes.issueWith (h : Executes s i b E t) (hf : ∀ k u v, E k u v → f (ctxOf b i k) u = .ok v)
    {post : Bundle → State → List Nat → State → State} (hpost : post b (noted s b i) (b.rest.getD b.threads) t = u) :
    issueWith i f post s = past s i u := by
  obtain ⟨⟨hb, hp, he⟩, hw, ht⟩ := h
  have hany : (b.rest.getD b.threads).any (mustWait s b i) = false := by simpa using hw
  unfold Machine.issueWith
  simp only [hb, he, hany, if_false, Bool.false_eq_true, Each.run hp hf _ _ ht, hp, hpost, if_true]

theorem Executes.issue (h : Executes s i b E t) (hf : ∀ k u v, E k u v → f (ctxOf b i k) u = .ok v) : issue i f s = past s i t :=
  Executes.issueWith h hf rfl

/-- The fold over a bundle's groups is one over their first threads. -/
theorem EachOf.groups (hf : ∀ k u v, E k u v → f (ctxOf b i k) u = .ok v) :
    ∀ {gs : List (Nat × List Nat)} {s t : State}, EachOf E (gs.filterMap (fun g => g.2.head?)) s t →
      gs.foldl (fun s e =>
        match e.2 with
        | [] => s
        | k :: _ => match f (ctxOf b i k) s with | .ok s2 => s2 | .error _ => s) s = t
  | [], _, _, h => h.symm
  | (_, []) :: gs, _, _, h => EachOf.groups (gs := gs) hf h
  | (_, k :: _) :: gs, s, t, ⟨v, hv, h⟩ => by
    rw [List.foldl_cons]
    simp only [hf k s v hv]
    exact EachOf.groups (gs := gs) hf h

/-- A bundle executes an instruction that takes effect once for each group. -/
theorem ExecutesByGroup.issueGroups (h : ExecutesByGroup s i b E t) (hf : ∀ k u v, E k u v → f (ctxOf b i k) u = .ok v) :
    issueGroups i f s = past s i t := by
  obtain ⟨⟨hb, hp, he⟩, hw, u, hu, ht⟩ := h
  have hany : b.threads.any (mustWait s b i) = false := by simpa using hw
  unfold Machine.issueGroups
  simp only [hb, he, hany, if_false, Bool.false_eq_true]
  rw [Each.run hp (fun k u v h => by obtain ⟨rfl, v', h⟩ := h; simp [hf k v v' h]) _ _ hu]
  simp only [hp, if_false, Bool.false_eq_true]
  exact congrArg (advance i s.focus.1 s.focus.2) (EachOf.groups hf ht)

theorem last_test {p q r : Bool} {a c d : Nat} (h : (if p then some a else if q then some c else if !r then some d else none) = none) :
    p = false ∧ q = false ∧ r = true := by
  cases p <;> cases q <;> cases r <;> simp_all

theorem Issues.legal (h : Issues s i b) : Machine.legal b.form i = true := (last_test h.2.2).2.2

end Sys2Proof

namespace Sys2Proof.Machine

theorem bundleAt_deliver (s : State) (k c p : Nat) (m : Pending → Bool) : bundleAt (deliver s k m) c p = bundleAt s c p := rfl

/-- What an instruction depends on is noted in the order of accesses alone. -/
theorem noteDoing_state (s : State) (i : Instr) (k : Nat) : ∃ o, noteDoing s i k = { s with order := o } := by
  unfold noteDoing
  dsimp only
  split
  · exact ⟨s.order, rfl⟩
  · exact ⟨_, rfl⟩

theorem bundleAt_noteDoing (s : State) (i : Instr) (k c p : Nat) : bundleAt (noteDoing s i k) c p = bundleAt s c p := by
  obtain ⟨o, h⟩ := noteDoing_state s i k
  rw [h]
  rfl

/-- A thread made ready: the results it may wait for are delivered, and what its instruction depends on is noted. -/
theorem prepare_ok {s u : State} {b : Bundle} {i : Instr} {k : Nat} (h : prepare s b i k = .ok u) :
    u = noteDoing s i k ∨ u = noteDoing (deliver s k (dueFor (getThread s k) (touched s k i))) i k := by
  unfold prepare at h
  dsimp only at h
  split at h
  · cases h; exact .inl rfl
  · split at h
    · cases h; exact .inr rfl
    · split at h
      · cases h
      · cases h; exact .inr rfl

/-- Making a thread ready keeps the bundles. -/
theorem bundleAt_prepare {s u : State} {b : Bundle} {i : Instr} {k : Nat} (h : prepare s b i k = .ok u) (c p : Nat) :
    bundleAt u c p = bundleAt s c p := by
  obtain rfl | rfl := prepare_ok h
  · exact bundleAt_noteDoing s i k c p
  · rw [bundleAt_noteDoing, bundleAt_deliver]

end Sys2Proof.Machine

namespace Sys2Proof

open Sys2Proof.Machine

variable {s t u : State} {i : Instr} {b : Bundle} {E : Nat → State → State → Prop}

theorem Each.bundleAt (hE : ∀ k u v, E k u v → ∀ c p, Machine.bundleAt v c p = Machine.bundleAt u c p) (c p : Nat) :
    ∀ {ks : List Nat} {s t : State}, Each i b E ks s t → Machine.bundleAt t c p = Machine.bundleAt s c p
  | [], _, _, h => by subst h; rfl
  | k :: ks, s, t, ⟨u, v, hu, hv, h⟩ => by rw [Each.bundleAt hE c p h, hE k u v hv, bundleAt_prepare hu]

/-- A group executes a group-convergent instruction. -/
theorem Converges.issueConvergent {f : Ctx → List Nat → State → Act} (h : Converges s i b E t)
    (hf : ∀ k u v, E k u v → f (ctxOf b i k) b.threads u = .ok v) : issueConvergent i f s = past s i t := by
  obtain ⟨⟨hb, hp, he⟩, hw, k, u, hk, hu, hl, ht⟩ := h
  have hany : b.threads.any (mustWait s b i) = false := by simpa using hw
  obtain ⟨ks, hks⟩ : ∃ ks, b.threads = k :: ks := by
    cases hc : b.threads with
    | nil => rw [hc] at hk; cases hk
    | cons a as => rw [hc] at hk; cases hk; exact ⟨as, rfl⟩
  have hbu : Machine.bundleAt u s.focus.1 s.focus.2 = some b := by
    rw [Each.bundleAt (fun _ _ _ h c p => by rw [h.1]) _ _ hu, hb]
  unfold Machine.issueConvergent
  simp only [hb, he]
  have hrun := fun (g : Ctx → State → Act) hg => Each.run (f := g) hp hg s.focus.1 s.focus.2 hu
  rw [hks] at hany hrun ⊢
  simp only [hany, if_false, Bool.false_eq_true]
  rw [hrun _ (fun j v w h => by
      obtain ⟨rfl, h⟩ := h
      have : (regReads i).find? (fun r => decide (64 ≤ r ∧ r < 80) && (readVx w j r).isNone) = none := by
        rw [List.find?_eq_none]
        intro r hr
        by_cases h2 : 64 ≤ r ∧ r < 80
        · have := h r hr h2.1 h2.2
          cases hx : readVx w j r <;> simp_all
        · simp [h2]
      have hk : (ctxOf b i j).k = j := rfl
      simp only [hk, this])]
  simp only [hp, hbu, if_false, Bool.false_eq_true]
  rw [if_neg (by rw [hl]; simp), hf k _ t ht]

/-- A D-form bundle goes past an instruction by moving its PC (R37). -/
theorem advance_d (i : Instr) (core picker : Nat) (s : State) (b : Bundle) (hb : bundleAt s core picker = some b) (hf : b.form = .d)
    (hs : b.set = none) :
    advance i core picker s = setBundle s core picker (some
      { b with pc := b.pc + wd (4 * lenOf i), seq := if latency i = .frame then b.seq else { b.seq with begun := true }, rest := none,
               set := none, early := none }) := by
  unfold advance
  simp [hb, hf, hs]

end Sys2Proof
end

