-- ==== Sys2Proof/Laws/PerInstr.lean ====
section
/-! SUPPORT. The per-instruction family Encode: the decoder reads back every well-formed instruction from the words the encoder writes,
whatever words follow. -/

namespace Sys2Proof.Laws

open Sys2Proof.Machine

/-- Decoding gives back the instruction, and the words after it. -/
def Encode.Statement (i : Instr) : Prop :=
  ∀ (f : Form) (rest : List Word), wellFormed f i = true → (instrRaw i).isSome = true → decodeWords (encode i ++ rest) = .ok (i, rest)

theorem m_eq {m : BitVec 2} {n : Nat} (h : m.toNat = n) : m = BitVec.ofNat 2 n := by subst h; simp

theorem Encode.add (w : TForm) : Encode.Statement (.add w) := fun _ rest h _ =>
  roundT 0x00#8 .add w rest (by decide) (fun _ => rfl) (lit_of_wf h rfl)
theorem Encode.addc (w : TForm) : Encode.Statement (.addc w) := fun _ rest h _ =>
  roundT 0x01#8 .addc w rest (by decide) (fun _ => rfl) (lit_of_wf h rfl)
theorem Encode.sub (w : TForm) : Encode.Statement (.sub w) := fun _ rest h _ =>
  roundT 0x02#8 .sub w rest (by decide) (fun _ => rfl) (lit_of_wf h rfl)
theorem Encode.subb (w : TForm) : Encode.Statement (.subb w) := fun _ rest h _ =>
  roundT 0x03#8 .subb w rest (by decide) (fun _ => rfl) (lit_of_wf h rfl)
theorem Encode.mul (w : TForm) : Encode.Statement (.mul w) := fun _ rest h _ =>
  roundT 0x04#8 .mul w rest (by decide) (fun _ => rfl) (lit_of_wf h rfl)
theorem Encode.mulh (w : TForm) : Encode.Statement (.mulh w) := fun _ rest h _ =>
  roundT 0x05#8 .mulh w rest (by decide) (fun _ => rfl) (lit_of_wf h rfl)
theorem Encode.mad (w : TForm) : Encode.Statement (.mad w) := fun _ rest h _ =>
  roundT 0x06#8 .mad w rest (by decide) (fun _ => rfl) (lit_of_wf h rfl)
theorem Encode.madw (w : TForm) : Encode.Statement (.madw w) := fun _ rest h _ =>
  roundT 0x07#8 .madw w rest (by decide) (fun _ => rfl) (lit_of_wf h rfl)
theorem Encode.min (w : TForm) : Encode.Statement (.min w) := fun _ rest h _ =>
  roundT 0x08#8 .min w rest (by decide) (fun _ => rfl) (lit_of_wf h rfl)
theorem Encode.max (w : TForm) : Encode.Statement (.max w) := fun _ rest h _ =>
  roundT 0x09#8 .max w rest (by decide) (fun _ => rfl) (lit_of_wf h rfl)
theorem Encode.abs (w : TForm) : Encode.Statement (.abs w) := fun _ rest h _ =>
  roundT 0x0A#8 .abs w rest (by decide) (fun _ => rfl) (lit_of_wf h rfl)
theorem Encode.neg (w : TForm) : Encode.Statement (.neg w) := fun _ rest h _ =>
  roundT 0x0B#8 .neg w rest (by decide) (fun _ => rfl) (lit_of_wf h rfl)
theorem Encode.and (w : TForm) : Encode.Statement (.and w) := fun _ rest h _ =>
  roundT 0x0C#8 .and w rest (by decide) (fun _ => rfl) (lit_of_wf h rfl)
theorem Encode.or (w : TForm) : Encode.Statement (.or w) := fun _ rest h _ =>
  roundT 0x0D#8 .or w rest (by decide) (fun _ => rfl) (lit_of_wf h rfl)
theorem Encode.xor (w : TForm) : Encode.Statement (.xor w) := fun _ rest h _ =>
  roundT 0x0E#8 .xor w rest (by decide) (fun _ => rfl) (lit_of_wf h rfl)
theorem Encode.andn (w : TForm) : Encode.Statement (.andn w) := fun _ rest h _ =>
  roundT 0x0F#8 .andn w rest (by decide) (fun _ => rfl) (lit_of_wf h rfl)
theorem Encode.not (w : TForm) : Encode.Statement (.not w) := fun _ rest h _ =>
  roundT 0x10#8 .not w rest (by decide) (fun _ => rfl) (lit_of_wf h rfl)
theorem Encode.shl (w : TForm) : Encode.Statement (.shl w) := fun _ rest h _ =>
  roundT 0x11#8 .shl w rest (by decide) (fun _ => rfl) (lit_of_wf h rfl)
theorem Encode.shr (w : TForm) : Encode.Statement (.shr w) := fun _ rest h _ =>
  roundT 0x12#8 .shr w rest (by decide) (fun _ => rfl) (lit_of_wf h rfl)
theorem Encode.sar (w : TForm) : Encode.Statement (.sar w) := fun _ rest h _ =>
  roundT 0x13#8 .sar w rest (by decide) (fun _ => rfl) (lit_of_wf h rfl)
theorem Encode.rotl (w : TForm) : Encode.Statement (.rotl w) := fun _ rest h _ =>
  roundT 0x14#8 .rotl w rest (by decide) (fun _ => rfl) (lit_of_wf h rfl)
theorem Encode.bfx (w : TForm) : Encode.Statement (.bfx w) := fun _ rest h _ =>
  roundT 0x15#8 .bfx w rest (by decide) (fun _ => rfl) (lit_of_wf h rfl)
theorem Encode.bfi (w : TForm) : Encode.Statement (.bfi w) := fun _ rest h _ =>
  roundT 0x16#8 .bfi w rest (by decide) (fun _ => rfl) (lit_of_wf h rfl)
theorem Encode.bmsk (w : TForm) : Encode.Statement (.bmsk w) := fun _ rest h _ =>
  roundT 0x17#8 .bmsk w rest (by decide) (fun _ => rfl) (lit_of_wf h rfl)
theorem Encode.popc (w : TForm) : Encode.Statement (.popc w) := fun _ rest h _ =>
  roundT 0x18#8 .popc w rest (by decide) (fun _ => rfl) (lit_of_wf h rfl)
theorem Encode.clz (w : TForm) : Encode.Statement (.clz w) := fun _ rest h _ =>
  roundT 0x19#8 .clz w rest (by decide) (fun _ => rfl) (lit_of_wf h rfl)
theorem Encode.ctz (w : TForm) : Encode.Statement (.ctz w) := fun _ rest h _ =>
  roundT 0x1A#8 .ctz w rest (by decide) (fun _ => rfl) (lit_of_wf h rfl)
theorem Encode.brev (w : TForm) : Encode.Statement (.brev w) := fun _ rest h _ =>
  roundT 0x1B#8 .brev w rest (by decide) (fun _ => rfl) (lit_of_wf h rfl)
theorem Encode.lea (w : TForm) : Encode.Statement (.lea w) := fun _ rest h _ =>
  roundT 0x1C#8 .lea w rest (by decide) (fun _ => rfl) (lit_of_wf h rfl)
theorem Encode.mov (w : TForm) : Encode.Statement (.mov w) := fun _ rest h _ =>
  roundT 0x1D#8 .mov w rest (by decide) (fun _ => rfl) (lit_of_wf h rfl)
theorem Encode.movi (w : WForm) : Encode.Statement (.movi w) := fun _ rest h _ =>
  roundW 0x1E#8 .movi w rest (by decide) (fun _ => rfl) (fun _ => rfl) (fun _ => rfl) (fun _ => rfl) (lit_of_wf h rfl)
theorem Encode.movhi (w : WForm) : Encode.Statement (.movhi w) := fun _ rest h _ =>
  roundW 0x1F#8 .movhi w rest (by decide) (fun _ => rfl) (fun _ => rfl) (fun _ => rfl) (fun _ => rfl) (lit_of_wf h rfl)
theorem Encode.v2g (w : TForm) : Encode.Statement (.v2g w) := fun _ rest h _ =>
  roundT 0x20#8 .v2g w rest (by decide) (fun _ => rfl) (lit_of_wf h rfl)
theorem Encode.addI (w : IForm) : Encode.Statement (.addI w) := fun _ rest h _ =>
  roundI 0x21#8 .addI w rest (by decide) (fun _ => rfl) (fun _ => rfl) (lit_of_wf h rfl)
theorem Encode.andI (w : IForm) : Encode.Statement (.andI w) := fun _ rest h _ =>
  roundI 0x22#8 .andI w rest (by decide) (fun _ => rfl) (fun _ => rfl) (lit_of_wf h rfl)
theorem Encode.orI (w : IForm) : Encode.Statement (.orI w) := fun _ rest h _ =>
  roundI 0x23#8 .orI w rest (by decide) (fun _ => rfl) (fun _ => rfl) (lit_of_wf h rfl)
theorem Encode.xorI (w : IForm) : Encode.Statement (.xorI w) := fun _ rest h _ =>
  roundI 0x24#8 .xorI w rest (by decide) (fun _ => rfl) (fun _ => rfl) (lit_of_wf h rfl)
theorem Encode.shlI (w : IForm) : Encode.Statement (.shlI w) := fun _ rest h _ =>
  roundI 0x25#8 .shlI w rest (by decide) (fun _ => rfl) (fun _ => rfl) (lit_of_wf h rfl)
theorem Encode.shrI (w : IForm) : Encode.Statement (.shrI w) := fun _ rest h _ =>
  roundI 0x26#8 .shrI w rest (by decide) (fun _ => rfl) (fun _ => rfl) (lit_of_wf h rfl)
theorem Encode.sarI (w : IForm) : Encode.Statement (.sarI w) := fun _ rest h _ =>
  roundI 0x27#8 .sarI w rest (by decide) (fun _ => rfl) (fun _ => rfl) (lit_of_wf h rfl)
theorem Encode.pand (w : TForm) : Encode.Statement (.pand w) := fun _ rest h _ =>
  roundT 0x40#8 .pand w rest (by decide) (fun _ => rfl) (lit_of_wf h rfl)
theorem Encode.por (w : TForm) : Encode.Statement (.por w) := fun _ rest h _ =>
  roundT 0x41#8 .por w rest (by decide) (fun _ => rfl) (lit_of_wf h rfl)
theorem Encode.pxor (w : TForm) : Encode.Statement (.pxor w) := fun _ rest h _ =>
  roundT 0x42#8 .pxor w rest (by decide) (fun _ => rfl) (lit_of_wf h rfl)
theorem Encode.pnot (w : TForm) : Encode.Statement (.pnot w) := fun _ rest h _ =>
  roundT 0x43#8 .pnot w rest (by decide) (fun _ => rfl) (lit_of_wf h rfl)
theorem Encode.bra (w : JForm) : Encode.Statement (.bra w) := fun _ rest h _ =>
  roundJ 0x44#8 .bra w rest (by decide) (fun _ => rfl) (fun _ => rfl) rfl (lit_of_wf h rfl)
theorem Encode.brp (w : JForm) : Encode.Statement (.brp w) := fun _ rest h _ =>
  roundJ 0x45#8 .brp w rest (by decide) (fun _ => rfl) (fun _ => rfl) rfl (lit_of_wf h rfl)
theorem Encode.call (w : JForm) : Encode.Statement (.call w) := fun _ rest h _ =>
  roundJ 0x46#8 .call w rest (by decide) (fun _ => rfl) (fun _ => rfl) rfl (lit_of_wf h rfl)
theorem Encode.calli (w : TForm) : Encode.Statement (.calli w) := fun _ rest h _ =>
  roundT 0x47#8 .calli w rest (by decide) (fun _ => rfl) (lit_of_wf h rfl)
theorem Encode.ret (w : TForm) : Encode.Statement (.ret w) := fun _ rest h _ =>
  roundT 0x48#8 .ret w rest (by decide) (fun _ => rfl) (lit_of_wf h rfl)
theorem Encode.exit (w : TForm) : Encode.Statement (.exit w) := fun _ rest h _ =>
  roundT 0x49#8 .exit w rest (by decide) (fun _ => rfl) (lit_of_wf h rfl)
theorem Encode.nop (w : TForm) : Encode.Statement (.nop w) := fun _ rest h _ =>
  roundT 0x4A#8 .nop w rest (by decide) (fun _ => rfl) (lit_of_wf h rfl)
theorem Encode.yield (w : TForm) : Encode.Statement (.yield w) := fun _ rest h _ =>
  roundT 0x4B#8 .yield w rest (by decide) (fun _ => rfl) (lit_of_wf h rfl)
theorem Encode.joinh (w : JForm) : Encode.Statement (.joinh w) := fun _ rest h _ =>
  roundJ 0x4C#8 .joinh w rest (by decide) (fun _ => rfl) (fun _ => rfl) rfl (lit_of_wf h rfl)
theorem Encode.trap (w : WForm) : Encode.Statement (.trap w) := fun _ rest h _ =>
  roundW 0x4D#8 .trap w rest (by decide) (fun _ => rfl) (fun _ => rfl) (fun _ => rfl) (fun _ => rfl) (lit_of_wf h rfl)
theorem Encode.tret (w : TForm) : Encode.Statement (.tret w) := fun _ rest h _ =>
  roundT 0x4E#8 .tret w rest (by decide) (fun _ => rfl) (lit_of_wf h rfl)
theorem Encode.pnew (w : TForm) : Encode.Statement (.pnew w) := fun _ rest h _ =>
  roundT 0x50#8 .pnew w rest (by decide) (fun _ => rfl) (lit_of_wf h rfl)
theorem Encode.pset (w : TForm) : Encode.Statement (.pset w) := fun _ rest h _ =>
  roundT 0x51#8 .pset w rest (by decide) (fun _ => rfl) (lit_of_wf h rfl)
theorem Encode.pedge (w : TForm) : Encode.Statement (.pedge w) := fun _ rest h _ =>
  roundT 0x52#8 .pedge w rest (by decide) (fun _ => rfl) (lit_of_wf h rfl)
theorem Encode.parm (w : TForm) : Encode.Statement (.parm w) := fun _ rest h _ =>
  roundT 0x53#8 .parm w rest (by decide) (fun _ => rfl) (lit_of_wf h rfl)
theorem Encode.pwait (w : TForm) : Encode.Statement (.pwait w) := fun _ rest h _ =>
  roundT 0x54#8 .pwait w rest (by decide) (fun _ => rfl) (lit_of_wf h rfl)
theorem Encode.fadd (w : TForm) : Encode.Statement (.fadd w) := fun _ rest h _ =>
  roundT 0x60#8 .fadd w rest (by decide) (fun _ => rfl) (lit_of_wf h rfl)
theorem Encode.fsub (w : TForm) : Encode.Statement (.fsub w) := fun _ rest h _ =>
  roundT 0x61#8 .fsub w rest (by decide) (fun _ => rfl) (lit_of_wf h rfl)
theorem Encode.fmul (w : TForm) : Encode.Statement (.fmul w) := fun _ rest h _ =>
  roundT 0x62#8 .fmul w rest (by decide) (fun _ => rfl) (lit_of_wf h rfl)
theorem Encode.ffma (w : TForm) : Encode.Statement (.ffma w) := fun _ rest h _ =>
  roundT 0x63#8 .ffma w rest (by decide) (fun _ => rfl) (lit_of_wf h rfl)
theorem Encode.fmin (w : TForm) : Encode.Statement (.fmin w) := fun _ rest h _ =>
  roundT 0x64#8 .fmin w rest (by decide) (fun _ => rfl) (lit_of_wf h rfl)
theorem Encode.fmax (w : TForm) : Encode.Statement (.fmax w) := fun _ rest h _ =>
  roundT 0x65#8 .fmax w rest (by decide) (fun _ => rfl) (lit_of_wf h rfl)
theorem Encode.fabs (w : TForm) : Encode.Statement (.fabs w) := fun _ rest h _ =>
  roundT 0x66#8 .fabs w rest (by decide) (fun _ => rfl) (lit_of_wf h rfl)
theorem Encode.fneg (w : TForm) : Encode.Statement (.fneg w) := fun _ rest h _ =>
  roundT 0x67#8 .fneg w rest (by decide) (fun _ => rfl) (lit_of_wf h rfl)
theorem Encode.fcps (w : TForm) : Encode.Statement (.fcps w) := fun _ rest h _ =>
  roundT 0x68#8 .fcps w rest (by decide) (fun _ => rfl) (lit_of_wf h rfl)
theorem Encode.fcmp (w : TForm) : Encode.Statement (.fcmp w) := fun _ rest h _ =>
  roundT 0x69#8 .fcmp w rest (by decide) (fun _ => rfl) (lit_of_wf h rfl)
theorem Encode.fclass (w : TForm) : Encode.Statement (.fclass w) := fun _ rest h _ =>
  roundT 0x6A#8 .fclass w rest (by decide) (fun _ => rfl) (lit_of_wf h rfl)
theorem Encode.frnd (w : TForm) : Encode.Statement (.frnd w) := fun _ rest h _ =>
  roundT 0x6B#8 .frnd w rest (by decide) (fun _ => rfl) (lit_of_wf h rfl)
theorem Encode.fract (w : TForm) : Encode.Statement (.fract w) := fun _ rest h _ =>
  roundT 0x6C#8 .fract w rest (by decide) (fun _ => rfl) (lit_of_wf h rfl)
theorem Encode.fdiv (w : TForm) : Encode.Statement (.fdiv w) := fun _ rest h _ =>
  roundT 0x6D#8 .fdiv w rest (by decide) (fun _ => rfl) (lit_of_wf h rfl)
theorem Encode.pack2 (w : TForm) : Encode.Statement (.pack2 w) := fun _ rest h _ =>
  roundT 0x6E#8 .pack2 w rest (by decide) (fun _ => rfl) (lit_of_wf h rfl)
theorem Encode.hadd2 (w : TForm) : Encode.Statement (.hadd2 w) := fun _ rest h _ =>
  roundT 0x6F#8 .hadd2 w rest (by decide) (fun _ => rfl) (lit_of_wf h rfl)
theorem Encode.hmul2 (w : TForm) : Encode.Statement (.hmul2 w) := fun _ rest h _ =>
  roundT 0x70#8 .hmul2 w rest (by decide) (fun _ => rfl) (lit_of_wf h rfl)
theorem Encode.hfma2 (w : TForm) : Encode.Statement (.hfma2 w) := fun _ rest h _ =>
  roundT 0x71#8 .hfma2 w rest (by decide) (fun _ => rfl) (lit_of_wf h rfl)
theorem Encode.rcp (w : TForm) : Encode.Statement (.rcp w) := fun _ rest h _ =>
  roundT 0x72#8 .rcp w rest (by decide) (fun _ => rfl) (lit_of_wf h rfl)
theorem Encode.rsq (w : TForm) : Encode.Statement (.rsq w) := fun _ rest h _ =>
  roundT 0x73#8 .rsq w rest (by decide) (fun _ => rfl) (lit_of_wf h rfl)
theorem Encode.sqrt (w : TForm) : Encode.Statement (.sqrt w) := fun _ rest h _ =>
  roundT 0x74#8 .sqrt w rest (by decide) (fun _ => rfl) (lit_of_wf h rfl)
theorem Encode.exp2 (w : TForm) : Encode.Statement (.exp2 w) := fun _ rest h _ =>
  roundT 0x75#8 .exp2 w rest (by decide) (fun _ => rfl) (lit_of_wf h rfl)
theorem Encode.log2 (w : TForm) : Encode.Statement (.log2 w) := fun _ rest h _ =>
  roundT 0x76#8 .log2 w rest (by decide) (fun _ => rfl) (lit_of_wf h rfl)
theorem Encode.sin (w : TForm) : Encode.Statement (.sin w) := fun _ rest h _ =>
  roundT 0x77#8 .sin w rest (by decide) (fun _ => rfl) (lit_of_wf h rfl)
theorem Encode.cos (w : TForm) : Encode.Statement (.cos w) := fun _ rest h _ =>
  roundT 0x78#8 .cos w rest (by decide) (fun _ => rfl) (lit_of_wf h rfl)
theorem Encode.tanh (w : TForm) : Encode.Statement (.tanh w) := fun _ rest h _ =>
  roundT 0x79#8 .tanh w rest (by decide) (fun _ => rfl) (lit_of_wf h rfl)
theorem Encode.xadd (w : TForm) : Encode.Statement (.xadd w) := fun _ rest h _ =>
  roundT 0x7A#8 .xadd w rest (by decide) (fun _ => rfl) (lit_of_wf h rfl)
theorem Encode.xsub (w : TForm) : Encode.Statement (.xsub w) := fun _ rest h _ =>
  roundT 0x7B#8 .xsub w rest (by decide) (fun _ => rfl) (lit_of_wf h rfl)
theorem Encode.xmul (w : TForm) : Encode.Statement (.xmul w) := fun _ rest h _ =>
  roundT 0x7C#8 .xmul w rest (by decide) (fun _ => rfl) (lit_of_wf h rfl)
theorem Encode.xsqr (w : TForm) : Encode.Statement (.xsqr w) := fun _ rest h _ =>
  roundT 0x7D#8 .xsqr w rest (by decide) (fun _ => rfl) (lit_of_wf h rfl)
theorem Encode.xsqrt (w : TForm) : Encode.Statement (.xsqrt w) := fun _ rest h _ =>
  roundT 0x7E#8 .xsqrt w rest (by decide) (fun _ => rfl) (lit_of_wf h rfl)
theorem Encode.xrcp (w : TForm) : Encode.Statement (.xrcp w) := fun _ rest h _ =>
  roundT 0x7F#8 .xrcp w rest (by decide) (fun _ => rfl) (lit_of_wf h rfl)
theorem Encode.xmin (w : TForm) : Encode.Statement (.xmin w) := fun _ rest h _ =>
  roundT 0x80#8 .xmin w rest (by decide) (fun _ => rfl) (lit_of_wf h rfl)
theorem Encode.xmax (w : TForm) : Encode.Statement (.xmax w) := fun _ rest h _ =>
  roundT 0x81#8 .xmax w rest (by decide) (fun _ => rfl) (lit_of_wf h rfl)
theorem Encode.xabs (w : TForm) : Encode.Statement (.xabs w) := fun _ rest h _ =>
  roundT 0x82#8 .xabs w rest (by decide) (fun _ => rfl) (lit_of_wf h rfl)
theorem Encode.xhull (w : TForm) : Encode.Statement (.xhull w) := fun _ rest h _ =>
  roundT 0x83#8 .xhull w rest (by decide) (fun _ => rfl) (lit_of_wf h rfl)
theorem Encode.xcont (w : TForm) : Encode.Statement (.xcont w) := fun _ rest h _ =>
  roundT 0x84#8 .xcont w rest (by decide) (fun _ => rfl) (lit_of_wf h rfl)
theorem Encode.gshf (w : TForm) : Encode.Statement (.gshf w) := fun _ rest h _ =>
  roundT 0x90#8 .gshf w rest (by decide) (fun _ => rfl) (lit_of_wf h rfl)
theorem Encode.gbc (w : TForm) : Encode.Statement (.gbc w) := fun _ rest h _ =>
  roundT 0x91#8 .gbc w rest (by decide) (fun _ => rfl) (lit_of_wf h rfl)
theorem Encode.gvote (w : TForm) : Encode.Statement (.gvote w) := fun _ rest h _ =>
  roundT 0x92#8 .gvote w rest (by decide) (fun _ => rfl) (lit_of_wf h rfl)
theorem Encode.gball (w : TForm) : Encode.Statement (.gball w) := fun _ rest h _ =>
  roundT 0x93#8 .gball w rest (by decide) (fun _ => rfl) (lit_of_wf h rfl)
theorem Encode.gred (w : TForm) : Encode.Statement (.gred w) := fun _ rest h _ =>
  roundT 0x94#8 .gred w rest (by decide) (fun _ => rfl) (lit_of_wf h rfl)
theorem Encode.gscan (w : TForm) : Encode.Statement (.gscan w) := fun _ rest h _ =>
  roundT 0x95#8 .gscan w rest (by decide) (fun _ => rfl) (lit_of_wf h rfl)
theorem Encode.gmatch (w : TForm) : Encode.Statement (.gmatch w) := fun _ rest h _ =>
  roundT 0x96#8 .gmatch w rest (by decide) (fun _ => rfl) (lit_of_wf h rfl)
theorem Encode.gelect (w : TForm) : Encode.Statement (.gelect w) := fun _ rest h _ =>
  roundT 0x97#8 .gelect w rest (by decide) (fun _ => rfl) (lit_of_wf h rfl)
theorem Encode.gsync (w : TForm) : Encode.Statement (.gsync w) := fun _ rest h _ =>
  roundT 0x98#8 .gsync w rest (by decide) (fun _ => rfl) (lit_of_wf h rfl)
theorem Encode.ldp (w : TForm) : Encode.Statement (.ldp w) := fun _ rest h _ =>
  roundT 0xA0#8 .ldp w rest (by decide) (fun _ => rfl) (lit_of_wf h rfl)
theorem Encode.stp (w : TForm) : Encode.Statement (.stp w) := fun _ rest h _ =>
  roundT 0xA1#8 .stp w rest (by decide) (fun _ => rfl) (lit_of_wf h rfl)
theorem Encode.lds (w : TForm) : Encode.Statement (.lds w) := fun _ rest h _ =>
  roundT 0xA2#8 .lds w rest (by decide) (fun _ => rfl) (lit_of_wf h rfl)
theorem Encode.sts (w : TForm) : Encode.Statement (.sts w) := fun _ rest h _ =>
  roundT 0xA3#8 .sts w rest (by decide) (fun _ => rfl) (lit_of_wf h rfl)
theorem Encode.ldc (w : TForm) : Encode.Statement (.ldc w) := fun _ rest h _ =>
  roundT 0xA4#8 .ldc w rest (by decide) (fun _ => rfl) (lit_of_wf h rfl)
theorem Encode.stc (w : TForm) : Encode.Statement (.stc w) := fun _ rest h _ =>
  roundT 0xA5#8 .stc w rest (by decide) (fun _ => rfl) (lit_of_wf h rfl)
theorem Encode.ldg (w : TForm) : Encode.Statement (.ldg w) := fun _ rest h _ =>
  roundT 0xA6#8 .ldg w rest (by decide) (fun _ => rfl) (lit_of_wf h rfl)
theorem Encode.stg (w : TForm) : Encode.Statement (.stg w) := fun _ rest h _ =>
  roundT 0xA7#8 .stg w rest (by decide) (fun _ => rfl) (lit_of_wf h rfl)
theorem Encode.stgm (w : TForm) : Encode.Statement (.stgm w) := fun _ rest h _ =>
  roundT 0xA8#8 .stgm w rest (by decide) (fun _ => rfl) (lit_of_wf h rfl)
theorem Encode.ldk (w : TForm) : Encode.Statement (.ldk w) := fun _ rest h _ =>
  roundT 0xA9#8 .ldk w rest (by decide) (fun _ => rfl) (lit_of_wf h rfl)
theorem Encode.stk (w : TForm) : Encode.Statement (.stk w) := fun _ rest h _ =>
  roundT 0xAA#8 .stk w rest (by decide) (fun _ => rfl) (lit_of_wf h rfl)
theorem Encode.lda (w : TForm) : Encode.Statement (.lda w) := fun _ rest h _ =>
  roundT 0xAB#8 .lda w rest (by decide) (fun _ => rfl) (lit_of_wf h rfl)
theorem Encode.pref (w : TForm) : Encode.Statement (.pref w) := fun _ rest h _ =>
  roundT 0xAC#8 .pref w rest (by decide) (fun _ => rfl) (lit_of_wf h rfl)
theorem Encode.brkf (w : TForm) : Encode.Statement (.brkf w) := fun _ rest h _ =>
  roundT 0xAD#8 .brkf w rest (by decide) (fun _ => rfl) (lit_of_wf h rfl)
theorem Encode.ats (w : TForm) : Encode.Statement (.ats w) := fun _ rest h _ =>
  roundT 0xAE#8 .ats w rest (by decide) (fun _ => rfl) (lit_of_wf h rfl)
theorem Encode.atg (w : TForm) : Encode.Statement (.atg w) := fun _ rest h _ =>
  roundT 0xAF#8 .atg w rest (by decide) (fun _ => rfl) (lit_of_wf h rfl)
theorem Encode.red (w : TForm) : Encode.Statement (.red w) := fun _ rest h _ =>
  roundT 0xB0#8 .red w rest (by decide) (fun _ => rfl) (lit_of_wf h rfl)
theorem Encode.rflush (w : TForm) : Encode.Statement (.rflush w) := fun _ rest h _ =>
  roundT 0xB1#8 .rflush w rest (by decide) (fun _ => rfl) (lit_of_wf h rfl)
theorem Encode.fence (w : TForm) : Encode.Statement (.fence w) := fun _ rest h _ =>
  roundT 0xB2#8 .fence w rest (by decide) (fun _ => rfl) (lit_of_wf h rfl)
theorem Encode.icinvLine (w : TForm) : Encode.Statement (.icinvLine w) := fun _ rest h _ =>
  roundT 0xB3#8 .icinvLine w rest (by decide) (fun l => by
    have hf : decide (w.m.toNat = 0) = true := fields_of_wf h rfl
    simp [instrT, m_eq (of_decide_eq_true hf)]) (lit_of_wf h rfl)
theorem Encode.icinvAll (w : TForm) : Encode.Statement (.icinvAll w) := fun _ rest h _ =>
  roundT 0xB3#8 .icinvAll w rest (by decide) (fun l => by
    have hf : decide (w.m.toNat = 1) = true := fields_of_wf h rfl
    simp [instrT, m_eq (of_decide_eq_true hf)]) (lit_of_wf h rfl)
theorem Encode.bari (w : TForm) : Encode.Statement (.bari w) := fun _ rest h _ =>
  roundT 0xC0#8 .bari w rest (by decide) (fun _ => rfl) (lit_of_wf h rfl)
theorem Encode.barx (w : TForm) : Encode.Statement (.barx w) := fun _ rest h _ =>
  roundT 0xC1#8 .barx w rest (by decide) (fun _ => rfl) (lit_of_wf h rfl)
theorem Encode.bara (w : TForm) : Encode.Statement (.bara w) := fun _ rest h _ =>
  roundT 0xC2#8 .bara w rest (by decide) (fun _ => rfl) (lit_of_wf h rfl)
theorem Encode.barw (w : TForm) : Encode.Statement (.barw w) := fun _ rest h _ =>
  roundT 0xC3#8 .barw w rest (by decide) (fun l => by
    have hf : decide (w.m.toNat = 0) = true := fields_of_wf h rfl
    simp [instrT, m_eq (of_decide_eq_true hf)]) (lit_of_wf h rfl)
theorem Encode.barwTry (w : TForm) : Encode.Statement (.barwTry w) := fun _ rest h _ =>
  roundT 0xC3#8 .barwTry w rest (by decide) (fun l => by
    have hf : decide (w.m.toNat = 1) = true := fields_of_wf h rfl
    simp [instrT, m_eq (of_decide_eq_true hf)]) (lit_of_wf h rfl)
theorem Encode.bart (w : TForm) : Encode.Statement (.bart w) := fun _ rest h _ =>
  roundT 0xC4#8 .bart w rest (by decide) (fun _ => rfl) (lit_of_wf h rfl)
theorem Encode.eqp (w : WForm) : Encode.Statement (.eqp w) := fun _ rest h _ =>
  roundW 0xC5#8 .eqp w rest (by decide) (fun _ => rfl) (fun _ => rfl) (fun _ => rfl) (fun _ => rfl) (lit_of_wf h rfl)
theorem Encode.migr (w : TForm) : Encode.Statement (.migr w) := fun _ rest h _ =>
  roundT 0xC6#8 .migr w rest (by decide) (fun _ => rfl) (lit_of_wf h rfl)
theorem Encode.csrr (w : WForm) : Encode.Statement (.csrr w) := fun _ rest h _ =>
  roundW 0xD0#8 .csrr w rest (by decide) (fun _ => rfl) (fun _ => rfl) (fun _ => rfl) (fun _ => rfl) (lit_of_wf h rfl)
theorem Encode.csrw (w : WForm) : Encode.Statement (.csrw w) := fun _ rest h _ =>
  roundW 0xD1#8 .csrw w rest (by decide) (fun _ => rfl) (fun _ => rfl) (fun _ => rfl) (fun _ => rfl) (lit_of_wf h rfl)
theorem Encode.tlbiPage (w : TForm) : Encode.Statement (.tlbiPage w) := fun _ rest h _ =>
  roundT 0xD2#8 .tlbiPage w rest (by decide) (fun l => by
    have hf : decide (w.m.toNat = 0) = true := fields_of_wf h rfl
    simp [instrT, m_eq (of_decide_eq_true hf)]) (lit_of_wf h rfl)
theorem Encode.tlbiAsid (w : TForm) : Encode.Statement (.tlbiAsid w) := fun _ rest h _ =>
  roundT 0xD2#8 .tlbiAsid w rest (by decide) (fun l => by
    have hf : decide (w.m.toNat = 1) = true := fields_of_wf h rfl
    simp [instrT, m_eq (of_decide_eq_true hf)]) (lit_of_wf h rfl)
theorem Encode.halt (w : TForm) : Encode.Statement (.halt w) := fun _ rest h _ =>
  roundT 0xD3#8 .halt w rest (by decide) (fun _ => rfl) (lit_of_wf h rfl)
theorem Encode.runh (w : RunhForm) : Encode.Statement (.runh w) := fun _ rest _ _ => roundRunh w rest
theorem Encode.runt (w : RuntForm) : Encode.Statement (.runt w) := fun _ rest _ _ => roundRunt w rest
theorem Encode.pad (w : PadForm) : Encode.Statement (.pad w) := fun _ rest _ _ => roundPad w rest
theorem Encode.uniformPipeOp (sub : BitVec 8) (w : XForm) : Encode.Statement (.uniformPipeOp sub w) := fun _ rest h _ =>
  roundX 0xF0#8 sub (.uniformPipeOp sub) w rest (by decide) (fun l => by
    have hs : sub.toNat ≤ 0x1D := by simpa using (Bool.and_eq_true_iff.mp h).2
    simp [instrX, hs]) (lit_of_wf h rfl)
theorem Encode.cmp (w : XForm) : Encode.Statement (.cmp w) := fun _ rest h _ =>
  roundX 0xF1#8 0x00#8 .cmp w rest (by decide) (fun _ => rfl) (lit_of_wf h rfl)
theorem Encode.cmpv (w : XForm) : Encode.Statement (.cmpv w) := fun _ rest h _ =>
  roundX 0xF1#8 0x01#8 .cmpv w rest (by decide) (fun _ => rfl) (lit_of_wf h rfl)
theorem Encode.sel (w : XForm) : Encode.Statement (.sel w) := fun _ rest h _ =>
  roundX 0xF1#8 0x02#8 .sel w rest (by decide) (fun _ => rfl) (lit_of_wf h rfl)
theorem Encode.prmt (w : XForm) : Encode.Statement (.prmt w) := fun _ rest h _ =>
  roundX 0xF1#8 0x03#8 .prmt w rest (by decide) (fun _ => rfl) (lit_of_wf h rfl)
theorem Encode.fshl (w : XForm) : Encode.Statement (.fshl w) := fun _ rest h _ =>
  roundX 0xF1#8 0x04#8 .fshl w rest (by decide) (fun _ => rfl) (lit_of_wf h rfl)
theorem Encode.fshr (w : XForm) : Encode.Statement (.fshr w) := fun _ rest h _ =>
  roundX 0xF1#8 0x05#8 .fshr w rest (by decide) (fun _ => rfl) (lit_of_wf h rfl)
theorem Encode.ffma4 (w : XForm) : Encode.Statement (.ffma4 w) := fun _ rest h _ =>
  roundX 0xF2#8 0x00#8 .ffma4 w rest (by decide) (fun _ => rfl) (lit_of_wf h rfl)
theorem Encode.cvt (w : XForm) : Encode.Statement (.cvt w) := fun _ rest h _ =>
  roundX 0xF2#8 0x01#8 .cvt w rest (by decide) (fun _ => rfl) (lit_of_wf h rfl)
theorem Encode.tidw (w : XForm) : Encode.Statement (.tidw w) := fun _ rest h _ =>
  roundX 0xF3#8 0x00#8 .tidw w rest (by decide) (fun _ => rfl) (lit_of_wf h rfl)
theorem Encode.tidr (w : XForm) : Encode.Statement (.tidr w) := fun _ rest h _ =>
  roundX 0xF3#8 0x01#8 .tidr w rest (by decide) (fun _ => rfl) (lit_of_wf h rfl)
theorem Encode.cpy (w : XForm) : Encode.Statement (.cpy w) := fun _ rest h _ =>
  roundX 0xF3#8 0x02#8 .cpy w rest (by decide) (fun _ => rfl) (lit_of_wf h rfl)
theorem Encode.cpyg (w : XForm) : Encode.Statement (.cpyg w) := fun _ rest h _ =>
  roundX 0xF3#8 0x03#8 .cpyg w rest (by decide) (fun _ => rfl) (lit_of_wf h rfl)
theorem Encode.cpyx (w : XForm) : Encode.Statement (.cpyx w) := fun _ rest h _ =>
  roundX 0xF3#8 0x04#8 .cpyx w rest (by decide) (fun _ => rfl) (lit_of_wf h rfl)
theorem Encode.qnt (w : XForm) : Encode.Statement (.qnt w) := fun _ rest h _ =>
  roundX 0xF3#8 0x05#8 .qnt w rest (by decide) (fun _ => rfl) (lit_of_wf h rfl)
theorem Encode.pub (w : XForm) : Encode.Statement (.pub w) := fun _ rest h _ =>
  roundX 0xF3#8 0x06#8 .pub w rest (by decide) (fun _ => rfl) (lit_of_wf h rfl)
theorem Encode.mxcfgAcq (w : XForm) : Encode.Statement (.mxcfgAcq w) := fun _ rest h _ =>
  roundX 0xF4#8 0x00#8 .mxcfgAcq w rest (by decide) (fun l => by
    have hf : decide (w.m.toNat = 0 ∧ w.e.toNat = 0) = true := fields_of_wf h rfl
    simp [instrX, m_eq (of_decide_eq_true hf).1]) (lit_of_wf h rfl)
theorem Encode.mxcfgSet (w : XForm) : Encode.Statement (.mxcfgSet w) := fun _ rest h _ =>
  roundX 0xF4#8 0x00#8 .mxcfgSet w rest (by decide) (fun l => by
    have hf : decide (w.m.toNat = 1 ∧ w.e.toNat = 0) = true := fields_of_wf h rfl
    simp [instrX, m_eq (of_decide_eq_true hf).1]) (lit_of_wf h rfl)
theorem Encode.mxcfgRel (w : XForm) : Encode.Statement (.mxcfgRel w) := fun _ rest h _ =>
  roundX 0xF4#8 0x00#8 .mxcfgRel w rest (by decide) (fun l => by
    have hf : decide (w.m.toNat = 2 ∧ w.e.toNat = 0) = true := fields_of_wf h rfl
    simp [instrX, m_eq (of_decide_eq_true hf).1]) (lit_of_wf h rfl)
theorem Encode.mxcfgCbw (w : XForm) : Encode.Statement (.mxcfgCbw w) := fun _ rest h _ =>
  roundX 0xF4#8 0x00#8 .mxcfgCbw w rest (by decide) (fun l => by
    have hf : decide (w.m.toNat = 3 ∧ w.e.toNat = 0) = true := fields_of_wf h rfl
    simp [instrX, m_eq (of_decide_eq_true hf).1]) (lit_of_wf h rfl)
theorem Encode.mxlw (w : XForm) : Encode.Statement (.mxlw w) := fun _ rest h _ =>
  roundX 0xF4#8 0x01#8 .mxlw w rest (by decide) (fun _ => rfl) (lit_of_wf h rfl)
theorem Encode.mxsw (w : XForm) : Encode.Statement (.mxsw w) := fun _ rest h _ =>
  roundX 0xF4#8 0x02#8 .mxsw w rest (by decide) (fun _ => rfl) (lit_of_wf h rfl)
theorem Encode.mxst (w : XForm) : Encode.Statement (.mxst w) := fun _ rest h _ =>
  roundX 0xF4#8 0x03#8 .mxst w rest (by decide) (fun _ => rfl) (lit_of_wf h rfl)
theorem Encode.mxdr (w : XForm) : Encode.Statement (.mxdr w) := fun _ rest h _ =>
  roundX 0xF4#8 0x04#8 .mxdr w rest (by decide) (fun _ => rfl) (lit_of_wf h rfl)
theorem Encode.mxz (w : XForm) : Encode.Statement (.mxz w) := fun _ rest h _ =>
  roundX 0xF4#8 0x05#8 .mxz w rest (by decide) (fun _ => rfl) (lit_of_wf h rfl)
theorem Encode.mxpr (w : XForm) : Encode.Statement (.mxpr w) := fun _ rest h _ =>
  roundX 0xF4#8 0x06#8 .mxpr w rest (by decide) (fun _ => rfl) (lit_of_wf h rfl)
theorem Encode.trav (w : XForm) : Encode.Statement (.trav w) := fun _ rest h _ =>
  roundX 0xF5#8 0x00#8 .trav w rest (by decide) (fun _ => rfl) (lit_of_wf h rfl)
theorem Encode.mwalk (w : XForm) : Encode.Statement (.mwalk w) := fun _ rest h _ =>
  roundX 0xF5#8 0x01#8 .mwalk w rest (by decide) (fun _ => rfl) (lit_of_wf h rfl)
theorem Encode.mloc (w : XForm) : Encode.Statement (.mloc w) := fun _ rest h _ =>
  roundX 0xF5#8 0x02#8 .mloc w rest (by decide) (fun _ => rfl) (lit_of_wf h rfl)
theorem Encode.march (w : XForm) : Encode.Statement (.march w) := fun _ rest h _ =>
  roundX 0xF5#8 0x03#8 .march w rest (by decide) (fun _ => rfl) (lit_of_wf h rfl)
theorem Encode.rres (w : XForm) : Encode.Statement (.rres w) := fun _ rest h _ =>
  roundX 0xF5#8 0x04#8 .rres w rest (by decide) (fun _ => rfl) (lit_of_wf h rfl)
theorem Encode.rrel (w : XForm) : Encode.Statement (.rrel w) := fun _ rest h _ =>
  roundX 0xF5#8 0x05#8 .rrel w rest (by decide) (fun _ => rfl) (lit_of_wf h rfl)
theorem Encode.rget (w : XForm) : Encode.Statement (.rget w) := fun _ rest h _ =>
  roundX 0xF5#8 0x06#8 .rget w rest (by decide) (fun _ => rfl) (lit_of_wf h rfl)
theorem Encode.fprune (w : XForm) : Encode.Statement (.fprune w) := fun _ rest h _ =>
  roundX 0xF5#8 0x07#8 .fprune w rest (by decide) (fun _ => rfl) (lit_of_wf h rfl)
theorem Encode.primTri (w : XForm) : Encode.Statement (.primTri w) := fun _ rest h _ =>
  roundX 0xF6#8 0x00#8 .primTri w rest (by decide) (fun l => by
    have hf : decide (w.m.toNat = 0 ∧ w.e.toNat = 0) = true := fields_of_wf h rfl
    simp [instrX, m_eq (of_decide_eq_true hf).1]) (lit_of_wf h rfl)
theorem Encode.primEnd (w : XForm) : Encode.Statement (.primEnd w) := fun _ rest h _ =>
  roundX 0xF6#8 0x00#8 .primEnd w rest (by decide) (fun l => by
    have hf : decide (w.m.toNat = 1 ∧ w.e.toNat = 0) = true := fields_of_wf h rfl
    simp [instrX, m_eq (of_decide_eq_true hf).1]) (lit_of_wf h rfl)
theorem Encode.visw (w : XForm) : Encode.Statement (.visw w) := fun _ rest h _ =>
  roundX 0xF6#8 0x01#8 .visw w rest (by decide) (fun _ => rfl) (lit_of_wf h rfl)
theorem Encode.visr (w : XForm) : Encode.Statement (.visr w) := fun _ rest h _ =>
  roundX 0xF6#8 0x02#8 .visr w rest (by decide) (fun _ => rfl) (lit_of_wf h rfl)
theorem Encode.attr (w : XForm) : Encode.Statement (.attr w) := fun _ rest h _ =>
  roundX 0xF6#8 0x03#8 .attr w rest (by decide) (fun _ => rfl) (lit_of_wf h rfl)
theorem Encode.pick (core picker : Nat) : Encode.Statement (.pick core picker) := fun _ _ _ h => nomatch h
theorem Encode.overdue (thread : Nat) : Encode.Statement (.overdue thread) := fun _ _ _ h => nomatch h
theorem Encode.joinWaitTimeout (thread : Nat) : Encode.Statement (.joinWaitTimeout thread) := fun _ _ _ h => nomatch h
theorem Encode.resultArrival (thread index : Nat) : Encode.Statement (.resultArrival thread index) := fun _ _ _ h => nomatch h
theorem Encode.groupMove (group : Nat) : Encode.Statement (.groupMove group) := fun _ _ _ h => nomatch h
theorem Encode.convergenceMismatch (group : Nat) : Encode.Statement (.convergenceMismatch group) := fun _ _ _ h => nomatch h
theorem Encode.doorbell (n width : Nat) (value : DWord) : Encode.Statement (.doorbell n width value) := fun _ _ _ h => nomatch h
theorem Encode.podComplete (pod : Nat) : Encode.Statement (.podComplete pod) := fun _ _ _ h => nomatch h
theorem Encode.pendingEntryRelease (team index : Nat) : Encode.Statement (.pendingEntryRelease team index) := fun _ _ _ h => nomatch h
theorem Encode.readyQueuePop (engines : Bool) : Encode.Statement (.readyQueuePop engines) := fun _ _ _ h => nomatch h
theorem Encode.teamPlacement (grid : Nat) : Encode.Statement (.teamPlacement grid) := fun _ _ _ h => nomatch h
theorem Encode.contResume (index : Nat) : Encode.Statement (.contResume index) := fun _ _ _ h => nomatch h
theorem Encode.reclamationComplete (team : Nat) : Encode.Statement (.reclamationComplete team) := fun _ _ _ h => nomatch h
theorem Encode.reductionDrain (pod : Nat) : Encode.Statement (.reductionDrain pod) := fun _ _ _ h => nomatch h
theorem Encode.accessCounterRecord (asid region : Nat) : Encode.Statement (.accessCounterRecord asid region) := fun _ _ _ h => nomatch h
theorem Encode.tlbinvPage (asid va : Nat) : Encode.Statement (.tlbinvPage asid va) := fun _ _ _ h => nomatch h
theorem Encode.tlbinvAsid (asid : Nat) : Encode.Statement (.tlbinvAsid asid) := fun _ _ _ h => nomatch h
theorem Encode.tlbinvAll : Encode.Statement (.tlbinvAll) := fun _ _ _ h => nomatch h
theorem Encode.tlbinvDone : Encode.Statement (.tlbinvDone) := fun _ _ _ h => nomatch h
theorem Encode.marcfgWrite (value : Word) : Encode.Statement (.marcfgWrite value) := fun _ _ _ h => nomatch h
theorem Encode.carveChange : Encode.Statement (.carveChange) := fun _ _ _ h => nomatch h
theorem Encode.l1cfgWrite (core : Nat) (value : Word) : Encode.Statement (.l1cfgWrite core value) := fun _ _ _ h => nomatch h
theorem Encode.accctlWrite (value : Word) : Encode.Statement (.accctlWrite value) := fun _ _ _ h => nomatch h
theorem Encode.registerWrite (offset width : Nat) (value : DWord) : Encode.Statement (.registerWrite offset width value) := fun _ _ _ h => nomatch h
theorem Encode.engineCommandStart (core : Nat) : Encode.Statement (.engineCommandStart core) := fun _ _ _ h => nomatch h
theorem Encode.engineBytesLand (core command elements : Nat) : Encode.Statement (.engineBytesLand core command elements) := fun _ _ _ h => nomatch h
theorem Encode.engineCommandEnd (core command : Nat) : Encode.Statement (.engineCommandEnd core command) := fun _ _ _ h => nomatch h
theorem Encode.pubExchange (core command : Nat) : Encode.Statement (.pubExchange core command) := fun _ _ _ h => nomatch h
theorem Encode.matrixCommandExecute (core index : Nat) : Encode.Statement (.matrixCommandExecute core index) := fun _ _ _ h => nomatch h
theorem Encode.promote (team tile : Nat) : Encode.Statement (.promote team tile) := fun _ _ _ h => nomatch h
theorem Encode.rayCommandStart (team slot : Nat) : Encode.Statement (.rayCommandStart team slot) := fun _ _ _ h => nomatch h
theorem Encode.slotEvict (team slot : Nat) : Encode.Statement (.slotEvict team slot) := fun _ _ _ h => nomatch h
theorem Encode.steplimit (team slot : Nat) : Encode.Statement (.steplimit team slot) := fun _ _ _ h => nomatch h
theorem Encode.fwork (team slot : Nat) : Encode.Statement (.fwork team slot) := fun _ _ _ h => nomatch h
theorem Encode.fpruneExecute (core : Nat) : Encode.Statement (.fpruneExecute core) := fun _ _ _ h => nomatch h
theorem Encode.binTriangle (unit : Nat) : Encode.Statement (.binTriangle unit) := fun _ _ _ h => nomatch h
theorem Encode.binReplay (team target : Nat) : Encode.Statement (.binReplay team target) := fun _ _ _ h => nomatch h
theorem Encode.tileClose (asid target tile : Nat) : Encode.Statement (.tileClose asid target tile) := fun _ _ _ h => nomatch h
theorem Encode.pmtctlSave (sel : BitVec 2) (value : BitVec 52) : Encode.Statement (.pmtctlSave sel value) := fun _ _ _ h => nomatch h
theorem Encode.pmtctlHalt (sel : BitVec 2) (value : BitVec 52) : Encode.Statement (.pmtctlHalt sel value) := fun _ _ _ h => nomatch h
theorem Encode.pmtctlResume (sel : BitVec 2) (value : BitVec 52) : Encode.Statement (.pmtctlResume sel value) := fun _ _ _ h => nomatch h
theorem Encode.coreHalt : Encode.Statement (.coreHalt) := fun _ _ _ h => nomatch h
theorem Encode.teamSave (team : Nat) : Encode.Statement (.teamSave team) := fun _ _ _ h => nomatch h
theorem Encode.teamRestore (index : Nat) : Encode.Statement (.teamRestore index) := fun _ _ _ h => nomatch h
theorem Encode.killCommand (sel : BitVec 2) (value : BitVec 52) : Encode.Statement (.killCommand sel value) := fun _ _ _ h => nomatch h
theorem Encode.hardwareError (error : HwError) : Encode.Statement (.hardwareError error) := fun _ _ _ h => nomatch h
theorem Encode.selfTest (place : ErrPlace) (outcome : TestOutcome) : Encode.Statement (.selfTest place outcome) := fun _ _ _ h => nomatch h
theorem Encode.counterSample : Encode.Statement (.counterSample) := fun _ _ _ h => nomatch h
theorem Encode.pwrctlRun : Encode.Statement (.pwrctlRun) := fun _ _ _ h => nomatch h
theorem Encode.pwrctlIdle : Encode.Statement (.pwrctlIdle) := fun _ _ _ h => nomatch h
theorem Encode.pwrctlRetain : Encode.Statement (.pwrctlRetain) := fun _ _ _ h => nomatch h
theorem Encode.powerStateChange : Encode.Statement (.powerStateChange) := fun _ _ _ h => nomatch h
theorem Encode.secadv (key : Word) : Encode.Statement (.secadv key) := fun _ _ _ h => nomatch h
theorem Encode.ckptctlGo (value : DWord) : Encode.Statement (.ckptctlGo value) := fun _ _ _ h => nomatch h
theorem Encode.checkpointEnd (failed : Bool) : Encode.Statement (.checkpointEnd failed) := fun _ _ _ h => nomatch h
theorem Encode.bringUp (boot : Boot) : Encode.Statement (.bringUp boot) := fun _ _ _ h => nomatch h
theorem Encode.companionStore (address : Nat) (bytes : List Byte) : Encode.Statement (.companionStore address bytes) := fun _ _ _ h => nomatch h

end Sys2Proof.Laws
end

