-- ==== Sys2Proof/Tests/Slice0.lean ====
section
/-! SUPPORT. Tests: terms that well-formedness refuses, words of every family with the instructions they stand for, values the chapters work
out, and a witness for the hypotheses of each obligation.

A witness takes the obligation as its hypothesis, gives a small state and operands that meet all of its premises together, and reads what
the obligation then says of them; where the obligation has several clauses, each has a witness of its own. Expected values come from the
spec's words and rules. -/

namespace Sys2Proof.Tests

set_option Elab.async false

open Sys2Proof.Machine

-- small states

/-- The state with bytes placed in device memory, as what stands there from the start. -/
def poke (s : State) (pa : Nat) (bs : List Byte) : State := { s with mem := ksetList 0 s.mem pa bs }

/-- The same of a place. -/
def pokeLoc (s : State) : Loc → List Byte → State
  | .phys pa, bs => poke s pa bs
  | .scratch tm o, bs => modTeam s tm (fun t => { t with scratch := ksetList 0 t.scratch o bs })
  | .carve o, bs => { s with carve := ksetList 0 s.carve o bs }

/-- A register file from pairs of a register's code and its value. -/
def values (xs : List (Nat × Nat)) : KMap RVal := xs.map (fun e => (e.1, ⟨BitVec.ofNat 32 e.2, false⟩))

/-- A thread at placement with the values given in its vector registers. -/
def threadWith (xs : List (Nat × Nat)) : Thread := { Thread.initial with regs := ⟨values xs, [], []⟩, csp := 0x1000 }

/-- A bundle of threads k to k + n − 1 of team 0 that stands at instruction i, a trailer after it. -/
def bundleOf (core n : Nat) (i : Instr) : Bundle :=
  { threads := List.range n, form := classOfCore core, pc := 4, base := 4, code := encode i ++ [0x70FFFFFC#32],
    seq := { head := 0, packet := 0, xmask := 0xFFFF, begun := false }, set := none, rest := none, probe := false, arrivals := [], ahead := [], early := none }

/-- A team's descriptor: 64 vector and 128 uniform registers, one barrier, one ray slot, 1 KiB of scratch, a stack. -/
def desc (n : Nat) : Desc :=
  { Desc.initial with vregd := 64, vregl := 64, uregs := 128, bars := 1, rays := 1, scratch := 1008, priv := 0x1000, teamx := n, teamy := 1, teamz := 1 }

/-- After reset, one team of n threads, each as t, whose bundle on picker 0 of a core has the focus and stands at i. -/
def scene (core n : Nat) (i : Instr) (t : Thread) : State :=
  let s := setTeam State.reset 0 { Team.initial with home := core, desc := desc n, start := classOfCore core, dims := (n, 1, 1) }
  let s := setGroup s 0 { Group.initial with core := core }
  let s := { s with threads := (List.range n).map (fun k => (k, t)) }
  { setBundle s core 0 (some (bundleOf core n i)) with nextTeam := 1, focus := (core, 0) }

/-- What makes a bundle of one thread execute i with E. -/
theorem executes_one {s : State} {i : Instr} {b : Bundle} {E : Nat → State → State → Prop} {k : Nat} {u v : State}
    (h1 : Issues s i b) (h2 : b.threads = [k]) (h3 : b.rest = none) (h4 : mustWait s b i k = false)
    (h5 : prepare (noted s b i) b i k = .ok u) (h6 : E k u v) : Executes s i b E v := by
  refine ⟨h1, ?_, ?_⟩
  · rw [h3, h2]; simpa using h4
  · rw [h3, h2]; exact ⟨u, v, h5, h6, rfl⟩

/-- The scene of one thread, on core 0. -/
abbrev oneAt (i : Instr) (xs : List (Nat × Nat)) : State := scene 0 1 i (threadWith xs)

/-- The value in vector register d of thread 0. -/
def reg (s : State) (d : Nat) : Nat := (kget RVal.zero (getThread s 0).regs.v d).bits.toNat
/-- Predicate n of thread 0. -/
def pred (s : State) (n : Nat) : Bool := (kget PVal.zero (getThread s 0).regs.p n).val
/-- The pending results of thread 0: their destinations and the values that have come. -/
def pending (s : State) : List (List Nat × Option (List Nat)) := (getThread s 0).pend.map (fun p => (p.dests, p.value.map (·.map (·.bits.toNat))))

/-- The same of an instruction that takes effect once for each group. -/
theorem by_group_one {s : State} {i : Instr} {b : Bundle} {E : Nat → State → State → Prop} {k : Nat} {u v : State}
    (h1 : Issues s i b) (h2 : b.threads = [k]) (h4 : mustWait s b i k = false)
    (h5 : prepare (noted s b i) b i k = .ok u) (h7 : leaders b.threads = [k]) (h6 : E k u v) : ExecutesByGroup s i b E v := by
  refine ⟨h1, ?_, u, ?_, ?_⟩
  · rw [h2]; simpa using h4
  · rw [h2]; exact ⟨u, u, h5, ⟨rfl, v, h6⟩, rfl⟩
  · rw [h7]; exact ⟨v, h6, rfl⟩

/-- The same of a group-convergent instruction. -/
theorem converges_one {s : State} {i : Instr} {b : Bundle} {E : Nat → State → State → Prop} {k : Nat} {u v : State}
    (h1 : Issues s i b) (h2 : b.threads = [k]) (h4 : mustWait s b i k = false)
    (h5 : prepare s b i k = .ok u) (h6 : ∀ r ∈ regReads i, 64 ≤ r → r < 80 → (readVx u k r).isSome = true)
    (h7 : [k] = bundleOrder u (liveOfGroup u (keyGroup k))) (h8 : E k (noteIssue u s.focus.1 b i) v) : Converges s i b E v := by
  refine ⟨h1, ?_, k, u, ?_, ?_, ?_, h8⟩
  · rw [h2]; simpa using h4
  · rw [h2]; rfl
  · rw [h2]; exact ⟨u, u, h5, ⟨rfl, h6⟩, rfl⟩
  · rw [h2]; exact h7

/-- Uniform register n of group 0. -/
def uni (s : State) (n : Nat) : Nat := (kget RVal.zero (getGroup s 0).uregs n).bits.toNat

/-- The scene of one thread as t, on core 0, with ASID 0 mapped: the GiB at virtual address 0 to physical address 0, private memory at
1 MiB, and the first 192 MiB of the carve-out as its window; nothing names a page in the thread's last-page register. -/
def mappedAt (i : Instr) (t : Thread) : State :=
  let s := { scene 0 1 i t with astab := 0x20000#64, pubtab := 0x30000000000#64, marcfgReq := 1, marcfgActive := 1 }
  let s := poke s 0x10000 (leBytes 8 0x11001)
  let s := poke s 0x11000 (leBytes 8 0x1F)
  poke s 0x20000 (leBytes 8 0x10001 ++ leBytes 8 0x100000 ++ leBytes 4 0x1000 ++ leBytes 4 0 ++ leBytes 4 1)

/-- The scene of one thread as t, on core 0, whose team has a handler at 0x40 of its dense code. -/
def handled (i : Instr) (t : Thread) : State := modTeam (scene 0 1 i t) 0 (fun x => { x with trapvec := 0x80000010#32 })

/-- A computed answer, checked by the kernel. -/
theorem ok_of {ε : Type} {α : Type} [DecidableEq α] {x : Except ε α} {n : α}
    (h : (match x with | .ok m => decide (m = n) | .error _ => false) = true) : x = .ok n := by
  cases x with
  | ok m => exact congrArg Except.ok (of_decide_eq_true h)
  | error e => cases h

/-- The bytes of a tensor entry of rank 1: four F32 elements from a base in global memory (R290). -/
def tensor (base : Nat) : List Byte :=
  leBytes 8 base ++ leBytes 8 0 ++ [0#8, 1#8, 0#8, 1#8] ++ leBytes 4 0 ++ leBytes 4 4 ++ (List.replicate 7 (leBytes 4 1)).flatten ++ leBytes 72 0

/-- The mapped scene with 16 KiB of scratch, a grid at 0x70000, two tensor entries, and a target descriptor at 0x30000 whose one tile's
store begins at 0, with its primitive table at 0x31000, its status word at 0x32000 and its bins at 0x33000. -/
def unitScene (i : Instr) (t : Thread) : State :=
  let s := modTeam (mappedAt i t) 0 (fun x =>
    { x with grid := 0x70000, desc := { x.desc with scratch := 0x3FF0 }, tids := ksetList 0 [] 0 (tensor 0x34000 ++ tensor 0x35000) })
  let s := { s with grids := [{ pod := 0x70000, va := 0x70000, asid := 0, cls := 0, prio := 0, frame := 0, dims := (1, 1, 1), desc := desc 1,
                                team := (1, 1, 1), next := 1, stopped := none, killed := none, killDone := false }] }
  poke s 0x30000 (leBytes 8 0x70000 ++ leBytes 8 0x31000 ++ leBytes 4 1 ++ leBytes 2 1 ++ leBytes 2 1 ++ leBytes 4 0 ++ leBytes 4 0 ++
    leBytes 4 1 ++ leBytes 4 0 ++ leBytes 8 0x32000 ++ leBytes 8 0x33000 ++ leBytes 4 4 ++ leBytes 4 0)

/-- The target of the scene (R358). -/
def target : Target :=
  { addr := 0x30000, owner := 0x70000, ptab := 0x31000, pcount := 1, tw := 1, th := 1, stoff := 0, cbar := 0, cullBack := false,
    barEn := false, nsrc := 1, ends := 0, tstat := 0x32000, bins := 0x33000, binCap := 4 }

/-- A computed error, checked by the kernel. -/
theorem err_of {ε : Type} {α : Type} [DecidableEq ε] {x : Except ε α} {e : ε}
    (h : (match x with | .ok _ => false | .error d => decide (d = e)) = true) : x = .error e := by
  cases x with
  | ok m => cases h
  | error d => exact congrArg Except.error (of_decide_eq_true h)

/-- Nothing is said of the answer of what fails. -/
theorem no_ok {ε : Type} {α : Type} {x : Except ε α} {Q : α → Prop} (h : (match x with | .ok _ => false | .error _ => true) = true) :
    ∀ p, x = .ok p → Q p := by
  intro p e
  rw [e] at h
  cases h

/-- An answer that is one. -/
theorem ok_get {ε : Type} {α : Type} {x : Except ε α} (d : α) (h : (match x with | .ok _ => true | .error _ => false) = true) :
    x = .ok (match x with | .ok v => v | .error _ => d) := by
  cases x with
  | ok m => rfl
  | error e => cases h

/-- An answer that is a pair, whose first part is n. -/
theorem ok_fst {ε : Type} {β : Type} {x : Except ε (Nat × β)} {n : Nat} (d : β)
    (h : (match x with | .ok v => decide (v.1 = n) | .error _ => false) = true) : x = .ok (n, match x with | .ok v => v.2 | .error _ => d) := by
  cases x with
  | ok m => exact congrArg Except.ok (Prod.ext (of_decide_eq_true h) rfl)
  | error e => cases h

/-- What an option holds. -/
theorem some_of {α : Type} {o : Option α} (d : α) (h : o.isSome = true) : o = some (o.getD d) := by
  cases o with
  | some a => rfl
  | none => cases h
-- well-formedness: a term that each check refuses, beside one it accepts

theorem test_wellFormed_mustBeZero : wellFormed .d (.neg ⟨false, 1, 2, 3, 0, none⟩) = false ∧ wellFormed .d (.neg ⟨false, 1, 2, 0, 0, none⟩) = true := by decide
theorem test_wellFormed_oddPair : wellFormed .d (.add ⟨false, 3, 4, 6, 2, none⟩) = false ∧ wellFormed .d (.add ⟨false, 2, 4, 6, 2, none⟩) = true := by decide
theorem test_wellFormed_destination : wellFormed .d (.add ⟨false, 115, 2, 3, 0, none⟩) = false ∧ wellFormed .d (.add ⟨false, 127, 2, 3, 0, none⟩) = true := by decide
theorem test_wellFormed_readDestination : wellFormed .d (.mad ⟨false, 127, 2, 3, 0, none⟩) = false := by decide
theorem test_wellFormed_predicate : wellFormed .d (.pand ⟨false, 3, 112, 113, 0, none⟩) = false ∧ wellFormed .d (.pand ⟨false, 114, 112, 113, 0, none⟩) = true := by decide
theorem test_wellFormed_latch : wellFormed .l (.add ⟨false, 68, 2, 3, 0, none⟩) = false ∧ wellFormed .d (.add ⟨false, 68, 2, 3, 0, none⟩) = true := by decide
theorem test_wellFormed_literal : wellFormed .d (.add ⟨false, 1, 127, 3, 0, none⟩) = false ∧ wellFormed .d (.add ⟨false, 1, 127, 3, 0, some 5⟩) = true ∧
    wellFormed .d (.add ⟨false, 1, 2, 3, 0, some 5⟩) = false ∧ wellFormed .d (.add ⟨false, 1, 127, 127, 0, some 5⟩) = false := by decide
theorem test_wellFormed_field : wellFormed .d (.fclass ⟨false, 1, 2, 0, 3, none⟩) = false ∧ wellFormed .d (.bra ⟨false, 1, false, 0⟩) = false := by decide
theorem test_wellFormed_form : wellFormed .l (.runh ⟨false, 3, 0, 1⟩) = false ∧ wellFormed .d (.runh ⟨false, 25, 0, 1⟩) = false ∧
    wellFormed .d (.runh ⟨false, 3, 0, 1⟩) = true := by decide
theorem test_wellFormed_uniform : wellFormed .d (.uniformPipeOp 0x1E ⟨false, 40, 40, 0, 0, 0, 1, some 1⟩) = false ∧
    wellFormed .d (.uniformPipeOp 0 ⟨false, 40, 40, 0, 0, 0, 1, some 1⟩) = true := by decide

-- decoding: the words that the chapters write out, a family at a time

/-- The words are those of the instruction, and of nothing more. -/
abbrev are (ws : List Word) (i : Instr) : Prop := decodeWords ws = .ok (i, [])

theorem test_decode_movi : are [0x0F01000A#32] (.movi ⟨false, 1, 10, none⟩) := rfl
theorem test_decode_add : are [0x00020404#32] (.add ⟨false, 2, 2, 1, 0, none⟩) := rfl
theorem test_decode_addI : are [0x108103FF#32] (.addI ⟨false, 1, 1, 0x1FF, none⟩) := rfl
theorem test_decode_cmp : are [0x78F103C0#32, 0x00000004#32] (.cmp ⟨false, 113, 1, 112, 0, 0, 4, none⟩) := rfl
theorem test_decode_brp : are [0x2297FFFB#32] (.brp ⟨false, 1, false, 0x7FFFB⟩) := rfl
theorem test_decode_exit : are [0x24800000#32] (.exit ⟨false, 0, 0, 0, 0, none⟩) := rfl
theorem test_decode_run : are [0x71000000#32] (.pad ⟨false, 0⟩) ∧ are [0x700C0001#32] (.runh ⟨false, 3, 0, 1⟩) := ⟨rfl, rfl⟩
theorem test_decode_fmul : are [0x31400208#32] (.fmul ⟨false, 64, 1, 2, 0, none⟩) := rfl
theorem test_decode_uniform : are [0x78285000#32, 1, 1] (.uniformPipeOp 0 ⟨false, 40, 40, 0, 0, 0, 1, some 1⟩) := rfl
theorem test_decode_xadd : are [0x3D0609FC#32, 0x30800000#32] (.xadd ⟨false, 6, 4, 127, 0, some 0x30800000⟩) := rfl
theorem test_decode_gred : are [0x4A050820#32] (.gred ⟨false, 5, 4, 8, 0, none⟩) := rfl
theorem test_decode_gshf : are [0x48030411#32] (.gshf ⟨false, 3, 2, 4, 1, none⟩) := rfl
theorem test_decode_eqp : are [0x62800003#32] (.eqp ⟨false, 0, 3, none⟩) := rfl
theorem test_decode_loads : are [0x53030900#32] (.ldg ⟨false, 3, 4, 64, 0, none⟩) ∧ are [0x5582FF40#32, 0x10] (.lda ⟨false, 2, 127, 80, 0, some 0x10⟩) := ⟨rfl, rfl⟩
theorem test_decode_stores : are [0x51870512#32] (.sts ⟨false, 7, 2, 68, 2, none⟩) ∧ are [0x54080830#32] (.stgm ⟨false, 8, 4, 12, 0, none⟩) := ⟨rfl, rfl⟩
theorem test_decode_brkf : are [0x568C0820#32] (.brkf ⟨false, 12, 4, 8, 0, none⟩) := rfl
theorem test_decode_atomics : are [0x5788096B#32] (.atg ⟨false, 8, 4, 90, 3, none⟩) ∧ are [0x58090820#32] (.red ⟨false, 9, 4, 8, 0, none⟩) := ⟨rfl, rfl⟩
theorem test_decode_fence : are [0x59000021#32] (.fence ⟨false, 0, 0, 8, 1, none⟩) := rfl
theorem test_decode_barriers : are [0x60870819#32] (.barx ⟨false, 7, 4, 6, 1, none⟩) ∧ are [0x6180081C#32] (.barw ⟨false, 0, 4, 7, 0, none⟩) := ⟨rfl, rfl⟩
theorem test_decode_system : are [0x68280068#32] (.csrr ⟨false, 40, 0x068, none⟩) ∧ are [0x6980FE00#32, 5] (.halt ⟨false, 0, 127, 0, 0, some 5⟩) ∧
    are [0x69000800#32] (.tlbiPage ⟨false, 0, 4, 0, 0, none⟩) := ⟨rfl, rfl, rfl⟩
theorem test_decode_cpy : are [0x79820610#32, 0x020B0001#32] (.cpy ⟨false, 2, 3, 4, 0, 5, 0x10001, none⟩) := rfl
theorem test_decode_matrix : are [0x7A060814#32, 0x030F0003#32] (.mxst ⟨false, 6, 4, 5, 0, 7, 0x10003, none⟩) ∧
    are [0x7A020600#32, 0] (.mxcfgAcq ⟨false, 2, 3, 0, 0, 0, 0, none⟩) := ⟨rfl, rfl⟩
theorem test_decode_ray : are [0x7A901010#32, 0x020C0000#32] (.mloc ⟨false, 16, 8, 4, 0, 6, 0, none⟩) := rfl
theorem test_decode_raster : are [0x7B000818#32, 0x01100000#32] (.visw ⟨false, 0, 4, 6, 0, 8, 0, none⟩) := rfl

/-- An OP, and a SUB, that no row assigns (R49). -/
theorem test_decode_unassigned : decodeWords [0xFF800000#32, 0, 0] = .error (.illop 255 0) ∧ decodeWords [0x79000000#32, 0xFF000000#32, 0] = .error (.illop 242 255) := ⟨rfl, rfl⟩
theorem test_decode_short : decodeWords [0x78F103C0#32] = .error .short := rfl

-- the bytes of the lowest address hold the least significant bits of the first word (R22), and step runs what is placed

theorem test_decodeTableWord : decodeTableWord 32 0x0F01000A = some (.movi ⟨false, 1, 10, none⟩) := by decide
theorem test_step_runs : (match step (State.reset.withFetchWord 32 0x0F01000A) with | .next t => reg t 1 | _ => 0) = 10 := by decide +kernel

-- values that the chapters work out

/-- The butterfly order of chapter 10's first worked example: 16,777,218, not 16,777,216 or 16,777,220. -/
theorem test_gred_order : (butterfly (combOp 0 2 .rn 0) ((List.range 32).map (fun t =>
    some ⟨if t = 0 then 0x4B800000#32 else if t = 1 ∨ t = 16 ∨ t = 17 then 0x3F800000#32 else 0, false⟩))).map (·.bits.toNat) = some 0x4B800001 := by decide +kernel

-- witnesses

theorem witness_ArithmeticResult_add (h : Obligations.ArithmeticResult) :
    ∃ t, exec (.add ⟨false, 3, 1, 2, 0, none⟩) (oneAt (.add ⟨false, 3, 1, 2, 0, none⟩) [(1, 0xFFFFFFFF), (2, 2)]) = .next t ∧ reg t 3 = 1 :=
  ⟨_, h.1 _ _ rfl rfl _ _ _ (executes_one ⟨rfl, rfl, rfl⟩ rfl rfl rfl rfl ⟨_, _, rfl, rfl, rfl⟩), rfl⟩

theorem witness_ArithmeticResult_mulh64 (h : Obligations.ArithmeticResult) :
    ∃ t, exec (.mulh ⟨false, 4, 6, 8, 2, none⟩) (oneAt (.mulh ⟨false, 4, 6, 8, 2, none⟩) [(6, 0xFFFFFFFF), (7, 0xFFFFFFFF), (8, 1)]) = .next t ∧ reg t 4 = 0xFFFFFFFF ∧ reg t 5 = 0xFFFFFFFF :=
  ⟨_, h.1 _ _ rfl rfl _ _ _ (executes_one ⟨rfl, rfl, rfl⟩ rfl rfl rfl rfl ⟨_, _, rfl, rfl, rfl⟩), rfl, rfl⟩

theorem witness_ArithmeticResult_neg (h : Obligations.ArithmeticResult) :
    ∃ t, exec (.neg ⟨false, 3, 1, 0, 1, none⟩) (oneAt (.neg ⟨false, 3, 1, 0, 1, none⟩) [(1, 0x80000000)]) = .next t ∧ reg t 3 = 0x7FFFFFFF :=
  ⟨_, h.2.1 _ _ rfl rfl _ _ _ (executes_one ⟨rfl, rfl, rfl⟩ rfl rfl rfl rfl ⟨_, rfl, rfl⟩), rfl⟩

theorem witness_ArithmeticResult_addI (h : Obligations.ArithmeticResult) :
    ∃ t, exec (.addI ⟨false, 1, 1, 0x1FF, none⟩) (oneAt (.addI ⟨false, 1, 1, 0x1FF, none⟩) [(1, 0)]) = .next t ∧ reg t 1 = 0xFFFFFFFF :=
  ⟨_, h.2.2.1 _ _ rfl rfl _ _ _ (executes_one ⟨rfl, rfl, rfl⟩ rfl rfl rfl rfl ⟨_, rfl, rfl⟩), rfl⟩

theorem witness_ArithmeticResult_mad (h : Obligations.ArithmeticResult) :
    ∃ t, exec (.mad ⟨false, 3, 1, 2, 0, none⟩) (oneAt (.mad ⟨false, 3, 1, 2, 0, none⟩) [(1, 3), (2, 5), (3, 7)]) = .next t ∧ reg t 3 = 22 :=
  ⟨_, h.2.2.2.1 _ _ _ _ (executes_one ⟨rfl, rfl, rfl⟩ rfl rfl rfl rfl ⟨_, _, _, rfl, rfl, rfl, rfl⟩), rfl⟩

theorem witness_ArithmeticResult_madw (h : Obligations.ArithmeticResult) :
    ∃ t, exec (.madw ⟨false, 4, 1, 2, 0, none⟩) (oneAt (.madw ⟨false, 4, 1, 2, 0, none⟩) [(1, 0xFFFFFFFF), (2, 2), (4, 1)]) = .next t ∧ reg t 4 = 0xFFFFFFFF ∧ reg t 5 = 0xFFFFFFFF :=
  ⟨_, h.2.2.2.2.1 _ _ _ _ (executes_one ⟨rfl, rfl, rfl⟩ rfl rfl rfl rfl ⟨_, _, _, rfl, rfl, rfl, rfl⟩), rfl, rfl⟩

theorem witness_ArithmeticResult_lea (h : Obligations.ArithmeticResult) :
    ∃ t, exec (.lea ⟨false, 4, 6, 2, 3, none⟩) (oneAt (.lea ⟨false, 4, 6, 2, 3, none⟩) [(6, 0x10), (2, 0xFFFFFFFF)]) = .next t ∧ reg t 4 = 8 ∧ reg t 5 = 0 :=
  ⟨_, h.2.2.2.2.2 _ _ _ _ (executes_one ⟨rfl, rfl, rfl⟩ rfl rfl rfl rfl ⟨_, _, rfl, rfl, rfl⟩), rfl, rfl⟩

theorem witness_BitResult_andn (h : Obligations.BitResult) :
    ∃ t, exec (.andn ⟨false, 3, 1, 2, 0, none⟩) (oneAt (.andn ⟨false, 3, 1, 2, 0, none⟩) [(1, 0xFF), (2, 0x0F)]) = .next t ∧ reg t 3 = 0xF0 :=
  ⟨_, h.1 _ _ rfl rfl _ _ _ (executes_one ⟨rfl, rfl, rfl⟩ rfl rfl rfl rfl ⟨_, _, rfl, rfl, rfl⟩), rfl⟩

theorem witness_BitResult_not (h : Obligations.BitResult) :
    ∃ t, exec (.not ⟨false, 3, 1, 0, 0, none⟩) (oneAt (.not ⟨false, 3, 1, 0, 0, none⟩) [(1, 1)]) = .next t ∧ reg t 3 = 0xFFFFFFFE :=
  ⟨_, h.2.1 _ _ rfl rfl _ _ _ (executes_one ⟨rfl, rfl, rfl⟩ rfl rfl rfl rfl ⟨_, rfl, rfl⟩), rfl⟩

theorem witness_BitResult_sarI (h : Obligations.BitResult) :
    ∃ t, exec (.sarI ⟨false, 3, 1, 32, none⟩) (oneAt (.sarI ⟨false, 3, 1, 32, none⟩) [(1, 0x80000000)]) = .next t ∧ reg t 3 = 0xFFFFFFFF :=
  ⟨_, h.2.2.1 _ _ rfl rfl _ _ _ (executes_one ⟨rfl, rfl, rfl⟩ rfl rfl rfl rfl ⟨_, rfl, rfl⟩), rfl⟩

theorem witness_BitResult_shl_by_width (h : Obligations.BitResult) :
    ∃ t, exec (.shl ⟨false, 3, 1, 2, 0, none⟩) (oneAt (.shl ⟨false, 3, 1, 2, 0, none⟩) [(1, 0xFFFFFFFF), (2, 32)]) = .next t ∧ reg t 3 = 0 :=
  ⟨_, h.2.2.2.1 _ _ rfl _ _ _ (executes_one ⟨rfl, rfl, rfl⟩ rfl rfl rfl rfl ⟨_, _, rfl, rfl, rfl⟩), rfl⟩

theorem witness_BitResult_bfx_clipped (h : Obligations.BitResult) :
    ∃ t, exec (.bfx ⟨false, 3, 1, 2, 0, none⟩) (oneAt (.bfx ⟨false, 3, 1, 2, 0, none⟩) [(1, 0x80000000), (2, 0x081F)]) = .next t ∧ reg t 3 = 0xFFFFFFFF :=
  ⟨_, h.2.2.2.1 _ _ rfl _ _ _ (executes_one ⟨rfl, rfl, rfl⟩ rfl rfl rfl rfl ⟨_, _, rfl, rfl, rfl⟩), rfl⟩

theorem witness_BitResult_clz_of_zero (h : Obligations.BitResult) :
    ∃ t, exec (.clz ⟨false, 4, 6, 0, 2, none⟩) (oneAt (.clz ⟨false, 4, 6, 0, 2, none⟩) []) = .next t ∧ reg t 4 = 64 :=
  ⟨_, h.2.2.2.2.1 _ _ rfl _ _ _ (executes_one ⟨rfl, rfl, rfl⟩ rfl rfl rfl rfl ⟨_, rfl, rfl⟩), rfl⟩

theorem witness_BitResult_bfi (h : Obligations.BitResult) :
    ∃ t, exec (.bfi ⟨false, 3, 1, 2, 0, none⟩) (oneAt (.bfi ⟨false, 3, 1, 2, 0, none⟩) [(1, 0x1FF), (2, 0x0804), (3, 0xF000000F)]) = .next t ∧ reg t 3 = 0xF0000FFF :=
  ⟨_, h.2.2.2.2.2.1 _ _ _ _ (executes_one ⟨rfl, rfl, rfl⟩ rfl rfl rfl rfl ⟨_, _, _, rfl, rfl, rfl, rfl⟩), rfl⟩

theorem witness_BitResult_bmsk (h : Obligations.BitResult) :
    ∃ t, exec (.bmsk ⟨false, 4, 1, 2, 2, none⟩) (oneAt (.bmsk ⟨false, 4, 1, 2, 2, none⟩) [(1, 60), (2, 64)]) = .next t ∧ reg t 4 = 0 ∧ reg t 5 = 0xF0000000 :=
  ⟨_, h.2.2.2.2.2.2 _ _ _ _ (executes_one ⟨rfl, rfl, rfl⟩ rfl rfl rfl rfl ⟨_, _, rfl, rfl, rfl⟩), rfl, rfl⟩

theorem witness_CarryResult_addc (h : Obligations.CarryResult) :
    ∃ t, exec (.addc ⟨false, 3, 1, 2, 1, none⟩) (oneAt (.addc ⟨false, 3, 1, 2, 1, none⟩) [(1, 0xFFFFFFFF), (2, 1)]) = .next t ∧ reg t 3 = 0 ∧ pred t 5 = true :=
  ⟨_, (h _).1 _ _ _ (executes_one ⟨rfl, rfl, rfl⟩ rfl rfl rfl rfl ⟨_, _, rfl, rfl, rfl⟩), rfl, rfl⟩

theorem witness_CarryResult_subb (h : Obligations.CarryResult) :
    ∃ t, exec (.subb ⟨false, 3, 1, 2, 1, none⟩) (oneAt (.subb ⟨false, 3, 1, 2, 1, none⟩) [(1, 0), (2, 1)]) = .next t ∧ reg t 3 = 0xFFFFFFFF ∧ pred t 5 = true :=
  ⟨_, (h _).2 _ _ _ (executes_one ⟨rfl, rfl, rfl⟩ rfl rfl rfl rfl ⟨_, _, rfl, rfl, rfl⟩), rfl, rfl⟩

theorem witness_ThreeOperandResult_prmt (h : Obligations.ThreeOperandResult) :
    ∃ t, exec (.prmt ⟨false, 3, 1, 2, 0, 4, 0, none⟩) (oneAt (.prmt ⟨false, 3, 1, 2, 0, 4, 0, none⟩) [(1, 0x03020180), (2, 0x07060504), (4, 0x8107)]) = .next t ∧ reg t 3 = 0xFF018007 :=
  ⟨_, h _ _ rfl _ _ _ (executes_one ⟨rfl, rfl, rfl⟩ rfl rfl rfl rfl ⟨_, _, _, rfl, rfl, rfl, rfl⟩), rfl⟩

theorem witness_ThreeOperandResult_fshl (h : Obligations.ThreeOperandResult) :
    ∃ t, exec (.fshl ⟨false, 3, 1, 2, 0, 4, 0, none⟩) (oneAt (.fshl ⟨false, 3, 1, 2, 0, 4, 0, none⟩) [(1, 0x12345678), (2, 0x9ABCDEF0), (4, 8)]) = .next t ∧ reg t 3 = 0x3456789A :=
  ⟨_, h _ _ rfl _ _ _ (executes_one ⟨rfl, rfl, rfl⟩ rfl rfl rfl rfl ⟨_, _, _, rfl, rfl, rfl, rfl⟩), rfl⟩

theorem witness_ThreeOperandResult_fshr (h : Obligations.ThreeOperandResult) :
    ∃ t, exec (.fshr ⟨false, 3, 1, 2, 0, 4, 0, none⟩) (oneAt (.fshr ⟨false, 3, 1, 2, 0, 4, 0, none⟩) [(1, 0x12345678), (2, 0x9ABCDEF0), (4, 33)]) = .next t ∧ reg t 3 = 0x12345678 :=
  ⟨_, h _ _ rfl _ _ _ (executes_one ⟨rfl, rfl, rfl⟩ rfl rfl rfl rfl ⟨_, _, _, rfl, rfl, rfl, rfl⟩), rfl⟩

theorem witness_CompareAndSelectResult_cmp (h : Obligations.CompareAndSelectResult) :
    ∃ t, exec (.cmp ⟨false, 113, 1, 2, 0, 0, 2, none⟩) (oneAt (.cmp ⟨false, 113, 1, 2, 0, 0, 2, none⟩) [(1, 0xFFFFFFFF), (2, 0)]) = .next t ∧ pred t 1 = true :=
  ⟨_, h.1 _ _ (.inl rfl) _ _ _ (executes_one ⟨rfl, rfl, rfl⟩ rfl rfl rfl rfl ⟨_, _, rfl, rfl, rfl⟩), rfl⟩

theorem witness_CompareAndSelectResult_cmpv (h : Obligations.CompareAndSelectResult) :
    ∃ t, exec (.cmpv ⟨false, 3, 1, 2, 1, 112, 12, none⟩) (oneAt (.cmpv ⟨false, 3, 1, 2, 1, 112, 12, none⟩) [(1, 0xFFFFFFFF), (2, 0)]) = .next t ∧ reg t 3 = 0 :=
  ⟨_, h.1 _ _ (.inr rfl) _ _ _ (executes_one ⟨rfl, rfl, rfl⟩ rfl rfl rfl rfl ⟨_, _, rfl, rfl, rfl⟩), rfl⟩

theorem witness_CompareAndSelectResult_sel (h : Obligations.CompareAndSelectResult) :
    ∃ t, exec (.sel ⟨false, 3, 1, 2, 0, 112, 0, none⟩) (oneAt (.sel ⟨false, 3, 1, 2, 0, 112, 0, none⟩) [(1, 10), (2, 20)]) = .next t ∧ reg t 3 = 20 :=
  ⟨_, h.2 _ _ _ _ (executes_one ⟨rfl, rfl, rfl⟩ rfl rfl rfl rfl ⟨_, _, rfl, rfl, rfl⟩), rfl⟩

theorem witness_MoveResult_mov (h : Obligations.MoveResult) :
    ∃ t, exec (.mov ⟨false, 3, 1, 0, 0, none⟩) (oneAt (.mov ⟨false, 3, 1, 0, 0, none⟩) [(1, 9)]) = .next t ∧ reg t 3 = 9 :=
  ⟨_, h.1 _ _ _ _ (executes_one ⟨rfl, rfl, rfl⟩ rfl rfl rfl rfl ⟨_, rfl, rfl⟩), rfl⟩

theorem witness_MoveResult_movi (h : Obligations.MoveResult) :
    ∃ t, exec (.movi ⟨false, 1, 0x8000, none⟩) (oneAt (.movi ⟨false, 1, 0x8000, none⟩) []) = .next t ∧ reg t 1 = 0xFFFF8000 :=
  ⟨_, h.2.1 _ _ _ _ (executes_one ⟨rfl, rfl, rfl⟩ rfl rfl rfl rfl rfl), rfl⟩

theorem witness_MoveResult_movhi (h : Obligations.MoveResult) :
    ∃ t, exec (.movhi ⟨false, 1, 0x1234, none⟩) (oneAt (.movhi ⟨false, 1, 0x1234, none⟩) [(1, 0xFFFF8000)]) = .next t ∧ reg t 1 = 0x12348000 :=
  ⟨_, h.2.2 _ _ _ _ (executes_one ⟨rfl, rfl, rfl⟩ rfl rfl rfl rfl ⟨_, rfl, rfl⟩), rfl⟩

theorem witness_PredicateResult_pand (h : Obligations.PredicateResult) :
    ∃ t, exec (.pand ⟨false, 114, 112, 113, 3, none⟩) (oneAt (.pand ⟨false, 114, 112, 113, 3, none⟩) []) = .next t ∧ pred t 2 = true :=
  ⟨_, h.1 _ _ rfl _ _ _ (executes_one ⟨rfl, rfl, rfl⟩ rfl rfl rfl rfl rfl), rfl⟩

theorem witness_PredicateResult_pnot (h : Obligations.PredicateResult) :
    ∃ t, exec (.pnot ⟨false, 114, 112, 0, 0, none⟩) (oneAt (.pnot ⟨false, 114, 112, 0, 0, none⟩) []) = .next t ∧ pred t 2 = true :=
  ⟨_, h.2 _ _ _ _ (executes_one ⟨rfl, rfl, rfl⟩ rfl rfl rfl rfl rfl), rfl⟩

theorem witness_BranchResult_bra (h : Obligations.BranchResult) :
    ∃ t, exec (.bra ⟨false, 0, false, 5⟩) (oneAt (.bra ⟨false, 0, false, 5⟩) []) = .next t ∧ (getThread t 0).next = some 24 :=
  ⟨_, (h _).1 _ _ _ (executes_one ⟨rfl, rfl, rfl⟩ rfl rfl rfl rfl rfl), rfl⟩

theorem witness_BranchResult_joinh (h : Obligations.BranchResult) :
    ∃ t, exec (.joinh ⟨false, 0, false, 5⟩) (oneAt (.joinh ⟨false, 0, false, 5⟩) []) = .next t ∧ (getThread t 0).joinPc = some 24 :=
  ⟨_, (h _).2.1 _ _ _ (executes_one ⟨rfl, rfl, rfl⟩ rfl rfl rfl rfl rfl), rfl⟩

theorem witness_BranchResult_brp (h : Obligations.BranchResult) :
    ∃ t, exec (.brp ⟨false, 1, true, 5⟩) (oneAt (.brp ⟨false, 1, true, 5⟩) []) = .next t ∧ (getThread t 0).next = some 24 :=
  ⟨_, (h _).2.2 _ _ _ (executes_one ⟨rfl, rfl, rfl⟩ rfl rfl rfl rfl ⟨rfl, rfl⟩), rfl⟩

theorem witness_UniformResult_add (h : Obligations.UniformResult) :
    ∃ t, exec (.uniformPipeOp 0 ⟨false, 40, 40, 0, 0, 0, 1, (some 5)⟩) (oneAt (.uniformPipeOp 0 ⟨false, 40, 40, 0, 0, 0, 1, (some 5)⟩) []) = .next t ∧ uni t 40 = 5 :=
  ⟨_, (h.1 0 _ ⟨false, 0, 0, 0, 0, none⟩ _ rfl).1 _ rfl _ _ _ (by_group_one ⟨rfl, rfl, rfl⟩ rfl rfl rfl rfl rfl), rfl⟩

theorem witness_UniformResult_not (h : Obligations.UniformResult) :
    ∃ t, exec (.uniformPipeOp 0x10 ⟨false, 40, 40, 0, 0, 0, 0, none⟩) (oneAt (.uniformPipeOp 0x10 ⟨false, 40, 40, 0, 0, 0, 0, none⟩) []) = .next t ∧ uni t 40 = 0xFFFFFFFF :=
  ⟨_, (h.1 0x10 _ ⟨false, 0, 0, 0, 0, none⟩ _ rfl).2.1 _ rfl _ _ _ (by_group_one ⟨rfl, rfl, rfl⟩ rfl rfl rfl rfl rfl), rfl⟩

theorem witness_UniformResult_v2g (h : Obligations.UniformResult) :
    ∃ t, exec (.v2g ⟨false, 82, 1, 0, 0, none⟩) (oneAt (.v2g ⟨false, 82, 1, 0, 0, none⟩) [(1, 7)]) = .next t ∧ uni t 2 = 7 :=
  ⟨_, h.2 _ _ _ _ (by_group_one ⟨rfl, rfl, rfl⟩ rfl rfl rfl rfl ⟨_, rfl, rfl⟩), rfl⟩

theorem witness_UniformResult_shl (h : Obligations.UniformResult) :
    ∃ t, exec (.uniformPipeOp 0x11 ⟨false, 40, 40, 0, 0, 0, 1, (some 32)⟩) (oneAt (.uniformPipeOp 0x11 ⟨false, 40, 40, 0, 0, 0, 1, (some 32)⟩) []) = .next t ∧ uni t 40 = 0 :=
  ⟨_, (h.1 0x11 _ ⟨false, 0, 0, 0, 0, none⟩ _ rfl).2.2.1 _ rfl _ _ _ (by_group_one ⟨rfl, rfl, rfl⟩ rfl rfl rfl rfl rfl), rfl⟩

theorem witness_UniformResult_clz (h : Obligations.UniformResult) :
    ∃ t, exec (.uniformPipeOp 0x19 ⟨false, 42, 40, 0, 2, 0, 0, none⟩) (oneAt (.uniformPipeOp 0x19 ⟨false, 42, 40, 0, 2, 0, 0, none⟩) []) = .next t ∧ uni t 42 = 64 :=
  ⟨_, (h.1 0x19 _ ⟨false, 0, 0, 0, 0, none⟩ _ rfl).2.2.2.1 _ rfl _ _ _ (by_group_one ⟨rfl, rfl, rfl⟩ rfl rfl rfl rfl rfl), rfl⟩

theorem witness_UniformResult_mad (h : Obligations.UniformResult) :
    ∃ t, exec (.uniformPipeOp 0x06 ⟨false, 40, 40, 0, 0, 0, 1, (some 5)⟩) (oneAt (.uniformPipeOp 0x06 ⟨false, 40, 40, 0, 0, 0, 1, (some 5)⟩) []) = .next t ∧ uni t 40 = 0 :=
  ⟨_, (h.1 0x06 _ ⟨false, 0, 0, 0, 0, none⟩ _ rfl).2.2.2.2.1 rfl _ _ _ (by_group_one ⟨rfl, rfl, rfl⟩ rfl rfl rfl rfl rfl), rfl⟩

theorem witness_UniformResult_madw (h : Obligations.UniformResult) :
    ∃ t, exec (.uniformPipeOp 0x07 ⟨false, 42, 40, 0, 0, 0, 1, (some 5)⟩) (oneAt (.uniformPipeOp 0x07 ⟨false, 42, 40, 0, 0, 0, 1, (some 5)⟩) []) = .next t ∧ uni t 42 = 0 :=
  ⟨_, (h.1 0x07 _ ⟨false, 0, 0, 0, 0, none⟩ _ rfl).2.2.2.2.2.1 rfl _ _ _ (by_group_one ⟨rfl, rfl, rfl⟩ rfl rfl rfl rfl rfl), rfl⟩

theorem witness_UniformResult_bfi (h : Obligations.UniformResult) :
    ∃ t, exec (.uniformPipeOp 0x16 ⟨false, 42, 40, 0, 0, 0, 1, (some 0x0804)⟩) (oneAt (.uniformPipeOp 0x16 ⟨false, 42, 40, 0, 0, 0, 1, (some 0x0804)⟩) []) = .next t ∧ uni t 42 = 0 :=
  ⟨_, (h.1 0x16 _ ⟨false, 0, 0, 0, 0, none⟩ _ rfl).2.2.2.2.2.2.1 rfl _ _ _ (by_group_one ⟨rfl, rfl, rfl⟩ rfl rfl rfl rfl rfl), rfl⟩

theorem witness_UniformResult_bmsk (h : Obligations.UniformResult) :
    ∃ t, exec (.uniformPipeOp 0x17 ⟨false, 42, 40, 0, 0, 0, 1, (some 4)⟩) (oneAt (.uniformPipeOp 0x17 ⟨false, 42, 40, 0, 0, 0, 1, (some 4)⟩) []) = .next t ∧ uni t 42 = 15 :=
  ⟨_, (h.1 0x17 _ ⟨false, 0, 0, 0, 0, none⟩ _ rfl).2.2.2.2.2.2.2.1 rfl _ _ _ (by_group_one ⟨rfl, rfl, rfl⟩ rfl rfl rfl rfl rfl), rfl⟩

theorem witness_UniformResult_lea (h : Obligations.UniformResult) :
    ∃ t, exec (.uniformPipeOp 0x1C ⟨false, 42, 40, 0, 3, 0, 1, (some 0xFFFFFFFF)⟩) (oneAt (.uniformPipeOp 0x1C ⟨false, 42, 40, 0, 3, 0, 1, (some 0xFFFFFFFF)⟩) []) = .next t ∧ uni t 42 = 0xFFFFFFF8 :=
  ⟨_, (h.1 0x1C _ ⟨false, 0, 0, 0, 0, none⟩ _ rfl).2.2.2.2.2.2.2.2.1 rfl _ _ _ (by_group_one ⟨rfl, rfl, rfl⟩ rfl rfl rfl rfl rfl), rfl⟩

theorem witness_UniformResult_subb (h : Obligations.UniformResult) :
    ∃ t, exec (.uniformPipeOp 0x03 ⟨false, 42, 40, 0, 1, 0, 1, (some 1)⟩) (oneAt (.uniformPipeOp 0x03 ⟨false, 42, 40, 0, 1, 0, 1, (some 1)⟩) []) = .next t ∧ uni t 42 = 0xFFFFFFFF ∧ pred t 5 = true :=
  ⟨_, (h.1 0x03 _ ⟨false, 0, 0, 0, 0, none⟩ _ rfl).2.2.2.2.2.2.2.2.2 true rfl _ _ _ (by_group_one ⟨rfl, rfl, rfl⟩ rfl rfl rfl rfl rfl), rfl, rfl⟩

theorem witness_ThreadControlResult_nop (h : Obligations.ThreadControlResult) :
    ∃ t, exec (.nop ⟨false, 0, 0, 0, 0, none⟩) (oneAt (.nop ⟨false, 0, 0, 0, 0, none⟩) []) = .next t ∧ (getThread t 0).pc = 0 :=
  ⟨_, h.1 _ _ _ _ (executes_one ⟨rfl, rfl, rfl⟩ rfl rfl rfl rfl rfl), rfl⟩

theorem witness_ThreadControlResult_yield (h : Obligations.ThreadControlResult) :
    ∃ t, exec (.yield ⟨false, 0, 0, 0, 0, none⟩) (oneAt (.yield ⟨false, 0, 0, 0, 0, none⟩) []) = .next t ∧ (getThread t 0).wait = .yielded :=
  ⟨_, h.2.2.1 _ _ _ _ (executes_one ⟨rfl, rfl, rfl⟩ rfl rfl rfl rfl rfl), rfl⟩

theorem witness_ThreadControlResult_exit (h : Obligations.ThreadControlResult) :
    ∃ t, exec (.exit ⟨false, 0, 0, 0, 0, none⟩) (oneAt (.exit ⟨false, 0, 0, 0, 0, none⟩) []) = .next t ∧ (getThread t 0).exited = true ∧ (getTeam t 0).hold = .retiring :=
  ⟨_, h.2.2.2 _ _ _ _ (executes_one ⟨rfl, rfl, rfl⟩ rfl rfl rfl rfl rfl), rfl, rfl⟩

theorem witness_ThreadControlResult_pad (h : Obligations.ThreadControlResult) :
    ∃ t, exec (.pad ⟨false, 0⟩) (scene 19 1 (.pad ⟨false, 0⟩) (threadWith [])) = .next t ∧ (getThread t 0).exited = false :=
  ⟨_, h.2.1 _ _ _ _ (executes_one ⟨rfl, rfl, rfl⟩ rfl rfl rfl rfl rfl), rfl⟩

theorem witness_CallResult_call (h : Obligations.CallResult) :
    ∃ t, exec (.call ⟨false, 0, false, 5⟩) (mappedAt (.call ⟨false, 0, false, 5⟩) (threadWith [])) = .next t ∧ (getThread t 0).csp = 0xFF8 ∧ rdMem t 0x100FF8 8 = 12 ∧ (getThread t 0).next = some 24 :=
  ⟨_, h.1 _ _ _ _ (executes_one ⟨rfl, rfl, rfl⟩ rfl rfl rfl rfl ⟨.phys 0x100FF8, some (⟨0, 0x40000000, 0, true, true, true, false⟩), by decide, ⟨rfl, by decide +kernel, rfl⟩, rfl⟩), rfl, by decide +kernel, rfl⟩

theorem witness_CallResult_calli (h : Obligations.CallResult) :
    ∃ t, exec (.calli ⟨false, 0, 1, 0, 0, none⟩) (mappedAt (.calli ⟨false, 0, 1, 0, 0, none⟩) (threadWith [(1, 24)])) = .next t ∧ (getThread t 0).csp = 0xFF8 ∧ rdMem t 0x100FF8 8 = 12 ∧ (getThread t 0).next = some 24 :=
  ⟨_, h.2.1 _ _ _ _ (executes_one ⟨rfl, rfl, rfl⟩ rfl rfl rfl rfl ⟨_, rfl, rfl, rfl, .phys 0x100FF8, some (⟨0, 0x40000000, 0, true, true, true, false⟩), by decide, ⟨rfl, by decide +kernel, rfl⟩, rfl⟩), rfl, by decide +kernel, rfl⟩

/-- A thread with one entry on its call stack, for address 24. -/
def called : State := modThread (poke (mappedAt (.ret ⟨false, 0, 0, 0, 0, none⟩) (threadWith [])) 0x100FF8 (leBytes 8 24)) 0 (fun t => { t with csp := 0xFF8 })

set_option maxRecDepth 4000 in
theorem witness_CallResult_ret (h : Obligations.CallResult) :
    ∃ t, exec (.ret ⟨false, 0, 0, 0, 0, none⟩) (called) = .next t ∧ (getThread t 0).csp = 0x1000 ∧ (getThread t 0).next = some 24 :=
  ⟨_, h.2.2 _ _ _ _ (executes_one ⟨rfl, rfl, rfl⟩ rfl rfl rfl rfl ⟨.phys 0x100FF8, some (⟨0, 0x40000000, 0, true, true, true, false⟩), 24, _, by decide, by decide +kernel, ok_fst State.reset (by decide +kernel), rfl, rfl, rfl⟩), rfl, rfl⟩

theorem witness_RunResult_runh (h : Obligations.RunResult) :
    let i : Instr := .runh ⟨false, 2, 0, 1⟩
    let code := encode i ++ encode (.mov ⟨false, 64, 1, 0, 0, none⟩) ++ encode (.mov ⟨false, 3, 64, 0, 0, none⟩) ++ [0x70FFFFFC#32]
    let b := { bundleOf 0 1 i with pc := 0, base := 0, code := code }
    ∃ t b1, exec i (setBundle (oneAt i []) 0 0 (some b)) = .next t ∧ bundleAt t 0 0 = some b1 ∧ b1.pc = 4 ∧ b1.seq.xmask = 1 :=
  ⟨_, _, h.1 _ _ _ 0 ⟨rfl, rfl, rfl⟩ rfl (by decide) (by decide +kernel), rfl, rfl, rfl⟩

theorem witness_RunResult_runt (h : Obligations.RunResult) :
    ∃ t, exec (.runt ⟨false, 3, 127, 127, 0⟩) (oneAt (.runt ⟨false, 3, 127, 127, 0⟩) []) = .next t ∧ bundleAt t 0 0 = none :=
  ⟨_, h.2 _ _ _ ⟨rfl, rfl, rfl⟩, rfl⟩

theorem witness_TrapInstructionResult_trap (h : Obligations.TrapInstructionResult) :
    ∃ t, exec (.trap ⟨false, 0, 5, none⟩) (handled (.trap ⟨false, 0, 5, none⟩) (threadWith [])) = .next t ∧
      (getThread t 0).intrap = true ∧ (getThread t 0).pc = 0x40 ∧ (kget 0 (getThread t 0).frec 0).extractLsb' 24 8 = 0x0E#8 :=
  ⟨_, h.1 _ _ _ ⟨rfl, rfl, rfl⟩, by decide +kernel, by decide +kernel, by decide +kernel⟩

/-- A thread in its handler, which resumes at address 24. -/
def trapped : Thread := { threadWith [] with
  intrap := true, frec := [(14, 24#32)], saved := some { fpctl := 3, csp := 0x1000, p := [(1, ⟨true, false⟩)], x := [], seq := none, eqp := none } }

theorem witness_TrapInstructionResult_tret (h : Obligations.TrapInstructionResult) :
    ∃ t, exec (.tret ⟨false, 0, 0, 0, 0, none⟩) (handled (.tret ⟨false, 0, 0, 0, 0, none⟩) trapped) = .next t ∧ (getThread t 0).intrap = false ∧ (getThread t 0).pc = 24 ∧ (getThread t 0).fpctl = 3 ∧ pred t 1 = true :=
  ⟨_, h.2 _ _ _ _ (executes_one ⟨rfl, rfl, rfl⟩ rfl rfl rfl rfl ⟨_, rfl, rfl, by decide, rfl⟩), by decide +kernel, by decide +kernel, by decide +kernel, by decide +kernel⟩

set_option maxRecDepth 4000 in
theorem witness_LoadResult_lds_s8 (h : Obligations.LoadResult) :
    ∃ t, exec (.lds ⟨false, 4, 1, 16, 0, none⟩) ((pokeLoc (oneAt (.lds ⟨false, 4, 1, 16, 0, none⟩) [(1, 8)]) (.scratch 0 8) [0x80])) = .next t ∧ pending t = [([4], some [0xFFFFFF80])] :=
  ⟨_, h _ _ rfl _ _ _ (executes_one ⟨rfl, rfl, rfl⟩ rfl rfl rfl rfl ⟨_, _, _, _, _, rfl, rfl, ⟨rfl, rfl, rfl⟩, rfl⟩), by decide +kernel⟩

set_option maxRecDepth 4000 in
theorem witness_LoadResult_lds_b64_at_the_end (h : Obligations.LoadResult) :
    ∃ t, exec (.lds ⟨false, 4, 1, 80, 0, none⟩) ((pokeLoc (oneAt (.lds ⟨false, 4, 1, 80, 0, none⟩) [(1, 1000)]) (.scratch 0 1000) (leBytes 8 0x1122334455667788))) = .next t ∧ pending t = [([4, 5], some [0x55667788, 0x11223344])] :=
  ⟨_, h _ _ rfl _ _ _ (executes_one ⟨rfl, rfl, rfl⟩ rfl rfl rfl rfl ⟨_, _, _, _, _, rfl, rfl, ⟨rfl, rfl, rfl⟩, rfl⟩), by decide +kernel⟩

theorem witness_LoadResult_ldg (h : Obligations.LoadResult) :
    ∃ t, exec (.ldg ⟨false, 4, 6, 64, 0, none⟩) (mappedAt (.ldg ⟨false, 4, 6, 64, 0, none⟩) (threadWith [(6, 0x10000)])) = .next t ∧ pending t = [([4], some [0x11001])] :=
  ⟨_, h _ _ rfl _ _ _ (executes_one ⟨rfl, rfl, rfl⟩ rfl rfl rfl rfl ⟨_, .phys 0x10000, some (⟨0, 0x40000000, 0, true, true, true, false⟩), _, _, rfl, rfl, ⟨rfl, by decide +kernel, ok_get (0, State.reset) (by decide +kernel)⟩, rfl⟩), by decide +kernel⟩

theorem witness_LoadDeliversPoison_address (h : Obligations.LoadDeliversPoison) :
    ∃ t, exec (.lds ⟨false, 4, 1, 64, 0, none⟩) (scene 0 1 (.lds ⟨false, 4, 1, 64, 0, none⟩) { threadWith [] with regs := ⟨[(1, ⟨8, true⟩)], [], []⟩ }) = .next t ∧ pending t = [([4], some [0x7FC00001])] :=
  ⟨_, (h _ _ rfl).1 _ _ _ (executes_one ⟨rfl, rfl, rfl⟩ rfl rfl rfl rfl ⟨_, rfl, rfl, rfl⟩), rfl⟩

theorem witness_LoadDeliversPoison_translation (h : Obligations.LoadDeliversPoison) :
    ∃ t, exec (.ldg ⟨false, 4, 6, 64, 0, none⟩) (oneAt (.ldg ⟨false, 4, 6, 64, 0, none⟩) [(6, 0x10000)]) = .next t ∧ pending t = [([4], some [0x7FC00001])] ∧ (getThread t 0).psnlo = 0x10000#32 :=
  ⟨_, (h _ _ rfl).2 _ _ _ (executes_one ⟨rfl, rfl, rfl⟩ rfl rfl rfl rfl ⟨_, .range, rfl, rfl, rfl, .fault .range (some 0x10000), by decide +kernel, .inl ⟨_, rfl⟩, rfl⟩), by decide +kernel, by decide +kernel⟩

set_option maxRecDepth 4000 in
theorem witness_StoreResult_sts_b64 (h : Obligations.StoreResult) :
    ∃ t, exec (.sts ⟨false, 2, 1, 80, 0, none⟩) (oneAt (.sts ⟨false, 2, 1, 80, 0, none⟩) [(1, 1000), (2, 0x55667788), (3, 0x11223344)]) = .next t ∧ leAt (getTeam t 0).scratch 1000 8 = 0x1122334455667788 :=
  ⟨_, h.1 _ _ rfl _ _ _ (executes_one ⟨rfl, rfl, rfl⟩ rfl rfl rfl rfl ⟨_, ⟨_, _, _, rfl, rfl, rfl, rfl, ⟨rfl, rfl, rfl⟩, rfl⟩⟩), by decide +kernel⟩

theorem witness_StoreResult_stgm (h : Obligations.StoreResult) :
    ∃ t, exec (.stgm ⟨false, 2, 6, 1, 0, none⟩) (mappedAt (.stgm ⟨false, 2, 6, 1, 0, none⟩) { threadWith [(1, 0b1010), (2, 0x55667788), (6, 0x30001)] with lpr := some ⟨0, 0x40000000, 0, true, true, false⟩ }) = .next t ∧ rdMem t 0x30001 4 = 0x55007700 :=
  ⟨_, h.2 _ _ _ _ (executes_one ⟨rfl, rfl, rfl⟩ rfl rfl rfl rfl ⟨_, ⟨_, _, _, rfl, rfl, rfl, rfl, rfl, rfl, rfl, rfl⟩⟩), by decide +kernel⟩

theorem witness_MaintenanceResult_fence (h : Obligations.MaintenanceResult) :
    ∃ t, exec (.fence ⟨false, 0, 0, 8, 1, none⟩) (oneAt (.fence ⟨false, 0, 0, 8, 1, none⟩) [(1, 5)]) = .next t ∧ (getThread t 0).regs.v = values [(1, 5)] :=
  ⟨_, h.1.1 _ _ _ _ (executes_one ⟨rfl, rfl, rfl⟩ rfl rfl rfl rfl rfl), rfl⟩

theorem witness_MaintenanceResult_icinv_all (h : Obligations.MaintenanceResult) :
    ∃ t, exec (.icinvAll ⟨false, 0, 0, 0, 1, none⟩) (oneAt (.icinvAll ⟨false, 0, 0, 0, 1, none⟩) [(1, 5)]) = .next t ∧ (getThread t 0).regs.v = values [(1, 5)] :=
  ⟨_, h.1.2.1 _ _ _ _ (executes_one ⟨rfl, rfl, rfl⟩ rfl rfl rfl rfl rfl), rfl⟩

theorem witness_MaintenanceResult_icinv_line (h : Obligations.MaintenanceResult) :
    ∃ t, exec (.icinvLine ⟨false, 0, 6, 0, 0, none⟩) (oneAt (.icinvLine ⟨false, 0, 6, 0, 0, none⟩) [(1, 5)]) = .next t ∧ (getThread t 0).regs.v = values [(1, 5)] :=
  ⟨_, h.1.2.2.1 _ _ _ _ (executes_one ⟨rfl, rfl, rfl⟩ rfl rfl rfl rfl ⟨_, rfl, rfl, rfl⟩), rfl⟩

/-- A line of code of address space 1 in core 0's instruction buffer. -/
def buffered : State := { State.reset with cores := [(0, { Core.initial 0 with ibuf := [{ asid := 1, line := 3, bytes := List.replicate 128 7#8 }] })] }

theorem witness_MaintenanceResult_code (h : Obligations.MaintenanceResult) :
    codeLine (getCore (dropCode buffered 1 (some 511)) 0) 1 384 = none ∧
      codeLine (getCore (dropCode buffered 2 none) 0) 1 384 = codeLine (getCore buffered 0) 1 384 :=
  ⟨(h.1.2.2.2.2.1 buffered 1 511 384 0).1.trans (by decide), (h.1.2.2.2.2.1 buffered 2 0 384 0).2.2.1 1 (by decide)⟩

/-- Agent 0's first write, at 0x1000, which agent 32 knows of. -/
def stale : Ver :=
  { ev := 5, clock := 0, agent := 0, strong := false, scope := 0, atomic := false, priv := false, merge := false, point := 0, lost := false,
    rel := [], bytes := [(0, 0#8)] }

theorem witness_MaintenanceResult_code_read (h : Obligations.MaintenanceResult) :
    codePasses (giveTo { State.reset with order := { State.reset.order with view := [(32, [(0, 5)])] } } 32 (.code 1 4)) 1 3 stale = false ∧
      codePasses (giveTo { State.reset with order := { State.reset.order with view := [(32, [(0, 5)])] } } 32 (.code 1 0)) 1 3 stale = false :=
  ⟨h.1.2.2.2.1 _ 32 1 3 4 stale (.inr rfl) (by decide), h.1.2.2.2.1 _ 32 1 3 0 stale (.inl rfl) (by decide)⟩

theorem witness_MaintenanceResult_code_fetch (h : Obligations.MaintenanceResult) :
    fetchBytes (mappedAt (.nop ⟨false, 0, 0, 0, 0, none⟩) (threadWith [])) 0 0 0x10000 =
      (codeRead (mappedAt (.nop ⟨false, 0, 0, 0, 0, none⟩) (threadWith [])) 0 (0x10000 / 128) 0x10000 4).map leNat :=
  (h.1.2.2.2.2.1 (mappedAt (.nop ⟨false, 0, 0, 0, 0, none⟩) (threadWith [])) 0 0x10000 0 0).2.2.2 ⟨0, 0x40000000, 0, true, true, true, false⟩
    (ok_of (by decide +kernel)) (by decide +kernel)

theorem witness_MaintenanceResult_translations (h : Obligations.MaintenanceResult) (w : TForm) :
    lprHit (getThread (dropTranslations (mappedAt (.tlbiPage w) { threadWith [] with lpr := some ⟨0, 0x40000000, 0, true, true, false⟩ }) (some 0)
      (some 0x1000)) 0).lpr 0x1000 .r = none :=
  ((h.2 w).2.2.1 _ 0 0x1000 0 .r).2.2 0 rfl

theorem witness_MaintenanceResult_pref (h : Obligations.MaintenanceResult) :
    ∃ t, exec (.pref ⟨false, 0, 6, 0, 0, none⟩) (mappedAt (.pref ⟨false, 0, 6, 0, 0, none⟩) { threadWith [(6, 0x10000)] with lpr := some ⟨0, 0x40000000, 0, true, true, false⟩ }) = .next t ∧ (getThread t 0).pend = [] :=
  ⟨_, h.1.2.2.2.2.2 _ _ _ _ (executes_one ⟨rfl, rfl, rfl⟩ rfl rfl rfl rfl ⟨_, rfl, .inr ⟨rfl, .inl ⟨_, _, _, rfl, rfl, rfl, rfl⟩⟩⟩), rfl⟩

theorem witness_MaintenanceResult_tlbi_page (h : Obligations.MaintenanceResult) :
    ∃ t, exec (.tlbiPage ⟨false, 0, 6, 0, 0, none⟩) (mappedAt (.tlbiPage ⟨false, 0, 6, 0, 0, none⟩) { threadWith [(6, 0x10000)] with lpr := some ⟨0, 0x40000000, 0, true, true, false⟩ }) = .next t ∧ (getThread t 0).lpr = none :=
  ⟨_, (h.2 _).1 _ _ _ (executes_one ⟨rfl, rfl, rfl⟩ rfl rfl rfl rfl ⟨_, rfl, rfl, rfl⟩), rfl⟩

theorem witness_MaintenanceResult_tlbi_asid (h : Obligations.MaintenanceResult) :
    ∃ t, exec (.tlbiAsid ⟨false, 0, 0, 0, 1, none⟩) (mappedAt (.tlbiAsid ⟨false, 0, 0, 0, 1, none⟩) { threadWith [(6, 0x10000)] with lpr := some ⟨0, 0x40000000, 0, true, true, false⟩ }) = .next t ∧ (getThread t 0).lpr = none :=
  ⟨_, (h.2 _).2.1 _ _ _ (executes_one ⟨rfl, rfl, rfl⟩ rfl rfl rfl rfl rfl), rfl⟩

theorem witness_MaintenanceResult_halt (h : Obligations.MaintenanceResult) :
    ∃ t, exec (.halt ⟨false, 0, 127, 0, 0, some 5⟩) (oneAt (.halt ⟨false, 0, 127, 0, 0, some 5⟩) []) = .next t ∧ (getThread t 0).wait = .halted ∧ t.haltstat.msb = true :=
  ⟨_, (h.2 _).2.2.2 _ _ _ (executes_one ⟨rfl, rfl, rfl⟩ rfl rfl rfl rfl ⟨_, _, rfl, rfl, rfl, rfl⟩), by decide +kernel, by decide +kernel⟩

set_option maxRecDepth 4000 in
theorem witness_AtomicResult_ats_add (h : Obligations.AtomicResult) :
    ∃ t, exec (.ats ⟨false, 4, 1, 0, 0, none⟩) (oneAt (.ats ⟨false, 4, 1, 0, 0, none⟩) [(1, 8), (4, 7)]) = .next t ∧ leAt (getTeam t 0).scratch 8 4 = 7 ∧ pending t = [([4], some [0])] :=
  ⟨_, h _ .scratch _ (.inl ⟨rfl, rfl⟩) _ _ _ (executes_one ⟨rfl, rfl, rfl⟩ rfl rfl rfl rfl ⟨_, _, .scratch 0 8, none, _, rfl, rfl, rfl, rfl, ⟨rfl, rfl, rfl⟩, rfl, rfl, rfl⟩), by decide +kernel, by decide +kernel⟩

set_option maxRecDepth 4000 in
theorem witness_AtomicResult_ats_cas_fails (h : Obligations.AtomicResult) :
    ∃ t, exec (.ats ⟨false, 4, 1, 84, 0, none⟩) (oneAt (.ats ⟨false, 4, 1, 84, 0, none⟩) [(1, 8), (4, 7), (5, 9)]) = .next t ∧ leAt (getTeam t 0).scratch 8 4 = 0 ∧ pending t = [([4], some [0])] :=
  ⟨_, h _ .scratch _ (.inl ⟨rfl, rfl⟩) _ _ _ (executes_one ⟨rfl, rfl, rfl⟩ rfl rfl rfl rfl ⟨_, _, .scratch 0 8, none, _, rfl, rfl, rfl, rfl, ⟨rfl, rfl, rfl⟩, rfl, rfl, rfl⟩), by decide +kernel, by decide +kernel⟩

theorem witness_ReductionResult_red (h : Obligations.ReductionResult) :
    ∃ t, exec (.red ⟨false, 4, 6, 0, 0, none⟩) (mappedAt (.red ⟨false, 4, 6, 0, 0, none⟩) { threadWith [(4, 7), (6, 0x30000)] with lpr := some ⟨0, 0x40000000, 0, true, true, false⟩ }) = .next t ∧ (kget [] (getCore t 0).redbuf 0).map (fun e => (e.pa, e.lo)) = [(0x30000, 7)] ∧ rdMem t 0x30000 4 = 0 :=
  ⟨_, h.1 _ _ _ _ (executes_one ⟨rfl, rfl, rfl⟩ rfl rfl rfl rfl ⟨_, _, 0x30000, _, rfl, rfl, rfl, rfl, ⟨rfl, rfl, rfl⟩, by decide, by decide +kernel, rfl⟩), by decide +kernel, by decide +kernel⟩

theorem witness_ReductionResult_rflush (h : Obligations.ReductionResult) :
    ∃ t, exec (.rflush ⟨false, 0, 0, 0, 0, none⟩) (oneAt (.rflush ⟨false, 0, 0, 0, 0, none⟩) []) = .next t ∧ (getThread t 0).flush = 1 :=
  ⟨_, h.2 _ _ _ _ (executes_one ⟨rfl, rfl, rfl⟩ rfl rfl rfl rfl ⟨fun o e => (by cases (show (none : Option Nat) = some o from e)), rfl⟩), rfl⟩

theorem witness_BrickFetchResult_fault (h : Obligations.BrickFetchResult) :
    ∃ t, exec (.brkf ⟨false, 12, 6, 8, 0, none⟩) (oneAt (.brkf ⟨false, 12, 6, 8, 0, none⟩) [(6, 0x10000)]) = .next t ∧ pending t = [([12, 13, 14, 15], some [0x7FC00001, 0x7FC00001, 0x7FC00001, 0x7FC00001])] :=
  ⟨_, h.1 _ _ _ _ (executes_one ⟨rfl, rfl, rfl⟩ rfl rfl rfl rfl ⟨_, _, rfl, rfl, rfl, rfl, .inr ⟨_, _, rfl, rfl⟩⟩), by decide +kernel⟩

/-- A brick map of one brick at address 0, VOXEL 1, DCLAMP 8, its word at 0x40 given, whose first sample is 1 and the others 0. -/
def mapBytes (word : Nat) : KMap Byte :=
  ksetList 0 [] 0 (leBytes 12 0 ++ leBytes 4 0x3F800000 ++ leBytes 8 0x100010001 ++ leBytes 8 0x41000000 ++ leBytes 8 0x40 ++ leBytes 8 0x80 ++
    leBytes 16 0 ++ leBytes 4 word ++ leBytes 60 0 ++ leBytes 2 0x3C00)

/-- The ways to read it. -/
def mapPort (word : Nat) : BrickPort :=
  let p : Port := fun a n => fun s => (.ok (leAt (mapBytes word) a n), s)
  { read := p, sample := p, brick := fun _ _ => fun s => (.ok (), s) }

/-- Its header. -/
def mapHeader : BrickMap := ⟨0, [0, 0, 0], 0x3F800000, [1, 1, 1], false, 0x41000000, 0, 0x40, 0x80⟩

/-- The middle of its first cell. -/
def middle : List Xr := List.replicate 3 (.fin false 1 2)

theorem witness_BrickFetchResult_nan (h : Obligations.BrickFetchResult) :
    (brickValue (mapPort 0) 0 0 [.nan, .nan, .nan]).run.run State.reset = (.ok (List.replicate 4 0x7FC00000#32), State.reset) :=
  (h.2.1 (mapPort 0) 0 0 [.nan, .nan, .nan] State.reset State.reset mapHeader (Prod.ext (ok_of (by decide +kernel)) (by decide +kernel))).1 (.head _)

theorem witness_BrickFetchResult_rounds (h : Obligations.BrickFetchResult) :
    (brickValue (mapPort 0) 0 0 middle).run.run State.reset = (.ok [0x41000000#32, 0, 0, 0], State.reset) :=
  ((h.2.1 (mapPort 0) 0 0 middle State.reset State.reset mapHeader (Prod.ext (ok_of (by decide +kernel)) (by decide +kernel))).2 (by decide +kernel) (by decide +kernel) (f32 0x41000000)
    [Xr.zero, Xr.zero, Xr.zero] State.reset (Prod.ext (ok_of (by decide +kernel)) (by decide +kernel))).trans (congrArg (fun x => (x, State.reset)) (congrArg Except.ok (by decide +kernel)))

theorem witness_BrickFetchResult_outside (h : Obligations.BrickFetchResult) :
    (brickAt (mapPort 0) mapHeader 0 [.fin false 7 1, Xr.zero, Xr.zero]).run.run State.reset =
      (.ok (f32 0x41000000, [Xr.zero, Xr.zero, Xr.zero]), State.reset) :=
  h.2.2.1 (mapPort 0) mapHeader 0 [.fin false 7 1, Xr.zero, Xr.zero] State.reset
    ⟨0, by decide, .inr ⟨7, by decide +kernel, .inr (by decide +kernel)⟩⟩

theorem witness_BrickFetchResult_inside (h : Obligations.BrickFetchResult) :
    (brickAt (mapPort 0x40000000) mapHeader 0 middle).run.run State.reset =
        (.ok (Xr.neg (f32 0x41000000), [Xr.zero, Xr.zero, Xr.zero]), State.reset) ∧
      ∃ d gr, (brickAt (mapPort 0x80000000) mapHeader 0 middle).run.run State.reset = (.ok (d, gr), State.reset) ∧ Says.rat d = some (1 / 8) ∧
        Says.rat (gr.getD 2 .nan) = some (-1 / 4) := by
  have r := fun w => h.2.2.2 (mapPort w) mapHeader 0 middle (fun _ => 1 / 2) (fun a l => leAt (mapBytes w) a l) (fun a l => leAt (mapBytes w) a l) 1
    State.reset (fun _ _ _ => rfl) (fun _ _ _ => rfl) (fun _ _ _ => rfl) (by decide +kernel) (by decide +kernel) (by decide +kernel)
  refine ⟨(r 0x40000000).2.1 (by decide +kernel), ?_⟩
  obtain ⟨d, gr, e, e1, -, e2⟩ := (r 0x80000000).2.2 (by decide +kernel) (fun c => if c = 0 then 1 else 0) (by decide +kernel)
  exact ⟨d, gr, e, e1.trans (by decide +kernel), (e2 2 (by decide)).trans (by decide +kernel)⟩

theorem witness_SpecialRegisterResult_csrr (h : Obligations.SpecialRegisterResult) :
    ∃ t, exec (.csrr ⟨false, 4, 0x000, none⟩) (oneAt (.csrr ⟨false, 4, 0x000, none⟩) []) = .next t ∧ pending t = [([4], some [32])] :=
  ⟨_, h.1 _ _ _ _ (executes_one ⟨rfl, rfl, rfl⟩ rfl rfl rfl rfl rfl), rfl⟩

theorem witness_SpecialRegisterResult_csrw (h : Obligations.SpecialRegisterResult) :
    ∃ t, exec (.csrw ⟨false, 4, 0x010, none⟩) (oneAt (.csrw ⟨false, 4, 0x010, none⟩) [(4, 0xFFFFFFFF)]) = .next t ∧ (getThread t 0).fpctl = 0x3FF :=
  ⟨_, h.2.1 _ _ _ _ (executes_one ⟨rfl, rfl, rfl⟩ rfl rfl rfl rfl ⟨_, rfl, rfl, rfl⟩), rfl⟩

set_option maxRecDepth 4000 in
theorem witness_BarrierResult_bari (h : Obligations.BarrierResult) :
    ∃ t, exec (.bari ⟨false, 0, 1, 2, 0, none⟩) (writeBar (oneAt (.bari ⟨false, 0, 1, 2, 0, none⟩) [(1, 0), (2, 0xFFFFF)]) 0 0 ⟨true, false, 3, 4, 5, 6⟩) = .next t ∧ readBar t 0 0 = ⟨false, false, 0, 0xFFFFF, 0, 0⟩ :=
  ⟨_, (h _).1 _ _ _ (executes_one ⟨rfl, rfl, rfl⟩ rfl rfl rfl rfl ⟨_, _, ⟨rfl, rfl, rfl, rfl, by decide +kernel⟩, by decide +kernel, by decide +kernel, rfl, rfl⟩), by decide +kernel⟩

set_option maxRecDepth 4000 in
theorem witness_BarrierResult_barx_arrives (h : Obligations.BarrierResult) :
    ∃ t, exec (.barx ⟨false, 4, 1, 2, 1, none⟩) (writeBar (oneAt (.barx ⟨false, 4, 1, 2, 1, none⟩) [(1, 0), (2, 128)]) 0 0 ⟨false, false, 0, 2, 0, 0⟩) = .next t ∧ readBar t 0 0 = ⟨false, false, 1, 2, 0, 128⟩ ∧ pending t = [([4], some [0])] :=
  ⟨_, (h _).2.1 _ _ _ (executes_one ⟨rfl, rfl, rfl⟩ rfl rfl rfl rfl ⟨_, _, ⟨rfl, rfl, rfl, rfl, by decide +kernel⟩, rfl, by decide +kernel, by decide +kernel, by decide +kernel, rfl⟩), by decide +kernel, by decide +kernel⟩

set_option maxRecDepth 4000 in
theorem witness_BarrierResult_bara_completes (h : Obligations.BarrierResult) :
    ∃ t, exec (.bara ⟨false, 4, 1, 2, 0, none⟩) (writeBar (oneAt (.bara ⟨false, 4, 1, 2, 0, none⟩) [(1, 0), (2, 1)]) 0 0 ⟨true, false, 1, 2, 0, 0⟩) = .next t ∧ readBar t 0 0 = ⟨false, false, 0, 2, 0, 0⟩ ∧ pending t = [([4], some [1])] :=
  ⟨_, (h _).2.2.1 _ _ _ (executes_one ⟨rfl, rfl, rfl⟩ rfl rfl rfl rfl ⟨_, _, ⟨rfl, rfl, rfl, rfl, by decide +kernel⟩, rfl, by decide +kernel, by decide +kernel, by decide +kernel, rfl⟩), by decide +kernel, by decide +kernel⟩

set_option maxRecDepth 4000 in
theorem witness_BarrierResult_barw_goes_on (h : Obligations.BarrierResult) :
    ∃ t, exec (.barw ⟨false, 0, 1, 2, 0, none⟩) (writeBar (oneAt (.barw ⟨false, 0, 1, 2, 0, none⟩) [(1, 0), (2, 1)]) 0 0 ⟨false, false, 1, 2, 0, 0⟩) = .next t ∧ (getThread t 0).wait = .none :=
  ⟨_, (h _).2.2.2.1 _ _ _ (executes_one ⟨rfl, rfl, rfl⟩ rfl rfl rfl rfl ⟨_, _, ⟨rfl, rfl, rfl, rfl, by decide +kernel⟩, by decide +kernel, .inl ⟨by decide +kernel, rfl⟩⟩), by decide +kernel⟩

set_option maxRecDepth 4000 in
theorem witness_BarrierResult_barw_waits (h : Obligations.BarrierResult) :
    ∃ t, exec (.barw ⟨false, 0, 1, 2, 0, none⟩) (writeBar (oneAt (.barw ⟨false, 0, 1, 2, 0, none⟩) [(1, 0), (2, 0)]) 0 0 ⟨false, false, 1, 2, 0, 0⟩) = .next t ∧ (getThread t 0).wait = .barw 0 false ∧ (getThread t 0).pc = 4 :=
  ⟨_, (h _).2.2.2.1 _ _ _ (executes_one ⟨rfl, rfl, rfl⟩ rfl rfl rfl rfl ⟨_, _, ⟨rfl, rfl, rfl, rfl, by decide +kernel⟩, by decide +kernel, .inr ⟨by decide +kernel, _, rfl, rfl⟩⟩), by decide +kernel, by decide +kernel⟩

set_option maxRecDepth 4000 in
theorem witness_BarrierResult_barw_try (h : Obligations.BarrierResult) :
    ∃ t, exec (.barwTry ⟨false, 113, 1, 2, 1, none⟩) (writeBar (oneAt (.barwTry ⟨false, 113, 1, 2, 1, none⟩) [(1, 0), (2, 0)]) 0 0 ⟨true, false, 1, 2, 0, 0⟩) = .next t ∧ pending t = [([113], some [1])] :=
  ⟨_, (h _).2.2.2.2.1 _ _ _ (executes_one ⟨rfl, rfl, rfl⟩ rfl rfl rfl rfl ⟨_, _, ⟨rfl, rfl, rfl, rfl, by decide +kernel⟩, by decide +kernel, rfl⟩), by decide +kernel⟩

set_option maxRecDepth 4000 in
theorem witness_BarrierResult_bart (h : Obligations.BarrierResult) :
    ∃ t, exec (.bart ⟨false, 4, 1, 0, 1, none⟩) (writeBar (oneAt (.bart ⟨false, 4, 1, 0, 1, none⟩) [(1, 0)]) 0 0 ⟨true, false, 1, 2, 0, 0⟩) = .next t ∧ pending t = [([4], some [2])] :=
  ⟨_, (h _).2.2.2.2.2 _ _ _ (executes_one ⟨rfl, rfl, rfl⟩ rfl rfl rfl rfl ⟨_, rfl, rfl, by decide +kernel, rfl⟩), by decide +kernel⟩

theorem witness_FloatArithmeticResult_fadd (h : Obligations.FloatArithmeticResult) :
    ∃ t, exec (.fadd ⟨false, 3, 1, 2, 0, none⟩) (oneAt (.fadd ⟨false, 3, 1, 2, 0, none⟩) [(1, 0x3F800000), (2, 0x40000000)]) = .next t ∧ reg t 3 = 0x40400000 :=
  ⟨_, h.2.2.2.1.1 _ _ rfl _ _ _ (executes_one ⟨rfl, rfl, rfl⟩ rfl rfl rfl rfl ⟨_, _, rfl, rfl, rfl⟩), by decide +kernel⟩

theorem witness_FloatArithmeticResult_ffma (h : Obligations.FloatArithmeticResult) :
    ∃ t, exec (.ffma ⟨false, 3, 1, 2, 0, none⟩) (oneAt (.ffma ⟨false, 3, 1, 2, 0, none⟩) [(1, 0x3F800000), (2, 0x40000000), (3, 0x3F800000)]) = .next t ∧ reg t 3 = 0x40400000 :=
  ⟨_, h.2.2.2.1.2.1 _ _ _ _ (executes_one ⟨rfl, rfl, rfl⟩ rfl rfl rfl rfl ⟨_, _, _, rfl, rfl, rfl, rfl⟩), by decide +kernel⟩

theorem witness_FloatArithmeticResult_ffma4 (h : Obligations.FloatArithmeticResult) :
    ∃ t, exec (.ffma4 ⟨false, 3, 1, 2, 0, 4, 0, none⟩) (oneAt (.ffma4 ⟨false, 3, 1, 2, 0, 4, 0, none⟩) [(1, 0x3F800000), (2, 0x40000000), (4, 0x3F800000)]) = .next t ∧ reg t 3 = 0x40400000 :=
  ⟨_, h.2.2.2.1.2.2 _ _ _ _ (executes_one ⟨rfl, rfl, rfl⟩ rfl rfl rfl rfl ⟨_, _, _, rfl, rfl, rfl, rfl⟩), by decide +kernel⟩

theorem witness_FloatArithmeticResult_pack2 (h : Obligations.FloatArithmeticResult) :
    ∃ t, exec (.pack2 ⟨false, 3, 1, 2, 0, none⟩) (oneAt (.pack2 ⟨false, 3, 1, 2, 0, none⟩) [(1, 0x3F800000), (2, 0x40000000)]) = .next t ∧ reg t 3 = 0x40003C00 :=
  ⟨_, (h.2.2.2.2 _).1 _ _ _ (executes_one ⟨rfl, rfl, rfl⟩ rfl rfl rfl rfl ⟨_, _, rfl, rfl, rfl⟩), by decide +kernel⟩

theorem witness_FloatArithmeticResult_hadd2 (h : Obligations.FloatArithmeticResult) :
    ∃ t, exec (.hadd2 ⟨false, 3, 1, 2, 0, none⟩) (oneAt (.hadd2 ⟨false, 3, 1, 2, 0, none⟩) [(1, 0x40003C00), (2, 0x3C003C00)]) = .next t ∧ reg t 3 = 0x42004000 :=
  ⟨_, (h.2.2.2.2 ⟨false, 0, 0, 0, 0, none⟩).2.1 _ _ rfl _ _ _ (executes_one ⟨rfl, rfl, rfl⟩ rfl rfl rfl rfl ⟨_, _, rfl, rfl, rfl⟩), by decide +kernel⟩

theorem witness_FloatArithmeticResult_hfma2 (h : Obligations.FloatArithmeticResult) :
    ∃ t, exec (.hfma2 ⟨false, 3, 1, 2, 0, none⟩) (oneAt (.hfma2 ⟨false, 3, 1, 2, 0, none⟩) [(1, 0x40003C00), (2, 0x3C003C00), (3, 0x3C003C00)]) = .next t ∧ reg t 3 = 0x42004000 :=
  ⟨_, (h.2.2.2.2 _).2.2 _ _ _ (executes_one ⟨rfl, rfl, rfl⟩ rfl rfl rfl rfl ⟨_, _, _, rfl, rfl, rfl, rfl⟩), by decide +kernel⟩

theorem witness_FloatArithmeticResult_exact (h : Obligations.FloatArithmeticResult) :
    Says.rat (Xr.add .rd (.fin false 1 2) (.fin true 1 2)) = some 0 ∧ Says.sign (Xr.add .rd (.fin false 1 2) (.fin true 1 2)) = true ∧
      Says.rat (Xr.div (.fin false 1 2) (.fin true 3 1)) = some (-1 / 6) ∧ Xr.div (.fin true 1 2) (.fin false 0 1) = .inf true :=
  ⟨(h.1 .rd _ _ (1 / 2) (-1 / 2) (by decide +kernel) (by decide +kernel)).1.1.trans (by decide +kernel),
    ((h.1 .rd _ _ (1 / 2) (-1 / 2) (by decide +kernel) (by decide +kernel)).1.2 (by decide +kernel)).trans (by decide +kernel),
    ((h.1 .rn _ _ (1 / 2) (-3) (by decide +kernel) (by decide +kernel)).2.2.1 (by decide +kernel)).1.trans (by decide +kernel),
    ((h.1 .rn _ _ (-1 / 2) 0 (by decide +kernel) (by decide +kernel)).2.2.2 rfl).trans (by decide +kernel)⟩

theorem witness_FloatArithmeticResult_infinite (h : Obligations.FloatArithmeticResult) :
    Xr.mul (.inf true) (.fin false 0 1) = .nan ∧ Xr.div (.inf true) (.fin true 0 1) = .inf false :=
  ⟨((h.2.1 .rn true false _ 0 (by decide +kernel)).2.2.2.1).trans (by decide +kernel),
    ((h.2.1 .rn true false (.fin true 0 1) 0 (by decide +kernel)).2.2.2.2.2.2.2.1).trans (by decide +kernel)⟩

theorem witness_FloatSelectionResult_fmin_of_nan (h : Obligations.FloatSelectionResult) :
    ∃ t, exec (.fmin ⟨false, 3, 1, 2, 0, none⟩) (oneAt (.fmin ⟨false, 3, 1, 2, 0, none⟩) [(1, 0x7FC00000), (2, 0x40000000)]) = .next t ∧ reg t 3 = 0x40000000 :=
  ⟨_, (h ⟨false, 0, 0, 0, 0, none⟩).1 _ _ rfl _ _ _ (executes_one ⟨rfl, rfl, rfl⟩ rfl rfl rfl rfl ⟨_, _, rfl, rfl, rfl⟩), by decide +kernel⟩

theorem witness_FloatSelectionResult_fneg (h : Obligations.FloatSelectionResult) :
    ∃ t, exec (.fneg ⟨false, 3, 1, 0, 0, none⟩) (oneAt (.fneg ⟨false, 3, 1, 0, 0, none⟩) [(1, 0x7F800001)]) = .next t ∧ reg t 3 = 0xFF800001 :=
  ⟨_, (h ⟨false, 0, 0, 0, 0, none⟩).2.1 _ _ rfl _ _ _ (executes_one ⟨rfl, rfl, rfl⟩ rfl rfl rfl rfl ⟨_, rfl, rfl⟩), by decide +kernel⟩

theorem witness_FloatSelectionResult_fcps (h : Obligations.FloatSelectionResult) :
    ∃ t, exec (.fcps ⟨false, 3, 1, 2, 0, none⟩) (oneAt (.fcps ⟨false, 3, 1, 2, 0, none⟩) [(1, 0x3F800000), (2, 0x80000000)]) = .next t ∧ reg t 3 = 0xBF800000 :=
  ⟨_, (h _).2.2.1 _ _ _ (executes_one ⟨rfl, rfl, rfl⟩ rfl rfl rfl rfl ⟨_, _, rfl, rfl, rfl⟩), by decide +kernel⟩

theorem witness_FloatSelectionResult_fcmp (h : Obligations.FloatSelectionResult) :
    ∃ t, exec (.fcmp ⟨false, 113, 1, 2, 3, none⟩) (oneAt (.fcmp ⟨false, 113, 1, 2, 3, none⟩) [(1, 0x7FC00000), (2, 0x40000000)]) = .next t ∧ pred t 1 = true :=
  ⟨_, (h _).2.2.2.1 _ _ _ (executes_one ⟨rfl, rfl, rfl⟩ rfl rfl rfl rfl ⟨_, _, rfl, rfl, rfl⟩), by decide +kernel⟩

theorem witness_FloatSelectionResult_fclass (h : Obligations.FloatSelectionResult) :
    ∃ t, exec (.fclass ⟨false, 3, 1, 0, 0, none⟩) (oneAt (.fclass ⟨false, 3, 1, 0, 0, none⟩) [(1, 0x80000001)]) = .next t ∧ reg t 3 = 4 :=
  ⟨_, (h _).2.2.2.2.1 _ _ _ (executes_one ⟨rfl, rfl, rfl⟩ rfl rfl rfl rfl ⟨_, rfl, rfl⟩), by decide +kernel⟩

theorem witness_FloatSelectionResult_frnd (h : Obligations.FloatSelectionResult) :
    ∃ t, exec (.frnd ⟨false, 3, 1, 0, 0, none⟩) (oneAt (.frnd ⟨false, 3, 1, 0, 0, none⟩) [(1, 0x40200000)]) = .next t ∧ reg t 3 = 0x40000000 :=
  ⟨_, (h _).2.2.2.2.2.1 _ _ _ (executes_one ⟨rfl, rfl, rfl⟩ rfl rfl rfl rfl ⟨_, rfl, rfl⟩), by decide +kernel⟩

theorem witness_FloatSelectionResult_fract (h : Obligations.FloatSelectionResult) :
    ∃ t, exec (.fract ⟨false, 3, 1, 0, 0, none⟩) (oneAt (.fract ⟨false, 3, 1, 0, 0, none⟩) [(1, 0xBF000000)]) = .next t ∧ reg t 3 = 0x3F000000 :=
  ⟨_, (h _).2.2.2.2.2.2 _ _ _ (executes_one ⟨rfl, rfl, rfl⟩ rfl rfl rfl rfl ⟨_, rfl, rfl⟩), by decide +kernel⟩

theorem witness_SpecialFunctionResult_fdiv (h : Obligations.SpecialFunctionResult) :
    ∃ t, exec (.fdiv ⟨false, 3, 1, 2, 0, none⟩) (oneAt (.fdiv ⟨false, 3, 1, 2, 0, none⟩) [(1, 0x3F800000), (2, 0x40400000)]) = .next t ∧ pending t = [([3], some [0x3EAAAAAB])] :=
  ⟨_, (h.1 _).1 _ _ _ (executes_one ⟨rfl, rfl, rfl⟩ rfl rfl rfl rfl ⟨_, _, rfl, rfl, .inl (by decide +kernel), rfl⟩), by decide +kernel⟩

theorem witness_SpecialFunctionResult_sqrt (h : Obligations.SpecialFunctionResult) :
    ∃ t, exec (.sqrt ⟨false, 3, 1, 0, 0, none⟩) (oneAt (.sqrt ⟨false, 3, 1, 0, 0, none⟩) [(1, 0x40000000)]) = .next t ∧ pending t = [([3], some [0x3FB504F3])] :=
  ⟨_, (h.1 ⟨false, 0, 0, 0, 0, none⟩).2 _ _ rfl _ _ _ (executes_one ⟨rfl, rfl, rfl⟩ rfl rfl rfl rfl ⟨_, rfl, .inl (by decide +kernel), rfl⟩), by decide +kernel⟩

theorem witness_SpecialFunctionResult_special (h : Obligations.SpecialFunctionResult) :
    let m := Says.special (.sqrt ⟨false, 0, 0, 0, 0, none⟩)
    m.map (fun f => f .rn false (.fin true 1 3)) = some 0x7FC00000#32 ∧ m.map (fun f => f .rn false (.fin true 0 1)) = some 0x80000000#32 :=
  have r := h.2.1 (.sqrt ⟨false, 0, 0, 0, 0, none⟩) _ _ rfl rfl .rn false
  ⟨congrArg some ((r.2.2.2 3 (by decide)).2.2 1 _ (by decide) rfl), congrArg some (r.2.2.2 1 (by decide)).1⟩

theorem witness_SpecialFunctionResult_exact (h : Obligations.SpecialFunctionResult) :
    tanhW false (.fin true 9 1) = 0xBF800000#32 ∧ exp2W false (.fin false 128 1) = 0x7F800000#32 ∧ exp2W false (.fin true 151 1) = 0#32 ∧
      sinW false (.fin false 1 4097) = BitVec.ofNat 32 (roundTo .f32 false .rn (.fin false 1 4097)) ∧
      exp2W false (.fin false 127 1) = 0x7F000000#32 ∧ log2W false (.fin false 1 (2 ^ 149)) = 0xC3150000#32 ∧
      rsqW false (.fin false (4 ^ 63) 1) = 0x20000000#32 ∧ rsqW false (.fin false 1 (4 ^ 74)) = 0x64800000#32 :=
  ⟨(h.2.2.1 false true 9 1 (by decide)).1 (by decide), (h.2.2.1 false false 128 1 (by decide)).2.2.1 (by decide),
    (h.2.2.1 false false 151 1 (by decide)).2.2.2 (by decide), (h.2.2.1 false false 1 4097 (by decide)).2.1 (by decide),
    ((h.2.2.2 false 127).1 (by decide)).1.trans (by decide +kernel), ((h.2.2.2 false 149).2.1 (by decide)).2.trans (by decide +kernel),
    ((h.2.2.2 false 63).2.2.1 (by decide)).trans (by decide +kernel), ((h.2.2.2 false 74).2.2.2 (by decide)).trans (by decide +kernel)⟩

theorem witness_ConversionResult_to_f16 (h : Obligations.ConversionResult) :
    ∃ t, exec (.cvt ⟨false, 9, 4, 0, 0, 0, 0x01, none⟩) (oneAt (.cvt ⟨false, 9, 4, 0, 0, 0, 0x01, none⟩) [(4, 0x3F800000)]) = .next t ∧ reg t 9 = 0x3C00 :=
  ⟨_, h _ _ _ _ (executes_one ⟨rfl, rfl, rfl⟩ rfl rfl rfl rfl ⟨_, rfl, rfl⟩), by decide +kernel⟩

theorem witness_ConversionResult_to_s32 (h : Obligations.ConversionResult) :
    ∃ t, exec (.cvt ⟨false, 9, 4, 0, 1, 0, 0x08, none⟩) (oneAt (.cvt ⟨false, 9, 4, 0, 1, 0, 0x08, none⟩) [(4, 0x4F800000)]) = .next t ∧ reg t 9 = 0x7FFFFFFF :=
  ⟨_, h _ _ _ _ (executes_one ⟨rfl, rfl, rfl⟩ rfl rfl rfl rfl ⟨_, rfl, rfl⟩), by decide +kernel⟩

theorem witness_IntervalResult_xadd (h : Obligations.IntervalResult) :
    ∃ t, exec (.xadd ⟨false, 6, 4, 8, 0, none⟩) (oneAt (.xadd ⟨false, 6, 4, 8, 0, none⟩) [(4, 0x3F800000), (5, 0x40000000), (8, 0x3F800000), (9, 0x3F800000)]) = .next t ∧ reg t 6 = 0x40000000 ∧ reg t 7 = 0x40400000 :=
  ⟨_, (h ⟨false, 0, 0, 0, 0, none⟩).1 _ _ rfl _ _ _ (executes_one ⟨rfl, rfl, rfl⟩ rfl rfl rfl rfl ⟨_, _, rfl, rfl, rfl⟩), by decide +kernel, by decide +kernel⟩

theorem witness_IntervalResult_empty (h : Obligations.IntervalResult) :
    ∃ t, exec (.xmul ⟨false, 6, 4, 8, 0, none⟩) (oneAt (.xmul ⟨false, 6, 4, 8, 0, none⟩) [(4, 0x40000000), (5, 0x3F800000), (8, 0x3F800000), (9, 0x3F800000)]) = .next t ∧ reg t 6 = 0x7F800000 ∧ reg t 7 = 0xFF800000 :=
  ⟨_, (h ⟨false, 0, 0, 0, 0, none⟩).1 _ _ rfl _ _ _ (executes_one ⟨rfl, rfl, rfl⟩ rfl rfl rfl rfl ⟨_, _, rfl, rfl, rfl⟩), by decide +kernel, by decide +kernel⟩

theorem witness_IntervalResult_xsqr (h : Obligations.IntervalResult) :
    ∃ t, exec (.xsqr ⟨false, 6, 4, 0, 0, none⟩) (oneAt (.xsqr ⟨false, 6, 4, 0, 0, none⟩) [(4, 0xC0000000), (5, 0x3F800000)]) = .next t ∧ reg t 6 = 0 ∧ reg t 7 = 0x40800000 :=
  ⟨_, (h ⟨false, 0, 0, 0, 0, none⟩).2.1 _ _ rfl _ _ _ (executes_one ⟨rfl, rfl, rfl⟩ rfl rfl rfl rfl ⟨_, rfl, rfl⟩), by decide +kernel, by decide +kernel⟩

theorem witness_IntervalResult_xrcp (h : Obligations.IntervalResult) :
    ∃ t, exec (.xrcp ⟨false, 6, 4, 0, 0, none⟩) (oneAt (.xrcp ⟨false, 6, 4, 0, 0, none⟩) [(4, 0x3F800000), (5, 0x40000000)]) = .next t ∧ pending t = [([6, 7], some [0x3F000000, 0x3F800000])] :=
  ⟨_, (h ⟨false, 0, 0, 0, 0, none⟩).2.2.1 _ _ rfl _ _ _ (executes_one ⟨rfl, rfl, rfl⟩ rfl rfl rfl rfl ⟨_, rfl, .inl (by decide +kernel), rfl⟩), by decide +kernel⟩

theorem witness_IntervalResult_xhull (h : Obligations.IntervalResult) :
    ∃ t, exec (.xhull ⟨false, 6, 4, 8, 0, none⟩) (oneAt (.xhull ⟨false, 6, 4, 8, 0, none⟩) [(4, 0x40000000), (5, 0x3F800000), (8, 0x3F800000), (9, 0x3F800000)]) = .next t ∧ reg t 6 = 0x3F800000 ∧ reg t 7 = 0x3F800000 :=
  ⟨_, (h _).2.2.2.1 _ _ _ (executes_one ⟨rfl, rfl, rfl⟩ rfl rfl rfl rfl ⟨_, _, rfl, rfl, rfl⟩), by decide +kernel, by decide +kernel⟩

theorem witness_IntervalResult_xcont_0 (h : Obligations.IntervalResult) :
    ∃ t, exec (.xcont ⟨false, 113, 4, 0, 0, none⟩) (oneAt (.xcont ⟨false, 113, 4, 0, 0, none⟩) [(4, 0xBF800000), (5, 0x3F800000)]) = .next t ∧ pred t 1 = true :=
  ⟨_, (h _).2.2.2.2 _ _ _ (executes_one ⟨rfl, rfl, rfl⟩ rfl rfl rfl rfl ⟨_, rfl, .inl ⟨rfl, rfl⟩⟩), by decide +kernel⟩

theorem witness_IntervalResult_xcont_1 (h : Obligations.IntervalResult) :
    ∃ t, exec (.xcont ⟨false, 113, 4, 8, 1, none⟩) (oneAt (.xcont ⟨false, 113, 4, 8, 1, none⟩) [(4, 0x3F800000), (5, 0x40000000), (8, 0x40400000)]) = .next t ∧ pred t 1 = false :=
  ⟨_, (h _).2.2.2.2 _ _ _ (executes_one ⟨rfl, rfl, rfl⟩ rfl rfl rfl rfl ⟨_, rfl, .inr (.inl ⟨rfl, _, rfl, rfl⟩)⟩), by decide +kernel⟩

theorem witness_IntervalResult_xcont_2 (h : Obligations.IntervalResult) :
    ∃ t, exec (.xcont ⟨false, 113, 4, 8, 2, none⟩) (oneAt (.xcont ⟨false, 113, 4, 8, 2, none⟩) [(4, 0x3F800000), (5, 0x40000000), (8, 0x3F800000), (9, 0x40000000)]) = .next t ∧ pred t 1 = true :=
  ⟨_, (h _).2.2.2.2 _ _ _ (executes_one ⟨rfl, rfl, rfl⟩ rfl rfl rfl rfl ⟨_, rfl, .inr (.inr ⟨by decide +kernel, _, rfl, rfl⟩)⟩), by decide +kernel⟩

theorem witness_IntervalResult_xcont_3 (h : Obligations.IntervalResult) :
    ∃ t, exec (.xcont ⟨false, 113, 4, 8, 3, none⟩) (oneAt (.xcont ⟨false, 113, 4, 8, 3, none⟩) [(4, 0x3F800000), (5, 0x40000000), (8, 0x40000000), (9, 0x40000000)]) = .next t ∧ pred t 1 = true :=
  ⟨_, (h _).2.2.2.2 _ _ _ (executes_one ⟨rfl, rfl, rfl⟩ rfl rfl rfl rfl ⟨_, rfl, .inr (.inr ⟨by decide +kernel, _, rfl, rfl⟩)⟩), by decide +kernel⟩

theorem witness_RoundingResult_exact (h : Obligations.RoundingResult) :
    ∃ y, Says.rat (decodeFmt .f32 (roundTo .f32 false .rn (.fin false 1 3))) = some y ∧
      Says.roundsTo .rn (1 / 3) y (11184810 / 33554432) (roundTo .f32 false .rn (.fin false 1 3) % 2 == 0) := by
  obtain ⟨y, h1, h2⟩ := h.1 .f32 .rn false 1 3 (1 / 3) ((2 ^ 24 - 1) * 2 ^ 104) (by decide) (by decide +kernel) (by decide +kernel)
    (by decide +kernel) (by decide +kernel)
  exact ⟨y, h1, h2 0x3EAAAAAA _ (by decide) (by decide +kernel)⟩

theorem witness_RoundingResult_overflow (h : Obligations.RoundingResult) :
    roundTo .f32 false .rz (.fin true (2 ^ 128) 1) = 0xFF7FFFFF ∧ roundTo .f8a false .rn (.fin false 449 1) = 0x7E ∧
      roundTo .f8b false .rn (.fin false 61440 1) = 0x7C ∧ roundTo .f16 false .rn (.fin false 65519 1) = 0x7BFF :=
  ⟨(h.2.1 .f32 .rz true (2 ^ 128) 1 (2 ^ 128) ((2 ^ 24 - 1) * 2 ^ 104) ((2 ^ 24 - 2) * 2 ^ 104) (by decide) (by decide +kernel) (by decide +kernel)
      (by decide +kernel) (by decide +kernel)).trans (by decide +kernel),
    (h.2.1 .f8a .rn false 449 1 449 448 416 (by decide) (by decide +kernel) (by decide +kernel) (by decide +kernel) (by decide +kernel)).trans
      (by decide +kernel),
    (h.2.1 .f8b .rn false 61440 1 61440 57344 49152 (by decide) (by decide +kernel) (by decide +kernel) (by decide +kernel)
      (by decide +kernel)).trans (by decide +kernel),
    (h.2.1 .f16 .rn false 65519 1 65519 65504 65472 (by decide) (by decide +kernel) (by decide +kernel) (by decide +kernel)
      (by decide +kernel)).trans (by decide +kernel)⟩

theorem witness_RoundingResult_flush (h : Obligations.RoundingResult) :
    roundTo .f32 true .rn (.fin true 1 (2 ^ 140)) = 0x80000000 :=
  (h.2.2.2 .f32 .rn true 1 (2 ^ 140) (by decide)).trans (by decide +kernel)

theorem witness_CollectiveResult_gshf (h : Obligations.CollectiveResult) :
    ∃ t, exec (.gshf ⟨false, 3, 1, 2, 3, none⟩) (oneAt (.gshf ⟨false, 3, 1, 2, 3, none⟩) [(1, 7), (2, 1), (3, 9)]) = .next t ∧ pending t = [([3], some [9])] :=
  ⟨_, (h _).1 _ _ _ (converges_one ⟨rfl, rfl, rfl⟩ rfl rfl rfl (by decide +kernel) (by decide +kernel) rfl), by decide +kernel⟩

theorem witness_CollectiveResult_gbc (h : Obligations.CollectiveResult) :
    ∃ t, exec (.gbc ⟨false, 3, 1, 2, 0, none⟩) (oneAt (.gbc ⟨false, 3, 1, 2, 0, none⟩) [(1, 7), (2, 0), (3, 9)]) = .next t ∧ pending t = [([3], some [7])] :=
  ⟨_, (h _).2.1 _ _ _ (converges_one ⟨rfl, rfl, rfl⟩ rfl rfl rfl (by decide +kernel) (by decide +kernel) rfl), by decide +kernel⟩

theorem witness_CollectiveResult_gbc_pair (h : Obligations.CollectiveResult) :
    ∃ t, exec (.gbc ⟨false, 4, 6, 2, 1, none⟩) (oneAt (.gbc ⟨false, 4, 6, 2, 1, none⟩) [(6, 7), (7, 8), (2, 0)]) = .next t ∧ pending t = [([4, 5], some [7, 8])] :=
  ⟨_, (h _).2.1 _ _ _ (converges_one ⟨rfl, rfl, rfl⟩ rfl rfl rfl (by decide +kernel) (by decide +kernel) rfl), by decide +kernel⟩

theorem witness_CollectiveResult_gvote (h : Obligations.CollectiveResult) :
    ∃ t, exec (.gvote ⟨false, 113, 112, 0, 0, none⟩) (oneAt (.gvote ⟨false, 113, 112, 0, 0, none⟩) []) = .next t ∧ pending t = [([113], some [0])] :=
  ⟨_, (h _).2.2.1 _ _ _ (converges_one ⟨rfl, rfl, rfl⟩ rfl rfl rfl (by decide +kernel) (by decide +kernel) rfl), by decide +kernel⟩

theorem witness_CollectiveResult_gball (h : Obligations.CollectiveResult) :
    ∃ t, exec (.gball ⟨false, 3, 0, 0, 1, none⟩) (oneAt (.gball ⟨false, 3, 0, 0, 1, none⟩) []) = .next t ∧ pending t = [([3], some [1])] :=
  ⟨_, (h _).2.2.2.1 _ _ _ (converges_one ⟨rfl, rfl, rfl⟩ rfl rfl rfl (by decide +kernel) (by decide +kernel) rfl), by decide +kernel⟩

theorem witness_CollectiveResult_gred (h : Obligations.CollectiveResult) :
    ∃ t, exec (.gred ⟨false, 3, 1, 8, 0, none⟩) (oneAt (.gred ⟨false, 3, 1, 8, 0, none⟩) [(1, 0x3F800000)]) = .next t ∧ pending t = [([3], some [0x3F800000])] :=
  ⟨_, (h _).2.2.2.2.1 _ _ _ (converges_one ⟨rfl, rfl, rfl⟩ rfl rfl rfl (by decide +kernel) (by decide +kernel) rfl), by decide +kernel⟩

theorem witness_CollectiveResult_gscan (h : Obligations.CollectiveResult) :
    ∃ t, exec (.gscan ⟨false, 3, 1, 2, 0, none⟩) (oneAt (.gscan ⟨false, 3, 1, 2, 0, none⟩) [(1, 5), (3, 9)]) = .next t ∧ pending t = [([3], some [9])] :=
  ⟨_, (h _).2.2.2.2.2.1 _ _ _ (converges_one ⟨rfl, rfl, rfl⟩ rfl rfl rfl (by decide +kernel) (by decide +kernel) rfl), by decide +kernel⟩

theorem witness_CollectiveResult_gmatch (h : Obligations.CollectiveResult) :
    ∃ t, exec (.gmatch ⟨false, 3, 1, 0, 0, none⟩) (oneAt (.gmatch ⟨false, 3, 1, 0, 0, none⟩) [(1, 5)]) = .next t ∧ pending t = [([3], some [1])] :=
  ⟨_, (h _).2.2.2.2.2.2.1 _ _ _ (converges_one ⟨rfl, rfl, rfl⟩ rfl rfl rfl (by decide +kernel) (by decide +kernel) rfl), by decide +kernel⟩

theorem witness_CollectiveResult_gelect (h : Obligations.CollectiveResult) :
    ∃ t, exec (.gelect ⟨false, 113, 0, 0, 1, none⟩) (oneAt (.gelect ⟨false, 113, 0, 0, 1, none⟩) []) = .next t ∧ pending t = [([113], some [1])] :=
  ⟨_, (h _).2.2.2.2.2.2.2.1 _ _ _ (converges_one ⟨rfl, rfl, rfl⟩ rfl rfl rfl (by decide +kernel) (by decide +kernel) rfl), by decide +kernel⟩

theorem witness_CollectiveResult_gsync (h : Obligations.CollectiveResult) :
    ∃ t, exec (.gsync ⟨false, 0, 0, 0, 0, none⟩) (oneAt (.gsync ⟨false, 0, 0, 0, 0, none⟩) [(1, 5)]) = .next t ∧ pending t = [] :=
  ⟨_, (h _).2.2.2.2.2.2.2.2.1 _ _ _ (converges_one ⟨rfl, rfl, rfl⟩ rfl rfl rfl (by decide +kernel) (by decide +kernel) rfl), by decide +kernel⟩

/-- Thread 0's event 3 is before what thread 1 does after their GSYNC. -/
theorem witness_CollectiveResult_gsync_orders (h : Obligations.CollectiveResult) :
    3 ≤ kget 0 (viewOf (syncAll (newEvent { State.reset with order := { Order.initial with next := 2 } } 0) [0, 1]).order 1) 0 :=
  (h ⟨false, 0, 0, 0, 0, none⟩).2.2.2.2.2.2.2.2.2 (newEvent { State.reset with order := { Order.initial with next := 2 } } 0) [0, 1] 1
    (by decide) 0 (by decide) 0

set_option maxRecDepth 4000 in
theorem witness_LaunchResult_pnew (h : Obligations.LaunchResult) :
    ∃ t, exec (.pnew ⟨false, 3, 4, 6, 0, none⟩) (poke (mappedAt (.pnew ⟨false, 3, 4, 6, 0, none⟩) { threadWith [(4, 0x30000), (6, 0x50000)] with lpr := some ⟨0, 0x40000000, 0, true, true, false⟩ }) 0x30000 ([])) = .next t ∧ pending t = [([3], some [0])] ∧ rdMem t 0x30000 8 = 0x50000 ∧ rdMem t 0x30010 4 = 1 :=
  ⟨_, (h.1 _).1 _ _ _ (executes_one ⟨rfl, rfl, rfl⟩ rfl rfl rfl rfl ⟨_, _, 0x30000, ⟨rfl, rfl, ok_of (by decide +kernel)⟩, rfl, rfl, rfl⟩), by decide +kernel, by decide +kernel, by decide +kernel⟩

set_option maxRecDepth 4000 in
theorem witness_LaunchResult_pset (h : Obligations.LaunchResult) :
    ∃ t, exec (.pset ⟨false, 3, 4, 6, 1, none⟩) (poke (mappedAt (.pset ⟨false, 3, 4, 6, 1, none⟩) { threadWith [(4, 0x30000), (6, 0x00400003), (7, 0x400)] with lpr := some ⟨0, 0x40000000, 0, true, true, false⟩ }) 0x30000 (Says.newPod 0x50000 0 0 0)) = .next t ∧ pending t = [([3], some [0])] ∧ rdMem t 0x30018 4 = 3 ∧ rdMem t 0x3001C 4 = 2 ∧ rdMem t 0x30020 4 = 1 :=
  ⟨_, (h.1 _).2.1 _ _ _ (executes_one ⟨rfl, rfl, rfl⟩ rfl rfl rfl rfl ⟨_, _, 0x30000, ⟨rfl, rfl, ok_of (by decide +kernel)⟩, rfl, rfl, (.inl ⟨by decide +kernel, by decide +kernel, (show _ ∧ _ ∧ _ ∧ _ from by decide +kernel), rfl⟩)⟩), by decide +kernel, by decide +kernel, by decide +kernel, by decide +kernel⟩

set_option maxRecDepth 4000 in
theorem witness_LaunchResult_pset_bad_state (h : Obligations.LaunchResult) :
    ∃ t, exec (.pset ⟨false, 3, 4, 6, 0, none⟩) (poke (mappedAt (.pset ⟨false, 3, 4, 6, 0, none⟩) { threadWith [(4, 0x30000)] with lpr := some ⟨0, 0x40000000, 0, true, true, false⟩ }) 0x30000 (leBytes 8 0 ++ leBytes 8 0 ++ leBytes 8 (2 ^ 56))) = .next t ∧ pending t = [([3], some [0x10])] ∧ rdMem t 0x30008 8 = 0 :=
  ⟨_, (h.1 _).2.1 _ _ _ (executes_one ⟨rfl, rfl, rfl⟩ rfl rfl rfl rfl ⟨_, _, 0x30000, ⟨rfl, rfl, ok_of (by decide +kernel)⟩, rfl, rfl, .inr (.inl ⟨by decide +kernel, rfl⟩)⟩), by decide +kernel, by decide +kernel⟩

set_option maxRecDepth 4000 in
theorem witness_LaunchResult_pset_bad_value (h : Obligations.LaunchResult) :
    ∃ t, exec (.pset ⟨false, 3, 4, 6, 1, none⟩) (poke (mappedAt (.pset ⟨false, 3, 4, 6, 1, none⟩) { threadWith [(4, 0x30000)] with lpr := some ⟨0, 0x40000000, 0, true, true, false⟩ }) 0x30000 (Says.newPod 0x50000 0 0 0)) = .next t ∧ pending t = [([3], some [0x13])] :=
  ⟨_, (h.1 _).2.1 _ _ _ (executes_one ⟨rfl, rfl, rfl⟩ rfl rfl rfl rfl ⟨_, _, 0x30000, ⟨rfl, rfl, ok_of (by decide +kernel)⟩, rfl, rfl, .inr (.inr ⟨by decide +kernel, by decide +kernel, (show ¬(_ ∧ _ ∧ _ ∧ _) from by decide +kernel), rfl⟩)⟩), by decide +kernel⟩

set_option maxRecDepth 4000 in
theorem witness_LaunchResult_parm (h : Obligations.LaunchResult) :
    ∃ t, exec (.parm ⟨false, 3, 4, 6, 2, none⟩) (poke (mappedAt (.parm ⟨false, 3, 4, 6, 2, none⟩) { threadWith [(4, 0x30000), (6, 7)] with lpr := some ⟨0, 0x40000000, 0, true, true, false⟩ }) 0x30000 (Says.newPod 5 3 0 0)) = .next t ∧ pending t = [([3], some [0])] ∧ rdMem t 0x30010 8 = 0x0207020300000000 ∧ (getTeam t 0).pendq.length = 1 :=
  ⟨_, (h.1 _).2.2.2 _ _ _ (executes_one ⟨rfl, rfl, rfl⟩ rfl rfl rfl rfl ⟨_, _, 0x30000, ⟨rfl, rfl, ok_of (by decide +kernel)⟩, rfl, rfl, .inr ⟨by decide +kernel, by decide +kernel, rfl⟩⟩), by decide +kernel, by decide +kernel, by decide +kernel⟩

set_option maxRecDepth 4000 in
theorem witness_LaunchResult_parm_bad (h : Obligations.LaunchResult) :
    ∃ t, exec (.parm ⟨false, 3, 4, 6, 2, none⟩) (poke (mappedAt (.parm ⟨false, 3, 4, 6, 2, none⟩) { threadWith [(4, 0x30000), (6, 7)] with lpr := some ⟨0, 0x40000000, 0, true, true, false⟩ }) 0x30000 (Says.newPod 2048 3 0 0)) = .next t ∧ pending t = [([3], some [0x12])] ∧ rdMem t 0x30017 1 = 0x10 :=
  ⟨_, (h.1 _).2.2.2 _ _ _ (executes_one ⟨rfl, rfl, rfl⟩ rfl rfl rfl rfl ⟨_, _, 0x30000, ⟨rfl, rfl, ok_of (by decide +kernel)⟩, rfl, rfl, .inr ⟨by decide +kernel, by decide +kernel, rfl⟩⟩), by decide +kernel, by decide +kernel⟩

set_option maxRecDepth 4000 in
theorem witness_LaunchResult_pedge (h : Obligations.LaunchResult) :
    ∃ t, exec (.pedge ⟨false, 3, 4, 6, 0, none⟩) (poke (mappedAt (.pedge ⟨false, 3, 4, 6, 0, none⟩) { threadWith [(4, 0x30000), (6, 0x30040)] with lpr := some ⟨0, 0x40000000, 0, true, true, false⟩ }) 0x30000 (Says.newPod 5 3 0 0 ++ Says.newPod 5 3 0 0)) = .next t ∧ pending t = [([3], some [0x11])] ∧ rdMem t 0x30050 4 = 1 :=
  ⟨_, (h.1 _).2.2.1 _ _ _ (executes_one ⟨rfl, rfl, rfl⟩ rfl rfl rfl rfl ⟨_, _, 0x30000, 0x30040, ⟨rfl, rfl, ok_of (by decide +kernel)⟩, rfl, rfl, ok_of (by decide +kernel), .inr (.inr ⟨by decide +kernel, by decide +kernel, by decide +kernel, by decide +kernel, by decide +kernel,
    .inr (.inr (.inl ⟨by decide +kernel, by decide +kernel, rfl⟩))⟩)⟩), by decide +kernel, by decide +kernel⟩

set_option maxRecDepth 4000 in
theorem witness_LaunchResult_pedge_adds (h : Obligations.LaunchResult) :
    ∃ t, exec (.pedge ⟨false, 3, 4, 6, 0, none⟩) (poke (mappedAt (.pedge ⟨false, 3, 4, 6, 0, none⟩) { threadWith [(4, 0x30000), (6, 0x30040)] with lpr := some ⟨0, 0x40000000, 0, true, true, false⟩ }) 0x30000 (leBytes 8 5 ++ leBytes 8 0 ++ leBytes 8 0x0000000300000001 ++ leBytes 8 0 ++ leBytes 8 0 ++ leBytes 8 0x0000000100000000 ++ leBytes 8 0x40000 ++ leBytes 8 0 ++ Says.newPod 5 3 0 0)) = .next t ∧ pending t = [([3], some [0])] ∧ rdMem t 0x30050 4 = 2 ∧ rdMem t 0x40000 8 = 0x30040 ∧ rdMem t 0x3002A 2 = 1 :=
  ⟨_, (h.1 _).2.2.1 _ _ _ (executes_one ⟨rfl, rfl, rfl⟩ rfl rfl rfl rfl ⟨_, _, 0x30000, 0x30040, ⟨rfl, rfl, ok_of (by decide +kernel)⟩, rfl, rfl, ok_of (by decide +kernel), .inr (.inr ⟨by decide +kernel, by decide +kernel, by decide +kernel, by decide +kernel, by decide +kernel,
    .inl ⟨by decide +kernel, by decide +kernel, ⟨0, 0x40000000, 0, true, true, true, false⟩, ok_of (by decide +kernel), by decide +kernel, rfl⟩⟩)⟩), by decide +kernel, by decide +kernel, by decide +kernel, by decide +kernel⟩

set_option maxRecDepth 4000 in
theorem witness_LaunchResult_pedge_done (h : Obligations.LaunchResult) :
    ∃ t, exec (.pedge ⟨false, 3, 4, 6, 0, none⟩) (poke (mappedAt (.pedge ⟨false, 3, 4, 6, 0, none⟩) { threadWith [(4, 0x30000), (6, 0x30040)] with lpr := some ⟨0, 0x40000000, 0, true, true, false⟩ }) 0x30000 (leBytes 8 5 ++ leBytes 8 0 ++ leBytes 8 0x0500000300000001 ++ leBytes 40 0 ++ Says.newPod 5 3 0 0)) = .next t ∧ pending t = [([3], some [3])] :=
  ⟨_, (h.1 _).2.2.1 _ _ _ (executes_one ⟨rfl, rfl, rfl⟩ rfl rfl rfl rfl ⟨_, _, 0x30000, 0x30040, ⟨rfl, rfl, ok_of (by decide +kernel)⟩, rfl, rfl, ok_of (by decide +kernel), .inr (.inr ⟨by decide +kernel, by decide +kernel, by decide +kernel, by decide +kernel, by decide +kernel,
    .inr (.inl ⟨by decide +kernel, rfl⟩)⟩)⟩), by decide +kernel⟩

set_option maxRecDepth 4000 in
theorem witness_LaunchResult_parm_value (h : Obligations.LaunchResult) :
    ∃ t, exec (.parm ⟨false, 3, 4, 6, 2, none⟩) (poke (mappedAt (.parm ⟨false, 3, 4, 6, 2, none⟩) { threadWith [(4, 0x30000), (6, 8)] with lpr := some ⟨0, 0x40000000, 0, true, true, false⟩ }) 0x30000 (Says.newPod 5 3 0 0)) = .next t ∧ pending t = [([3], some [0x13])] :=
  ⟨_, (h.1 _).2.2.2 _ _ _ (executes_one ⟨rfl, rfl, rfl⟩ rfl rfl rfl rfl ⟨_, _, 0x30000, ⟨rfl, rfl, ok_of (by decide +kernel)⟩, rfl, rfl, .inl ⟨by decide +kernel, rfl⟩⟩), by decide +kernel⟩

set_option maxRecDepth 4000 in
theorem witness_LaunchResult_pedge_itself (h : Obligations.LaunchResult) :
    ∃ t, exec (.pedge ⟨false, 3, 4, 4, 0, none⟩) (poke (mappedAt (.pedge ⟨false, 3, 4, 4, 0, none⟩) { threadWith [(4, 0x30000)] with lpr := some ⟨0, 0x40000000, 0, true, true, false⟩ }) 0x30000 (Says.newPod 5 3 0 0)) = .next t ∧ pending t = [([3], some [0x13])] :=
  ⟨_, (h.1 _).2.2.1 _ _ _ (executes_one ⟨rfl, rfl, rfl⟩ rfl rfl rfl rfl ⟨_, _, 0x30000, 0x30000, ⟨rfl, rfl, ok_of (by decide +kernel)⟩, rfl, rfl, ok_of (by decide +kernel), .inl ⟨rfl, rfl⟩⟩), by decide +kernel⟩

set_option maxRecDepth 4000 in
theorem witness_LaunchResult_pedge_to_armed (h : Obligations.LaunchResult) :
    ∃ t, exec (.pedge ⟨false, 3, 4, 6, 0, none⟩) (poke (mappedAt (.pedge ⟨false, 3, 4, 6, 0, none⟩) { threadWith [(4, 0x30000), (6, 0x30040)] with lpr := some ⟨0, 0x40000000, 0, true, true, false⟩ }) 0x30000 (Says.newPod 5 3 0 0 ++ leBytes 16 5 ++ leBytes 8 (2 ^ 56))) = .next t ∧ pending t = [([3], some [0x10])] :=
  ⟨_, (h.1 _).2.2.1 _ _ _ (executes_one ⟨rfl, rfl, rfl⟩ rfl rfl rfl rfl ⟨_, _, 0x30000, 0x30040, ⟨rfl, rfl, ok_of (by decide +kernel)⟩, rfl, rfl, ok_of (by decide +kernel), .inr (.inl ⟨by decide +kernel, by decide +kernel, by decide +kernel, rfl⟩)⟩), by decide +kernel⟩

set_option maxRecDepth 4000 in
theorem witness_LaunchResult_pedge_list (h : Obligations.LaunchResult) :
    ∃ t, exec (.pedge ⟨false, 3, 4, 6, 0, none⟩) (poke (mappedAt (.pedge ⟨false, 3, 4, 6, 0, none⟩) { threadWith [(4, 0x30000), (6, 0x30040)] with lpr := some ⟨0, 0x40000000, 0, true, true, false⟩ }) 0x30000 (leBytes 8 5 ++ leBytes 8 0 ++ leBytes 8 0x0000000300000001 ++ leBytes 8 0 ++ leBytes 8 0 ++ leBytes 8 0x0000000100000000 ++ leBytes 8 0x40000000 ++ leBytes 8 0 ++ Says.newPod 5 3 0 0)) = .next t ∧ pending t = [([3], some [0x14])] ∧ rdMem t 0x30050 4 = 1 :=
  ⟨_, (h.1 _).2.2.1 _ _ _ (executes_one ⟨rfl, rfl, rfl⟩ rfl rfl rfl rfl ⟨_, _, 0x30000, 0x30040, ⟨rfl, rfl, ok_of (by decide +kernel)⟩, rfl, rfl, ok_of (by decide +kernel), .inr (.inr ⟨by decide +kernel, by decide +kernel, by decide +kernel, by decide +kernel, by decide +kernel,
    .inr (.inr (.inr ⟨by decide +kernel, by decide +kernel, no_ok (by decide +kernel), rfl⟩))⟩)⟩), by decide +kernel, by decide +kernel⟩

/-- After reset, a SIGNAL pod at 0x30000 with JOIN j and a STATUS, and team 0 with n pending launches. -/
def podScene (j st n : Nat) : State :=
  let s := setTeam State.reset 0 { Team.initial with pendq := List.replicate n { pod := 0x40000, since := 0, stamp := 0, popped := false } }
  poke s 0x30000 (leBytes 8 5 ++ leBytes 8 0 ++ leBytes 4 j ++ [3#8, 0#8, 0#8, BitVec.ofNat 8 st])

set_option maxRecDepth 4000 in
theorem witness_LaunchResult_dropJoin (h : Obligations.LaunchResult) :
    (dropJoin (podScene 2 1 0) 0x30000 none).2 = some 2 ∧ (dropJoin (podScene 1 1 0) 0x30000 none).2 = some 0 ∧
      (dropJoin (podScene 1 1 3) 0x30000 (some 0)).2 = some 0 ∧ (dropJoin (podScene 1 1 4) 0x30000 (some 0)).2 = some 1 ∧
      (dropJoin (podScene 0 1 0) 0x30000 none).2 = none :=
  ⟨congrArg (·.2) ((h.2 (podScene 2 1 0) 0x30000 none).1 (by decide +kernel)), congrArg (·.2) ((h.2 (podScene 1 1 0) 0x30000 none).2.1 (by decide +kernel) (by decide +kernel)),
    congrArg (·.2) ((h.2 (podScene 1 1 3) 0x30000 none).2.2.1 0 (by decide +kernel) (by decide +kernel) (by decide +kernel)),
    congrArg (·.2) ((h.2 (podScene 1 1 4) 0x30000 none).2.2.2.1 0 (by decide +kernel) (by decide +kernel) (by decide +kernel)),
    congrArg (·.2) ((h.2 (podScene 0 1 0) 0x30000 none).2.2.2.2 (by decide +kernel))⟩

theorem findPub_none {s : State} {asid va n : Nat} (h : ∀ j, j < n → pubSlot s asid j = none) : findPub s asid va n = none := by
  induction n with
  | zero => rfl
  | succ n ih => unfold findPub; rw [ih (fun j hj => h j (by omega)), h n (by omega)]

/-- Every address of the first GiB can be written where the tables map it. -/
theorem probe_none {s : State} {c : Context} (h1 : ∀ j, j < pubSlots s → pubSlot s 0 j = none) (h2 : contextOf s 0 = .ok c)
    (h3 : walkRead s c.root 8 = .ok 0x11001) (h4 : walkRead s 0x11000 8 = .ok 0x1F) (n : Nat) :
    ∀ va, va + n ≤ 2 ^ 30 → probeWrite s 0 va n = none := by
  induction n with
  | zero => intro va _; rfl
  | succ n ih =>
    intro va h
    have e : ∃ p, translate s 0 va .w = .ok p := by
      have i3 : levelIndex va 3 = 0 := by unfold levelIndex; rw [if_pos rfl]; omega
      have i2 : levelIndex va 2 = 0 := by unfold levelIndex; rw [if_neg (by decide), if_pos rfl]; omega
      unfold Sys2Proof.Machine.translate
      rw [if_neg (by omega), findPub_none h1, h2]
      simp [walk, i3, i2, h3, h4, allows]
    obtain ⟨p, e⟩ := e
    unfold probeWrite
    rw [e]
    exact ih (va + 1) (by omega)

/-- The scene of thread t at i with one entry in the equivalence-point table: number 3, at address dpc of the dense code, at 0x50000. -/
def eqpScene (i : Instr) (t : Thread) (dpc : Nat) : State :=
  let s := modTeam (mappedAt i t) 0 (fun x => { x with desc := { x.desc with dimg := 0x50000, eqptab := 0x40000, eqpcount := 1 } })
  poke (poke s 0x40000 (leBytes 2 3 ++ leBytes 2 0 ++ leBytes 4 dpc ++ leBytes 4 0x30 ++ leBytes 4 0)) 0x5000C (leBytes 4 0x70080000 ++ leBytes 4 0x62800003)

set_option maxRecDepth 4000 in
theorem witness_MoveAndWaitResult_eqp (h : Obligations.MoveAndWaitResult) :
    ∃ t, exec (.eqp ⟨false, 0, 3, none⟩) (eqpScene (.eqp ⟨false, 0, 3, none⟩) (threadWith []) 4) = .next t ∧ (getThread t 0).eqp = some ⟨3, 4, 0x30, .d⟩ :=
  ⟨_, h.1 _ _ _ _ (executes_one ⟨rfl, rfl, rfl⟩ rfl rfl rfl rfl ⟨⟨3, 4, 0x30, 0, 0⟩, ok_of (by decide +kernel), rfl, rfl⟩), by decide +kernel⟩

set_option maxRecDepth 4000 in
theorem witness_MoveAndWaitResult_migr_granted (h : Obligations.MoveAndWaitResult) :
    ∃ t, exec (.migr ⟨false, 0, 0, 0, 0, none⟩) (eqpScene (.migr ⟨false, 0, 0, 0, 0, none⟩) (threadWith []) 16) = .next t ∧ ((getGroup t 0).moving.map (·.core)) = some 19 ∧ bundleAt t 0 0 = none :=
  ⟨_, h.2.1 _ _ _ _ (converges_one ⟨rfl, rfl, rfl⟩ rfl rfl rfl (by decide +kernel) (by decide +kernel) ⟨_, ⟨3, 16, 0x30, 0, 0⟩, [], by decide +kernel, rfl, rfl, rfl, rfl, rfl⟩), by decide +kernel, by decide +kernel⟩

set_option maxRecDepth 4000 in
theorem witness_MoveAndWaitResult_migr_refused (h : Obligations.MoveAndWaitResult) :
    ∃ t, exec (.migr ⟨false, 0, 0, 0, 0, none⟩) (modCore (eqpScene (.migr ⟨false, 0, 0, 0, 0, none⟩) (threadWith []) 16) 19 (fun c => { c with fenced := true })) = .next t ∧ (getGroup t 0).moving = none ∧ pred t 7 = false :=
  ⟨_, h.2.1 _ _ _ _ (converges_one ⟨rfl, rfl, rfl⟩ rfl rfl rfl (by decide +kernel) (by decide +kernel) ⟨_, ⟨3, 16, 0x30, 0, 0⟩, [], by decide +kernel, rfl, rfl, rfl, rfl, rfl⟩), by decide +kernel, by decide +kernel⟩

set_option maxRecDepth 4000 in
theorem witness_MoveAndWaitResult_pwait_done (h : Obligations.MoveAndWaitResult) :
    ∃ t, exec (.pwait ⟨false, 0, 4, 0, 0, none⟩) (poke (mappedAt (.pwait ⟨false, 0, 4, 0, 0, none⟩) { threadWith [(4, 0x30000)] with lpr := some ⟨0, 0x40000000, 0, true, true, false⟩ }) 0x30000 (leBytes 8 0 ++ leBytes 8 0x60000 ++ leBytes 4 1 ++ leBytes 1 1)) = .next t ∧ rdMem t 0x30017 1 = 5 :=
  ⟨_, h.2.2 _ _ _ _ (converges_one ⟨rfl, rfl, rfl⟩ rfl rfl rfl (by decide +kernel) (by decide +kernel) ⟨_, 0x30000, ⟨rfl, rfl, ok_of (by decide +kernel)⟩, by decide +kernel, by decide +kernel, by decide +kernel, by decide +kernel, probe_none (c := ⟨0x10000, 0x100000, 0x1000, 0, 1⟩) (by decide +kernel) (ok_of (by decide +kernel)) (ok_of (by decide +kernel)) (ok_of (by decide +kernel)) _ _ (by decide +kernel), by decide +kernel, by decide +kernel, rfl⟩), by decide +kernel⟩

set_option maxRecDepth 4000 in
theorem witness_MoveAndWaitResult_pwait_swapped (h : Obligations.MoveAndWaitResult) :
    ∃ t, exec (.pwait ⟨false, 0, 4, 0, 0, none⟩) (poke (mappedAt (.pwait ⟨false, 0, 4, 0, 0, none⟩) { threadWith [(4, 0x30000)] with lpr := some ⟨0, 0x40000000, 0, true, true, false⟩ }) 0x30000 (leBytes 8 0 ++ leBytes 8 0x60000 ++ leBytes 4 2 ++ leBytes 1 1)) = .next t :=
  ⟨_, h.2.2 _ _ _ _ <| converges_one ⟨rfl, rfl, rfl⟩ rfl rfl rfl (by decide +kernel) (by decide +kernel) ⟨_, 0x30000, ⟨rfl, rfl, ok_of (by decide +kernel)⟩, by decide +kernel, by decide +kernel, by decide +kernel, by decide +kernel, probe_none (c := ⟨0x10000, 0x100000, 0x1000, 0, 1⟩) (by decide +kernel) (ok_of (by decide +kernel)) (ok_of (by decide +kernel)) (ok_of (by decide +kernel)) _ _ (by decide +kernel), by decide +kernel, by decide +kernel, ⟨_, rfl, rfl⟩⟩⟩

set_option maxRecDepth 4000 in
theorem witness_MoveAndWaitResult_pwait_bad (h : Obligations.MoveAndWaitResult) :
    ∃ t, exec (.pwait ⟨false, 0, 4, 0, 0, none⟩) (poke (mappedAt (.pwait ⟨false, 0, 4, 0, 0, none⟩) { threadWith [(4, 0x30000)] with lpr := some ⟨0, 0x40000000, 0, true, true, false⟩ }) 0x30000 (leBytes 8 0 ++ leBytes 8 0x60000 ++ leBytes 4 1 ++ leBytes 22 1 ++ leBytes 2 1)) = .next t ∧ rdMem t 0x30017 1 = 0x10 :=
  ⟨_, h.2.2 _ _ _ _ (converges_one ⟨rfl, rfl, rfl⟩ rfl rfl rfl (by decide +kernel) (by decide +kernel) ⟨_, 0x30000, ⟨rfl, rfl, ok_of (by decide +kernel)⟩, by decide +kernel, by decide +kernel, by decide +kernel, by decide +kernel, probe_none (c := ⟨0x10000, 0x100000, 0x1000, 0, 1⟩) (by decide +kernel) (ok_of (by decide +kernel)) (ok_of (by decide +kernel)) (ok_of (by decide +kernel)) _ _ (by decide +kernel), by decide +kernel, by decide +kernel, rfl⟩), by decide +kernel⟩

set_option maxRecDepth 4000 in
theorem witness_EngineIssueResult_tidw (h : Obligations.EngineIssueResult) :
    ∃ t, exec (.tidw ⟨false, 3, 1, 2, 0, 0, 0, none⟩) (pokeLoc (unitScene (.tidw ⟨false, 3, 1, 2, 0, 0, 0, none⟩) { threadWith [(1, 16), (2, 63)] with lpr := some ⟨0, 0x40000000, 0, true, true, false⟩ }) (.scratch 0 16) (tensor 0x36000)) = .next t ∧ pending t = [([3], some [0])] ∧ leAt (getTeam t 0).tids 8064 8 = 0x36000 :=
  ⟨_, (h.1 _).1 _ _ _ (executes_one ⟨rfl, rfl, rfl⟩ rfl rfl rfl rfl ⟨_, _, ⟨rfl, rfl, rfl, rfl, by decide +kernel, by decide +kernel, by decide +kernel⟩, rfl⟩), by decide +kernel, by decide +kernel⟩

set_option maxRecDepth 4000 in
theorem witness_EngineIssueResult_tidw_bad (h : Obligations.EngineIssueResult) :
    ∃ t, exec (.tidw ⟨false, 3, 1, 2, 0, 0, 0, none⟩) (pokeLoc (unitScene (.tidw ⟨false, 3, 1, 2, 0, 0, 0, none⟩) { threadWith [(1, 16), (2, 63)] with lpr := some ⟨0, 0x40000000, 0, true, true, false⟩ }) (.scratch 0 16) (tensor 0x36001)) = .next t ∧ pending t = [([3], some [3])] ∧ leAt (getTeam t 0).tids 8064 8 = 0 :=
  ⟨_, (h.1 _).1 _ _ _ (executes_one ⟨rfl, rfl, rfl⟩ rfl rfl rfl rfl ⟨_, _, ⟨rfl, rfl, rfl, rfl, by decide +kernel, by decide +kernel, by decide +kernel⟩, rfl⟩), by decide +kernel, by decide +kernel⟩

set_option maxRecDepth 4000 in
theorem witness_EngineIssueResult_tidr (h : Obligations.EngineIssueResult) :
    ∃ t, exec (.tidr ⟨false, 3, 1, 2, 0, 0, 0, none⟩) (unitScene (.tidr ⟨false, 3, 1, 2, 0, 0, 0, none⟩) { threadWith [(1, 16), (2, 1)] with lpr := some ⟨0, 0x40000000, 0, true, true, false⟩ }) = .next t ∧ pending t = [([3], some [0])] ∧ leAt (getTeam t 0).scratch 16 8 = 0x35000 :=
  ⟨_, (h.1 _).2 _ _ _ (executes_one ⟨rfl, rfl, rfl⟩ rfl rfl rfl rfl ⟨_, _, ⟨rfl, rfl, rfl, rfl, by decide +kernel, by decide +kernel, by decide +kernel⟩, rfl⟩), by decide +kernel, by decide +kernel⟩

set_option maxRecDepth 4000 in
theorem witness_EngineIssueResult_cpy (h : Obligations.EngineIssueResult) :
    ∃ t, exec (.cpy ⟨false, 0, 1, 2, 0, 0, 0, none⟩) (unitScene (.cpy ⟨false, 0, 1, 2, 0, 0, 0, none⟩) { threadWith [(1, 0), (2, 1)] with lpr := some ⟨0, 0x40000000, 0, true, true, false⟩ }) = .next t ∧ (getCore t 0).engq.map (fun c => (c.sub, leAt c.src 0 8, leAt c.dst 0 8)) = [(2, 0x34000, 0x35000)] :=
  ⟨_, h.2.1 _ _ rfl _ _ _ (executes_one ⟨rfl, rfl, rfl⟩ rfl rfl rfl rfl ⟨⟨0, false⟩, _, _, ⟨0, false⟩, ⟨fun u => absurd u (by decide +kernel), fun _ => rfl⟩, rfl, rfl, rfl, rfl, ⟨fun u => absurd u (by decide +kernel), fun _ => rfl⟩, by decide +kernel, by decide +kernel, by decide +kernel, by decide +kernel, fun u => absurd u (by decide +kernel), by decide +kernel, by decide +kernel, rfl⟩), by decide +kernel⟩

set_option maxRecDepth 4000 in
theorem witness_EngineIssueResult_pub (h : Obligations.EngineIssueResult) :
    ∃ t, exec (.pub ⟨false, 3, 1, 0, 0, 0, 0, none⟩) (poke { unitScene (.pub ⟨false, 3, 1, 0, 0, 0, 0, none⟩) { threadWith [(1, 0)] with lpr := some ⟨0, 0x40000000, 0, true, true, false⟩ } with pubtab := 0x38000 } 0x38000 (leBytes 8 0x100000 ++ leBytes 4 0x10000 ++ leBytes 2 0 ++ [1#8, 0#8] ++ leBytes 8 0x200000 ++ leBytes 8 0x300000)) = .next t ∧ t.pubs.map (fun p => (p.slot, p.core)) = [(0, 0)] ∧ pending t = [([3], none)] :=
  ⟨_, h.2.2 _ _ _ _ (executes_one ⟨rfl, rfl, rfl⟩ rfl rfl rfl rfl ⟨_, rfl, rfl, by decide +kernel, rfl⟩), by decide +kernel, by decide +kernel⟩

set_option maxRecDepth 4000 in
theorem witness_MatrixIssueResult_mxcfg_acq (h : Obligations.MatrixIssueResult) :
    ∃ t, exec (.mxcfgAcq ⟨false, 3, 1, 0, 0, 0, 0, none⟩) (unitScene (.mxcfgAcq ⟨false, 3, 1, 0, 0, 0, 0, none⟩) { threadWith [(1, 0)] with lpr := some ⟨0, 0x40000000, 0, true, true, false⟩ }) = .next t ∧ (getCore t 0).mxq.map (fun c => (c.sub, c.team)) = [(0, 0)] ∧ pending t = [([3], none)] :=
  ⟨_, h.1 _ rfl _ _ _ (executes_one ⟨rfl, rfl, rfl⟩ rfl rfl rfl rfl ⟨.inl rfl, ⟨0, false⟩, _, ⟨0, false⟩, ⟨0, false⟩, ⟨fun u => absurd u (by decide +kernel), fun _ => rfl⟩, ⟨fun _ => ⟨rfl, rfl⟩, fun u => absurd (by decide +kernel) u⟩, ⟨fun u => absurd u (by decide +kernel), fun _ => rfl⟩, ⟨fun u => absurd u (by decide +kernel), fun _ => rfl⟩, by decide +kernel, by decide +kernel, by decide +kernel, by decide +kernel, rfl⟩), by decide +kernel, by decide +kernel⟩

set_option maxRecDepth 4000 in
theorem witness_MatrixIssueResult_mxz (h : Obligations.MatrixIssueResult) :
    ∃ t, exec (.mxz ⟨false, 4, 1, 0, 0, 0, 0, none⟩) (modTeam (modCore (unitScene (.mxz ⟨false, 4, 1, 0, 0, 0, 0, none⟩) { threadWith [(1, 1), (4, 0)] with lpr := some ⟨0, 0x40000000, 0, true, true, false⟩ }) 0 (fun c => { c with mxOwner := some 0 })) 0 (fun x => { x with desc := { x.desc with accum := 4096 } })) = .next t ∧ (getCore t 0).mxq.map (fun c => (c.sub, c.a)) = [(5, 1)] :=
  ⟨_, h.1 _ rfl _ _ _ (executes_one ⟨rfl, rfl, rfl⟩ rfl rfl rfl rfl ⟨.inr (by decide +kernel), _, _, ⟨0, false⟩, ⟨0, false⟩, ⟨fun _ => ⟨rfl, rfl⟩, fun u => absurd (by decide +kernel) u⟩, ⟨fun _ => ⟨rfl, rfl⟩, fun u => absurd (by decide +kernel) u⟩, ⟨fun u => absurd u (by decide +kernel), fun _ => rfl⟩, ⟨fun u => absurd u (by decide +kernel), fun _ => rfl⟩, by decide +kernel, by decide +kernel, by decide +kernel, by decide +kernel, rfl⟩), by decide +kernel⟩

theorem witness_MatrixIssueResult_table (h : Obligations.MatrixIssueResult) :
    0 ∈ touched (modCore (oneAt (.mxlw ⟨false, 0, 1, 2, 0, 0, 0, none⟩) []) 0 (fun c => { c with mxOwner := some 0, mxCfg := 0x3A00 })) 0
      (.mxlw ⟨false, 0, 1, 2, 0, 0, 0, none⟩) := h.2 _ _ 0 (by decide) (by decide +kernel) (by decide +kernel)

set_option maxRecDepth 4000 in
theorem witness_RayIssueResult_trav (h : Obligations.RayIssueResult) :
    ∃ t, exec (.trav ⟨false, 20, 8, 16, 0, 18, 0, none⟩) (unitScene (.trav ⟨false, 20, 8, 16, 0, 18, 0, none⟩) { threadWith [(16, 0x100), (18, 0)] with lpr := some ⟨0, 0x40000000, 0, true, true, false⟩ }) = .next t ∧ (slotOfTeam t 0 0).queue.map (fun c => (c.sub, c.b)) = [(0, [0x100, 0])] ∧ pending t = [([20, 21, 22, 23], none)] :=
  ⟨_, h.1 _ _ _ _ rfl _ _ _ (executes_one ⟨rfl, rfl, rfl⟩ rfl rfl rfl rfl ⟨_, _, _, ⟨fun u => absurd u (by decide +kernel), fun u => absurd u (by decide), fun _ _ => rfl, rfl⟩, ⟨fun u => absurd u (by decide +kernel), fun _ u => absurd u (by decide +kernel), fun _ _ => rfl, rfl⟩, ⟨fun u => absurd u (by decide +kernel), fun _ u => absurd u (by decide +kernel), fun _ _ => rfl, rfl⟩, by decide +kernel, fun u => absurd u (by decide +kernel), by decide +kernel, rfl⟩), by decide +kernel, by decide +kernel⟩

set_option maxRecDepth 4000 in
theorem witness_RayIssueResult_rget (h : Obligations.RayIssueResult) :
    ∃ t, exec (.rget ⟨false, 20, 0, 0, 0, 18, 0, none⟩) (unitScene (.rget ⟨false, 20, 0, 0, 0, 18, 0, none⟩) { threadWith [(18, 0)] with lpr := some ⟨0, 0x40000000, 0, true, true, false⟩ }) = .next t ∧ (slotOfTeam t 0 0).queue.map (fun c => (c.sub, c.b)) = [(6, [0])] :=
  ⟨_, h.1 _ _ _ _ rfl _ _ _ (executes_one ⟨rfl, rfl, rfl⟩ rfl rfl rfl rfl ⟨[], [], _, ⟨fun _ => rfl, fun u => absurd u (by decide), fun _ u => absurd rfl u, rfl⟩, ⟨fun _ => rfl, fun _ u => absurd u (by decide), fun _ u => absurd rfl u, rfl⟩, ⟨fun u => absurd u (by decide +kernel), fun _ _ => ⟨_, rfl, rfl⟩, fun u => absurd (by simp) u, rfl⟩, by decide +kernel, fun u => absurd u (by decide +kernel), by decide +kernel, rfl⟩), by decide +kernel⟩

set_option maxRecDepth 4000 in
theorem witness_RayIssueResult_mwalk_events (h : Obligations.RayIssueResult) :
    ∃ t, exec (.mwalk ⟨false, 20, 8, 16, 0, 18, 0, none⟩) (unitScene (.mwalk ⟨false, 20, 8, 16, 0, 18, 0, none⟩) { threadWith [(18, 0x01000000), (19, 0x10)] with lpr := some ⟨0, 0x40000000, 0, true, true, false⟩ }) = .next t ∧ (slotOfTeam t 0 0).queue.map (fun c => c.c) = [[0x01000000, 0x10]] :=
  ⟨_, h.1 _ _ _ _ rfl _ _ _ (executes_one ⟨rfl, rfl, rfl⟩ rfl rfl rfl rfl ⟨_, _, _, ⟨fun u => absurd u (by decide +kernel), fun u => absurd u (by decide), fun _ _ => rfl, rfl⟩, ⟨fun u => absurd u (by decide +kernel), fun _ u => absurd u (by decide +kernel), fun _ _ => rfl, rfl⟩, ⟨fun u => absurd u (by decide +kernel), fun _ u => absurd u (by decide +kernel), fun _ _ => rfl, rfl⟩, by decide +kernel, fun _ _ => ⟨by decide +kernel, by decide +kernel⟩, by decide +kernel, rfl⟩), by decide +kernel⟩

set_option maxRecDepth 4000 in
theorem witness_RayIssueResult_fprune (h : Obligations.RayIssueResult) :
    ∃ t, exec (.fprune ⟨false, 20, 8, 16, 0, 18, 0, none⟩) (unitScene (.fprune ⟨false, 20, 8, 16, 0, 18, 0, none⟩) { threadWith [(16, 0x100), (18, 0x100)] with lpr := some ⟨0, 0x40000000, 0, true, true, false⟩ }) = .next t ∧ (getCore t 0).pruneq.map (fun c => (c.node, c.block)) = [(0x100, 0x100)] ∧ pending t = [([20, 21, 22, 23], none)] :=
  ⟨_, h.2 _ _ _ _ (executes_one ⟨rfl, rfl, rfl⟩ rfl rfl rfl rfl ⟨_, _, _, rfl, rfl, rfl, rfl, rfl, rfl, by decide +kernel, by decide +kernel, by decide +kernel, rfl⟩), by decide +kernel, by decide +kernel⟩

set_option maxRecDepth 4000 in
theorem witness_RasterResult_prim_tri (h : Obligations.RasterResult) :
    ∃ t, exec (.primTri ⟨false, 3, 1, 4, 0, 0, 0, none⟩) (unitScene (.primTri ⟨false, 3, 1, 4, 0, 0, 0, none⟩) { threadWith [(1, 1), (4, 0x30000)] with lpr := some ⟨0, 0x40000000, 0, true, true, false⟩ }) = .next t ∧ (kget [] t.binq 1).map (·.ident) = [1] ∧ pending t = [([3], none)] :=
  ⟨_, h.1.1 _ _ _ _ (executes_one ⟨rfl, rfl, rfl⟩ rfl rfl rfl rfl ⟨_, _, rfl, rfl, rfl, rfl, .inl ⟨(List.range 16).map (fun j => BitVec.ofNat 32 (rdMem (unitScene (.nop ⟨false, 0, 0, 0, 0, none⟩) (threadWith [])) (0x30000 + 4 * j) 4)), List.replicate 16 0, ok_of (by decide +kernel), rfl⟩⟩), by decide +kernel, by decide +kernel⟩

set_option maxRecDepth 4000 in
theorem witness_RasterResult_prim_tri_bad_identifier (h : Obligations.RasterResult) :
    ∃ t, exec (.primTri ⟨false, 3, 1, 4, 0, 0, 0, none⟩) (unitScene (.primTri ⟨false, 3, 1, 4, 0, 0, 0, none⟩) { threadWith [(1, 2), (4, 0x30000)] with lpr := some ⟨0, 0x40000000, 0, true, true, false⟩ }) = .next t ∧ pending t = [([3], some [1])] :=
  ⟨_, h.1.1 _ _ _ _ (executes_one ⟨rfl, rfl, rfl⟩ rfl rfl rfl rfl ⟨_, _, rfl, rfl, rfl, rfl, .inr ⟨1, .inl (ok_of (by decide +kernel)), rfl⟩⟩), by decide +kernel⟩

set_option maxRecDepth 4000 in
theorem witness_RasterResult_prim_end (h : Obligations.RasterResult) :
    ∃ t, exec (.primEnd ⟨false, 3, 0, 4, 1, 0, 0, none⟩) (unitScene (.primEnd ⟨false, 3, 0, 4, 1, 0, 0, none⟩) { threadWith [(4, 0x30000)] with lpr := some ⟨0, 0x40000000, 0, true, true, false⟩ }) = .next t ∧ rdMem t 0x30024 4 = 1 ∧ pending t = [([3], some [0])] :=
  ⟨_, h.1.2.1 _ _ _ _ (executes_one ⟨rfl, rfl, rfl⟩ rfl rfl rfl rfl ⟨_, target, rfl, rfl, ok_of (by decide +kernel), .inl ⟨by decide +kernel, rfl⟩⟩), by decide +kernel, by decide +kernel⟩

set_option maxRecDepth 4000 in
theorem witness_RasterResult_prim_end_waits (h : Obligations.RasterResult) :
    ∃ t, exec (.primEnd ⟨false, 3, 0, 4, 1, 0, 0, none⟩) ({ unitScene (.primEnd ⟨false, 3, 0, 4, 1, 0, 0, none⟩) { threadWith [(4, 0x30000)] with lpr := some ⟨0, 0x40000000, 0, true, true, false⟩ } with binq := [(1, [{ asid := 0, target := 0x30000, desc := [], record := [], ident := 1, thread := 0, tag := 7 }])] }) = .next t ∧ rdMem t 0x30024 4 = 0 ∧ pending t = [([3], none)] :=
  ⟨_, h.1.2.1 _ _ _ _ (executes_one ⟨rfl, rfl, rfl⟩ rfl rfl rfl rfl ⟨_, target, rfl, rfl, ok_of (by decide +kernel), .inr ⟨by decide +kernel, rfl⟩⟩), by decide +kernel, by decide +kernel⟩

set_option maxRecDepth 4000 in
theorem witness_RasterResult_visw (h : Obligations.RasterResult) :
    ∃ t, exec (.visw ⟨false, 0, 1, 4, 0, 6, 0, none⟩) (unitScene (.visw ⟨false, 0, 1, 4, 0, 6, 0, none⟩) { threadWith [(1, 1023), (4, 0x30000), (6, 0x3F000000), (7, 9)] with lpr := some ⟨0, 0x40000000, 0, true, true, false⟩ }) = .next t ∧ leAt (getTeam t 0).scratch 8184 8 = 0x000000093F000000 :=
  ⟨_, h.1.2.2 _ _ _ _ (executes_one ⟨rfl, rfl, rfl⟩ rfl rfl rfl rfl ⟨_, _, _, target, 0, rfl, rfl, rfl, rfl, rfl, rfl, by decide +kernel, ok_of (by decide +kernel), by decide +kernel, 0, ok_of (by decide +kernel), .inr (.inr ⟨rfl, by decide +kernel, by decide +kernel, some_of State.reset (by decide +kernel)⟩)⟩), by decide +kernel⟩

set_option maxRecDepth 4000 in
theorem witness_RasterResult_visw_late (h : Obligations.RasterResult) :
    ∃ t, exec (.visw ⟨false, 0, 1, 4, 0, 6, 0, none⟩) (poke (unitScene (.visw ⟨false, 0, 1, 4, 0, 6, 0, none⟩) { threadWith [(1, 0), (4, 0x30000), (6, 0x3F000000), (7, 9)] with lpr := some ⟨0, 0x40000000, 0, true, true, false⟩ }) 0x32000 (leBytes 4 0x80000000)) = .next t ∧ rdMem t 0x32000 4 = 0xA0000000 :=
  ⟨_, h.1.2.2 _ _ _ _ (executes_one ⟨rfl, rfl, rfl⟩ rfl rfl rfl rfl ⟨_, _, _, target, 0, rfl, rfl, rfl, rfl, rfl, rfl, by decide +kernel, ok_of (by decide +kernel), by decide +kernel, 0x80000000, ok_of (by decide +kernel), .inl ⟨by decide +kernel, ok_get State.reset (by decide +kernel)⟩⟩), by decide +kernel⟩

set_option maxRecDepth 4000 in
theorem witness_RasterResult_visw_no_room (h : Obligations.RasterResult) :
    ∃ t, exec (.visw ⟨false, 0, 1, 4, 0, 6, 0, none⟩) (modTeam (unitScene (.visw ⟨false, 0, 1, 4, 0, 6, 0, none⟩) { threadWith [(1, 0), (4, 0x30000), (6, 0x3F000000), (7, 9)] with lpr := some ⟨0, 0x40000000, 0, true, true, false⟩ }) 0 (fun x => { x with desc := { x.desc with scratch := 0x1FEF } })) = .next t ∧ rdMem t 0x32000 4 = 0x40000000 :=
  ⟨_, h.1.2.2 _ _ _ _ (executes_one ⟨rfl, rfl, rfl⟩ rfl rfl rfl rfl ⟨_, _, _, target, 0, rfl, rfl, rfl, rfl, rfl, rfl, by decide +kernel, ok_of (by decide +kernel), by decide +kernel, 0, ok_of (by decide +kernel), .inr (.inl ⟨by decide +kernel, by decide +kernel, ok_get State.reset (by decide +kernel)⟩)⟩), by decide +kernel⟩

set_option maxRecDepth 4000 in
theorem witness_RasterResult_visr (h : Obligations.RasterResult) :
    ∃ t, exec (.visr ⟨false, 20, 1, 4, 1, 0, 0, none⟩) (pokeLoc (unitScene (.visr ⟨false, 20, 1, 4, 1, 0, 0, none⟩) { threadWith [(1, 0), (4, 0x30000)] with lpr := some ⟨0, 0x40000000, 0, true, true, false⟩ }) (.scratch 0 0) (leBytes 8 0x000000093F000000)) = .next t ∧ pending t = [([20, 21, 22, 23], some [0x3F000000, 9, 0, 0])] :=
  ⟨_, h.2.1 _ _ _ _ (executes_one ⟨rfl, rfl, rfl⟩ rfl rfl rfl rfl ⟨_, _, target, 0, rfl, rfl, rfl, rfl, by decide +kernel, ok_of (by decide +kernel), by decide +kernel, 0, ok_of (by decide +kernel), .inl ⟨.inl (by decide +kernel), rfl⟩⟩), by decide +kernel⟩

set_option maxRecDepth 4000 in
theorem witness_RasterResult_visr_waits (h : Obligations.RasterResult) :
    ∃ t, exec (.visr ⟨false, 20, 1, 4, 0, 0, 0, none⟩) (unitScene (.visr ⟨false, 20, 1, 4, 0, 0, 0, none⟩) { threadWith [(1, 0), (4, 0x30000)] with lpr := some ⟨0, 0x40000000, 0, true, true, false⟩ }) = .next t ∧ pending t = [([20, 21, 22, 23], none)] ∧ t.rasterWaits.length = 1 :=
  ⟨_, h.2.1 _ _ _ _ (executes_one ⟨rfl, rfl, rfl⟩ rfl rfl rfl rfl ⟨_, _, target, 0, rfl, rfl, rfl, rfl, by decide +kernel, ok_of (by decide +kernel), by decide +kernel, 0, ok_of (by decide +kernel), .inr ⟨by decide +kernel, by decide +kernel, rfl⟩⟩), by decide +kernel, by decide +kernel⟩

set_option maxRecDepth 4000 in
theorem witness_RasterResult_attr (h : Obligations.RasterResult) :
    ∃ t, exec (.attr ⟨false, 20, 1, 4, 0, 6, 0, none⟩) (unitScene (.attr ⟨false, 20, 1, 4, 0, 6, 0, none⟩) { threadWith [(1, 0), (4, 0x30000), (6, 2)] with lpr := some ⟨0, 0x40000000, 0, true, true, false⟩ }) = .next t ∧ pending t = [([20, 21, 22, 23], some [0x7FC00000, 0x7FC00000, 0x7FC00000, 2])] :=
  ⟨_, h.2.2.1 _ _ _ _ (executes_one ⟨rfl, rfl, rfl⟩ rfl rfl rfl rfl ⟨_, _, _, target, 0, [0x7FC00000, 0x7FC00000, 0x7FC00000], rfl, rfl, rfl, rfl, rfl, rfl, by decide +kernel, ok_of (by decide +kernel), by decide +kernel, ok_of (by decide +kernel), rfl⟩), by decide +kernel⟩

set_option maxRecDepth 4000 in
theorem witness_RasterResult_entry (h : Obligations.RasterResult) (wait : Bool) :
    ∃ v r, visrResult (unitScene (.nop ⟨false, 0, 0, 0, 0, none⟩) (threadWith [])) 0 wait 0 target 0 1023 = (v, r) ∧ r.map (·.bits) = [0, 0, 0, 0] :=
  ⟨_, _, h.2.2.2 _ _ 0 0 0 1023 0 0 wait target (by decide +kernel) (ok_of (by decide +kernel))
    (ok_fst State.reset (by cases wait <;> decide +kernel)), rfl⟩

theorem witness_MergeKeepsTheFirst (h : Obligations.MergeKeepsTheFirst) :
    mergeKey 5 7 0x80000000 9 = (5, 7) ∧ mergeKey 5 0 6 9 = (6, 9) ∧ mergeKey 5 7 5 6 = (5, 6) ∧ mergeKey 5 7 6 6 = (5, 7) :=
  ⟨h.1 5 7 0x80000000 9 (.inr (.inl (by decide))), h.2.1 5 6 9 (by decide) (by decide) (by decide),
    (h.2.2.1 5 7 5 6 (by decide) (by decide) (by decide) (by decide)).trans (by decide),
    (h.2.2.1 5 7 6 6 (by decide) (by decide) (by decide) (by decide)).trans (by decide)⟩

/-- Team 0 of one thread on core 0, no bundle in progress: it stands at address 0 of its dense code, which is not mapped. -/
def idle (t : Thread) : State := setBundle (scene 0 1 (.nop ⟨false, 0, 0, 0, 0, none⟩) t) 0 0 none

theorem witness_PickResult_none (h : Obligations.PickResult) : ∃ t, exec (.pick 215 1) State.reset = .next t :=
  ⟨_, (h.1 State.reset 215 1 (by decide) (by decide) (by decide +kernel) (by decide +kernel)).1 (by decide +kernel)⟩

theorem witness_PickResult_some (h : Obligations.PickResult) : ∃ t, exec (.pick 0 0) (idle (threadWith [])) = .next t :=
  ⟨_, (h.1 (idle (threadWith [])) 0 0 (by decide) (by decide) (by decide +kernel) (by decide +kernel)).2
    (standingOf (idle (threadWith [])) 0) 0 [] rfl (by decide +kernel) (fun g => by
      have e : (getGroup (idle (threadWith [])) g).lowPicks = 0 := by
        by_cases h0 : g = 0
        · subst h0; rfl
        · unfold getGroup; rw [show kfind (idle (threadWith [])).groups g = none by simp [idle, scene, setBundle, setCore, modCore, setGroup, setTeam, kput, kfind, State.reset]; omega]; rfl
      show offerOf (idle (threadWith [])) 0 0 [0] g = none
      unfold offerOf
      cases liveOfGroup (idle (threadWith [])) g with
      | nil => rfl
      | cons k r => simp [e, show classOfCore 0 = .d from rfl])⟩

theorem witness_PickResult_key (h : Obligations.PickResult) :
    keyBetter (idle (threadWith [])) [standingOf (idle (threadWith [])) 0] (standingOf (idle (threadWith [])) 0) (standingOf (idle (threadWith [])) 0) = false :=
  ((h.2.1 (idle (threadWith [])) [standingOf (idle (threadWith [])) 0] (by decide +kernel)).2 _ rfl).2 _ (.head _)

theorem witness_ThreadEventResult_overdue (h : Obligations.ThreadEventResult) :
    ∃ t, exec (.overdue 0) (idle { threadWith [] with age := 64 }) = .next t ∧ (getThread t 0).overdue = some 0 :=
  ⟨_, h.1.1 _ 0 _ rfl (by decide) rfl rfl (by decide +kernel) (by decide +kernel), by decide +kernel⟩

theorem witness_ThreadEventResult_join (h : Obligations.ThreadEventResult) :
    ∃ t, exec (.joinWaitTimeout 0) (idle { threadWith [] with wait := .join 32 }) = .next t ∧ (getThread t 0).wait = .none :=
  ⟨_, h.1.2.1 _ 0 32 _ rfl rfl (by decide), by decide +kernel⟩

theorem witness_ThreadEventResult_arrival (h : Obligations.ThreadEventResult) :
    ∃ t, exec (.resultArrival 0 0) (idle { threadWith [] with
        wait := .entering, pend := [{ tag := 5, dests := [3], value := some [⟨7, false⟩], awaited := false, kind := .sfu 0 }] }) = .next t ∧
      reg t 3 = 7 ∧ (getThread t 0).wait = .none :=
  ⟨_, h.1.2.2 _ 0 0 _ _ rfl rfl rfl (fun _ => rfl) (by decide +kernel), by decide +kernel, by decide +kernel⟩

theorem witness_ThreadEventResult_move (h : Obligations.ThreadEventResult) :
    ∃ t, exec (.groupMove 0) (modGroup (idle (threadWith [(3, 7)])) 0 (fun x => { x with
        moving := some { core := 19, slot := 5, vbase := 0, entry := ⟨3, 16, 0x30, 0, 1⟩, pairs := [(3, 4)], auto := false } })) = .next t ∧
      (getGroup t 0).core = 19 ∧ (getThread t 0).pc = 0x30 ∧ reg t 4 = 7 ∧ pred t 7 = true :=
  ⟨_, h.2.1 _ 0 _ rfl (by decide +kernel) (by decide +kernel), by decide +kernel, by decide +kernel, by decide +kernel, by decide +kernel⟩

/-- Two threads of a group before two GSYNCs of the L-form, at addresses 0 and 12. -/
def parted : State :=
  let s := setTeam State.reset 0 { Team.initial with home := 19, desc := { desc 2 with limg := 0x50000, lsize := 24 }, start := .l, dims := (2, 1, 1), trapvec := 0x80000010#32 }
  let s := setGroup s 0 { Group.initial with core := 19 }
  let s := { s with threads := [(0, threadWith []), (1, { threadWith [] with pc := 12 })], nextTeam := 1, astab := 0x20000#64 }
  let s := poke s 0x10000 (leBytes 8 0x11001)
  let s := poke s 0x11000 (leBytes 8 0x1F)
  let s := poke s 0x20000 (leBytes 8 0x10001 ++ leBytes 8 0x100000 ++ leBytes 4 0x1000 ++ leBytes 4 0 ++ leBytes 4 1)
  poke s 0x50000 ((List.range 2).flatMap (fun _ => ([0x4C000000#32, 0x71000000#32, 0x71000000#32].flatMap (fun w => leBytes 4 w.toNat))))

theorem witness_ThreadEventResult_mismatch (h : Obligations.ThreadEventResult) :
    ∃ t, exec (.convergenceMismatch 0) parted = .next t ∧ (getThread t 0).intrap = true ∧ (getThread t 1).intrap = true :=
  ⟨_, h.2.2 parted 0 (by decide +kernel) (by decide +kernel) (by decide +kernel) (by decide +kernel) (by decide +kernel)
    ⟨0, by decide +kernel, 1, by decide +kernel, by decide +kernel⟩, by decide +kernel, by decide +kernel⟩

theorem witness_LaunchEventResult_doorbell_unbound (h : Obligations.LaunchEventResult) :
    ∃ t, exec (.doorbell 255 64 0x30000) { State.reset with booted := true } = .next t ∧ t.dberr = 1 :=
  ⟨_, (h.1.1 _ 255 64 0x30000 (by decide) rfl (by decide) rfl).1 (.inl (by decide)), rfl⟩

theorem witness_LaunchEventResult_doorbell_arms (h : Obligations.LaunchEventResult) :
    ∃ t, exec (.doorbell 0 64 0x30000) { poke (mappedAt (.nop ⟨false, 0, 0, 0, 0, none⟩) (threadWith [])) 0x30000 (Says.newPod 5 3 0 0) with
        booted := true, dbbind := [(0, 0x80000000)] } = .next t ∧ rdMem t 0x30017 1 = 2 ∧ t.queues.length = 1 :=
  ⟨_, (h.1.1 _ 0 64 0x30000 (by decide) rfl (by decide) rfl).2.1 0x30000 (by decide) (by decide) (by decide) (by decide +kernel) (by decide +kernel),
    by decide +kernel, by decide +kernel⟩

/-- The mapped scene after bring-up, doorbell 0 bound to ASID 0, a new pod at 0x30000 and a pod of JOIN 1 at 0x30080 whose SUCC is misaligned. -/
def belled : State :=
  { poke (poke (mappedAt (.nop ⟨false, 0, 0, 0, 0, none⟩) (threadWith [])) 0x30000 (Says.newPod 5 3 0 0)) 0x30080
      (leBytes 8 0x50000 ++ leBytes 8 0 ++ leBytes 4 1 ++ leBytes 4 0 ++ leBytes 8 1 ++ leBytes 4 1 ++ leBytes 2 1 ++ leBytes 2 0 ++ leBytes 4 1) with
    booted := true, dbbind := [(0, 0x80000000)] }

theorem witness_LaunchEventResult_doorbell_counts (h : Obligations.LaunchEventResult) :
    (∃ t, exec (.doorbell 0 32 0x30000) belled = .next t ∧ t.dberr = 1) ∧ (∃ t, exec (.doorbell 0 64 0x0010000000030000) belled = .next t ∧ t.dberr = 1) ∧
      (∃ t, exec (.doorbell 0 64 0x30020) belled = .next t ∧ t.dberr = 1) ∧ (∃ t, exec (.doorbell 0 64 0x80000000) belled = .next t ∧ t.dberr = 1) ∧
      ∃ t, exec (.doorbell 0 64 0x30000) (podSet belled 0x30000 0x17 1 1) = .next t ∧ t.dberr = 1 :=
  have r := fun (width : Nat) (x : DWord) => (h.1.1 belled 0 width x (by decide) rfl (by decide) rfl).1
  ⟨⟨_, r 32 0x30000 (.inr (.inl (by decide))), by decide +kernel⟩, ⟨_, r 64 0x0010000000030000 (.inr (.inr (.inl (by decide)))), by decide +kernel⟩,
    ⟨_, r 64 0x30020 (.inr (.inr (.inr (.inl (by decide))))), by decide +kernel⟩,
    ⟨_, r 64 0x80000000 (.inr (.inr (.inr (.inr (.inl ((h.1.1 (follow (follow belled launchAgent companionAgent) walkAgent companionAgent) 0 64 0x80000000 (by decide)
      (by decide +kernel) (by decide +kernel) (by decide +kernel)).2.2
      (.inl ⟨.notPresent, err_of (by decide +kernel)⟩))))))), by decide +kernel⟩,
    ⟨_, (h.1.1 (podSet belled 0x30000 0x17 1 1) 0 64 0x30000 (by decide) (by decide +kernel) (by decide +kernel) (by decide +kernel)).1
      (.inr (.inr (.inr (.inr (.inr ⟨0x30000, by decide +kernel, by decide +kernel⟩))))), by decide +kernel⟩⟩

theorem witness_LaunchEventResult_doorbell_waits (h : Obligations.LaunchEventResult) :
    ∃ t, exec (.doorbell 0 64 0x30000) { belled with rlmode := 0x80000000, logRing := ⟨0, 256, 0, 0⟩ } = .next t ∧ t.unitWaits.length = 1 ∧
      rdMem t 0x30017 1 = 0 :=
  ⟨_, (h.1.1 { belled with rlmode := 0x80000000, logRing := ⟨0, 256, 0, 0⟩ } 0 64 0x30000 (by decide) rfl (by decide) rfl).2.1 0x30000
    (by decide +kernel) (by decide) (by decide) (by decide +kernel) (by decide +kernel), by decide +kernel, by decide +kernel⟩

theorem witness_LaunchEventResult_retain (h : Obligations.LaunchEventResult) :
    ∃ t, exec (.doorbell 3 32 9) { State.reset with booted := true, pwrCur := 2 } = .next t ∧ t.heldDoorbells = [(3 + 256 * 32, 9)] :=
  ⟨_, h.1.2.1 _ 3 32 9 (by decide) rfl rfl, rfl⟩

theorem witness_LaunchEventResult_companion (h : Obligations.LaunchEventResult) :
    ∃ t, exec (.companionStore (deviceTop - 1) [7]) { State.reset with booted := true } = .next t ∧ rdMem t (deviceTop - 1) 1 = 7 :=
  ⟨_, h.1.2.2 _ (deviceTop - 1) [7] rfl (by decide) (by decide), by decide +kernel⟩

/-- After reset, one grid whose pod lies at 0x30000, with none of its teams left to place, and its pod's bytes. -/
def gridScene (g : Grid) : State :=
  { poke State.reset 0x30000 (leBytes 8 0x50000 ++ leBytes 8 0 ++ leBytes 4 0 ++ [0#8, 0#8, 0#8, 3#8]) with grids := [g] }

/-- The grid of one team, all placed. -/
def oneGrid : Grid :=
  { pod := 0x30000, va := 0x30000, asid := 0, cls := 0, prio := 0, frame := 0, dims := (1, 1, 1), desc := desc 1, team := (1, 1, 1), next := 1,
    stopped := none, killed := none, killDone := false }

theorem witness_LaunchEventResult_podComplete (h : Obligations.LaunchEventResult) :
    ∃ t, exec (.podComplete 0x30000) (gridScene oneGrid) = .next t ∧ t.grids = [] ∧ rdMem t 0x30017 1 = 5 :=
  ⟨_, h.2.1 (gridScene oneGrid) 0x30000 oneGrid (by decide +kernel) (by decide +kernel) (by decide +kernel), by decide +kernel, by decide +kernel⟩

theorem witness_LaunchEventResult_pending (h : Obligations.LaunchEventResult) :
    ∃ t, exec (.pendingEntryRelease 0 0) { setTeam State.reset 0 { Team.initial with pendq := [{ pod := 1, since := 0, stamp := 0, popped := true }] } with
        clock := 48 } = .next t ∧ (getTeam t 0).pendq = [] :=
  ⟨_, h.2.2.1 _ 0 0 _ _ rfl rfl rfl (by decide), by decide +kernel⟩

/-- A READY pod of a kind at 0x30000, alone at the head of a queue: placement pods in queue 0, the engines' in queue 1. -/
def queued (kind : Nat) : State :=
  let s := enqueueTail (poke State.reset 0x30000 (leBytes 8 (if kind = 3 then 5 else 0x50000) ++ leBytes 8 0 ++ leBytes 4 0 ++
    [BitVec.ofNat 8 kind, 0#8, 0#8, 2#8] ++ leBytes 8 0x0000000100000001 ++ leBytes 4 1)) 0x30000
  { s with flight := [(0x30000, { va := 0x30000, asid := 0, code := if kind = 3 then 5 else 0x50000, frame := 9, dims := (1, 1, 1), team := (0, 0, 0) })] }

theorem witness_LaunchEventResult_signal (h : Obligations.LaunchEventResult) :
    ∃ t, exec (.readyQueuePop true) (queued 3) = .next t ∧ t.signals = [(5, 9)] ∧ rdMem t 0x30017 1 = 5 := by
  obtain ⟨x, hx⟩ : ∃ x, choosePop (queued 3) 1 (fun p => !(engineCores (queued 3)).isEmpty || decide (podKind (queued 3) p = 3)) = some x := Option.isSome_iff_exists.1 (by decide +kernel)
  have e : x = ((choosePop (queued 3) 1 (fun p => !(engineCores (queued 3)).isEmpty || decide (podKind (queued 3) p = 3))).getD (0, State.reset.wrrPlace)) := by rw [hx]; rfl
  subst e
  exact ⟨_, h.2.2.2.1 (queued 3) _ _ rfl hx (by decide) (by decide +kernel) (by decide +kernel), by decide +kernel, by decide +kernel⟩

theorem witness_LaunchEventResult_grid (h : Obligations.LaunchEventResult) : ∃ t, exec (.readyQueuePop false) (queued 0) = .next t := by
  obtain ⟨x, hx⟩ : ∃ x, choosePop (queued 0) 0 (fun pa => !activeFull (queued 0) || decide (podKind (queued 0) pa = 1)) = some x :=
    Option.isSome_iff_exists.1 (by decide +kernel)
  have e : x = ((choosePop (queued 0) 0 (fun pa => !activeFull (queued 0) || decide (podKind (queued 0) pa = 1))).getD (0, State.reset.wrrPlace)) := by
    rw [hx]; rfl
  subst e
  exact ⟨_, h.2.2.2.2 (queued 0) _ _ rfl hx (by decide) (by decide +kernel) (by decide +kernel)⟩

theorem witness_PlacementEventResult_places (h : Obligations.PlacementEventResult) :
    ∃ t, exec (.teamPlacement 0x30000) { gridScene { oneGrid with next := 0 } with booted := true } = .next t :=
  ⟨_, h.1 _ 0x30000 { oneGrid with next := 0 } _ (by decide +kernel) (by decide) (by decide +kernel) (by decide +kernel) (by decide +kernel)
    (some_of [] (by decide +kernel))⟩

theorem witness_PlacementEventResult_continues (h : Obligations.PlacementEventResult) :
    ∃ t, exec (.contResume 0) { setTeam (gridScene oneGrid) 0 { Team.initial with grid := 0x30000 } with waits := [.cont 0x40000 0] } = .next t ∧ t.waits = [] :=
  ⟨_, h.2.1 _ 0 0x40000 0 _ rfl (by decide) (fun _ e => (by cases e)) (some_of State.reset (by decide +kernel)), by decide +kernel⟩

/-- A saved team of one thread, whose image lies in a poisoned line. -/
def savedScene : State :=
  { gridScene oneGrid with
    booted := true, poisonLines := [0], waits := [.team 0],
    saved := [{ id := 0, off := 0, size := 128, team := { Team.initial with grid := 0x30000, desc := desc 1 }, cores := [0], released := true,
                held := false, halts := [], entering := [], reached := [], inside := [], pend := [], flush := [] }] }

theorem witness_PlacementEventResult_restores (h : Obligations.PlacementEventResult) :
    ∃ t, exec (.teamRestore 0) savedScene = .next t ∧ t.grids.map (·.killed) = [some (2, 0)] :=
  ⟨_, h.2.2.1 savedScene 0 0 _ rfl (by decide) (fun _ e => (by cases e)) (some_of State.reset (by decide +kernel)), by decide +kernel⟩

theorem witness_PlacementEventResult_reclaims (h : Obligations.PlacementEventResult) :
    ∃ t, exec (.reclamationComplete 0) (modTeam (idle (threadWith [])) 0 (fun x => { x with hold := .retiring })) = .next t ∧ t.teams = [] ∧ t.threads = [] :=
  ⟨_, h.2.2.2.1 _ 0 _ rfl rfl (by decide +kernel), by decide +kernel, by decide +kernel⟩

/-- An entry of a reduction of the grid: an addition of 7 at 0x40000 (R278). -/
def entry : RedEntry :=
  { grid := 0x30000, gridVa := 0x30000, asid := 0, pa := 0x40000, opc := 0, lo := 7, hi := 0, fpctl := 0, core := 0, picker := 0, linear := 0,
    group := 0, thread := 0, order := 0, flush := 0 }

/-- The grid with the entry in its buffer. -/
def buffering : State := modCore (gridScene oneGrid) 0 (fun c => { c with redbuf := [(0, [entry])] })

/-- A draw changes neither memory nor what owns a byte of it, and the end of entries no memory. -/
theorem fresh_mem {s : State} {f a n : Nat} : rdMem { s with fresh := f } a n = rdMem s a n := rfl
theorem fresh_owned {s : State} {f a n : Nat} : touchesOwned { s with fresh := f } a n = touchesOwned s a n := rfl

theorem dropped_mem {s : State} {m : RedEntry → Bool} {a n : Nat} : rdMem (dropEntries s m) a n = rdMem s a n := rfl

theorem witness_PlacementEventResult_drains (h : Obligations.PlacementEventResult) :
    ∃ t, exec (.reductionDrain 0x30000) buffering = .next t ∧ rdMem t 0x40000 4 = 7 := by
  obtain ⟨c, f, h1, h2, e⟩ := h.2.2.2.2.2.1 buffering 0x30000 oneGrid 0 (by decide +kernel) (by decide +kernel) (by decide +kernel) rfl (by decide +kernel)
  have l : c = 1 := Nat.le_antisymm h2 (h1 (by decide +kernel))
  subst l
  rw [show (sortRed ((gridEntries buffering 0x30000).filter (fun e => decide (e.flush = 0)))).take 1 = [entry] by decide +kernel] at e
  have r : Says.atomic 0 0 (rdMem { buffering with fresh := f } 0x40000 4) [Says.reg 7] =
      some (rdMem (drainEntry { buffering with fresh := f } entry) 0x40000 4) := (h.2.2.2.2.2.2.2 { buffering with fresh := f } entry (by decide) (by decide) (fresh_owned.trans (by decide +kernel))).1
  have z : rdMem { buffering with fresh := f } 0x40000 4 = 0 := fresh_mem.trans (by decide +kernel)
  simp only [List.foldl_cons, List.foldl_nil] at e
  refine ⟨_, e, dropped_mem.trans ?_⟩
  have q : Says.atomic 0 0 0 [Says.reg 7] = some 7 := by decide +kernel
  rw [z, q] at r
  exact (Option.some.inj r).symm

theorem witness_PlacementEventResult_order (h : Obligations.PlacementEventResult) :
    sortRed [{ entry with order := 1 }, { entry with core := 1 }, entry] ≠ [] ∧
      ¬List.Lex (· < ·) (Says.drainKey { entry with order := 1 }) (Says.drainKey entry) := by
  refine ⟨fun e => absurd (h.2.2.2.2.2.2.1 [{ entry with order := 1 }, { entry with core := 1 }, entry]).1.length_eq (by rw [e]; decide), ?_⟩
  have p := (h.2.2.2.2.2.2.1 [{ entry with order := 1 }, entry]).2
  rw [show sortRed [{ entry with order := 1 }, entry] = [entry, { entry with order := 1 }] by decide] at p
  exact (List.pairwise_cons.1 p).1 _ (.head _)

theorem witness_PlacementEventResult_combines (h : Obligations.PlacementEventResult) :
    some 10 = some (rdMem (drainEntry (poke State.reset 0x40000 [3#8]) entry) 0x40000 4) ∧
      kget 0 (drainEntry (poke State.reset 0x3FFFF [5#8, 3#8]) entry).mem 0x3FFFF = 5 :=
  ⟨(show some 10 = Says.atomic 0 0 (rdMem (poke State.reset 0x40000 [3#8]) 0x40000 4) [Says.reg 7] by decide +kernel).trans
      (h.2.2.2.2.2.2.2 (poke State.reset 0x40000 [3#8]) entry (by decide) (by decide) (by decide +kernel)).1,
    ((h.2.2.2.2.2.2.2 (poke State.reset 0x3FFFF [5#8, 3#8]) entry (by decide) (by decide) (by decide +kernel)).2 0x3FFFF (.inl (by decide))).trans
      (by decide +kernel)⟩

/-- After bring-up, nothing else. -/
def running : State := { State.reset with booted := true }

theorem witness_RegisterEventResult_tlbinv (h : Obligations.RegisterEventResult) :
    ∃ t, exec (.tlbinvPage 0x10001 0x20000) running = .next t ∧ t.tlbinv = some (0, 1, 0x20000) :=
  ⟨_, (h.1.1 running 0x10001 0x20000 rfl rfl).1, rfl⟩

theorem witness_RegisterEventResult_tlbinvDone (h : Obligations.RegisterEventResult) :
    ∃ t, exec .tlbinvDone { idle { threadWith [] with lpr := some ⟨0, 0x40000000, 0, true, true, false⟩ } with tlbinv := some (2, 0, 0) } = .next t ∧
      (getThread t 0).lpr = none := ⟨_, h.1.2.1 _ 2 0 0 rfl, by decide +kernel⟩

theorem witness_RegisterEventResult_fields (h : Obligations.RegisterEventResult) :
    (∃ t, exec (.marcfgWrite 6) running = .next t ∧ t.marcfgReq = 6) ∧ (∃ t, exec (.marcfgWrite 7) running = .next t ∧ t.marcfgReq = 0) ∧
      ∃ t, exec (.accctlWrite 0xFFFFFFFF) running = .next t ∧ t.accctl = 0x8000FFFF#32 :=
  have r := h.1.2.2.2.1 running
  ⟨⟨_, (r 6 rfl).1, rfl⟩, ⟨_, (r 7 rfl).1, rfl⟩, ⟨_, (r 0xFFFFFFFF rfl).2.1, rfl⟩⟩

theorem witness_RegisterEventResult_l1cfg (h : Obligations.RegisterEventResult) :
    ∃ t, exec (.l1cfgWrite 214 2) { running with cores := [(214, { Core.initial 214 with l1 := List.range 1500 })] } = .next t ∧
      (getCore t 214).l1cfg = 2 ∧ (getCore t 214).l1.length ≤ 1024 := by
  obtain ⟨t, e, -, -, c, -, -, n, -⟩ :=
    (h.1.2.2.2.1 { running with cores := [(214, { Core.initial 214 with l1 := List.range 1500 })] } 2 rfl).2.2 214 (by decide) (by decide) (by decide)
  exact ⟨t, e, by rw [c]; rfl, by
    have k : 128 * (getCore t 214).l1.length + 65536 * 2 ≤ 256 * 1024 := n
    omega⟩

theorem witness_RegisterEventResult_translations (h : Obligations.RegisterEventResult) :
    tlbHit (getCore (dropTranslations running none none) 0) 0 0 .r = none := (h.1.2.2.1 running 0 0 0 .r).1

theorem witness_RegisterEventResult_carve (h : Obligations.RegisterEventResult) :
    ∃ t, exec .carveChange { running with marcfgReq := 1, marcfgActive := 2, carve := [(192 * 2 ^ 20 - 1, 5), (192 * 2 ^ 20, 6)] } = .next t ∧
      t.carve = [(192 * 2 ^ 20 - 1, 5)] :=
  ⟨_, h.1.2.2.2.2.1 _ (by decide) rfl (by decide +kernel), by decide +kernel⟩

theorem witness_RegisterEventResult_homes (h : Obligations.RegisterEventResult) : sliceOf 27 / 2 = 0 ∧ channelOf 4095 / 8 = 0 :=
  have r := h.1.2.2.2.2.2.1
  ⟨(r 27).2.1, (r 4095).2.2.2.2.1⟩

theorem witness_RegisterEventResult_count (h : Obligations.RegisterEventResult) :
    ∃ t, exec (.accessCounterRecord 1 (2 ^ 31 - 1)) { running with accctl := 0x80000100#32, accCounts := [(2 ^ 32 - 1, 256)] } = .next t ∧
      kget 0 t.accCounts (2 ^ 32 - 1) = 0 :=
  ⟨_, h.1.2.2.2.2.2.2 _ 1 (2 ^ 31 - 1) (by decide) (by decide) (by decide) (by decide +kernel), by decide +kernel⟩

theorem witness_RegisterEventResult_write (h : Obligations.RegisterEventResult) :
    (∃ t, exec (.registerWrite (0x1000 + 4 * 255) 32 0xFFFFFFFF) running = .next t ∧ t.dbbind = [(255, 0x801FFFFF#32)]) ∧
      (∃ t, exec (.registerWrite 0x000000 64 5) running = .next t ∧ t.lqweight = 0x01020408#32) ∧
      ∃ t, exec (.registerWrite 0x3FFFFC 32 5) State.reset = .next t ∧ t = State.reset :=
  ⟨⟨_, (h.2.1 running 0xFFFFFFFF rfl).2.2.2.2.2.2.1 255 (by decide), rfl⟩, ⟨_, (h.2.1 running 5 rfl).2.2.2.2.2.2.2.2.1, rfl⟩,
    ⟨_, h.2.2 State.reset 0x3FFFFC 32 5 rfl (by decide), rfl⟩⟩

/-- A command of the engine of core 0 that copies the first tensor of the scene to the second (R285). -/
def copy (sub : Nat) (started : Bool) : EngCmd :=
  { id := 7, sub := sub, m := 0, fpctl := 0, src := ksetList 0 [] 0 (tensor 0x34000), dst := ksetList 0 [] 0 (tensor 0x35000), origin := [],
    list := (true, 0), idx := [], team := some 0, pod := none, asid := 0, bar := none, srcBack := none, dstBack := none, dstSlot := none,
    codebook := [], started := started, landed := 0, counted := 0, stage := [], faulted := false, hit := false }

/-- The scene with that command in the queue, and 5 as the last element of the first tensor. -/
def copying (sub : Nat) (started : Bool) : State :=
  modCore (poke (unitScene (.nop ⟨false, 0, 0, 0, 0, none⟩) (threadWith [])) 0x3400C (leBytes 4 5)) 0 (fun c => { c with engq := [copy sub started] })

theorem witness_EngineEventResult_start (h : Obligations.EngineEventResult) :
    ∃ t, exec (.engineCommandStart 0) (copying 2 false) = .next t ∧ (getCore t 0).engq.map (·.started) = [true] :=
  ⟨_, h.2.1 (copying 2 false) 0 (copy 2 false) rfl (by decide +kernel) (by decide), by decide +kernel⟩

/-- The copy waits for a PUB, issued before it, of the slot its destination names. -/
def copyWaits : State :=
  { modCore (copying 2 false) 0 (fun c => { c with engq := [{ copy 2 false with dstSlot := some 3 }] }) with
    pubs := [{ id := 6, core := 0, slot := 3, asid := 0, team := some 0, thread := none, pod := none }] }

theorem witness_EngineEventResult_waits (h : Obligations.EngineEventResult) :
    exec (.engineCommandStart 0) copyWaits = .next copyWaits := h.1 copyWaits 0 { copy 2 false with dstSlot := some 3 } rfl (by decide +kernel)

theorem witness_EngineEventResult_quantiser (h : Obligations.EngineEventResult) :
    ∃ t, exec (.engineCommandStart 0) (copying 5 false) = .next t ∧ (getCore t 0).engq.map (·.started) = [true] :=
  ⟨_, h.2.2.1 (copying 5 false) 0 (copy 5 false) rfl (by decide +kernel) rfl, by decide +kernel⟩

theorem witness_EngineEventResult_land (h : Obligations.EngineEventResult) :
    ∃ t, exec (.engineBytesLand 0 7 4) (copying 2 true) = .next t ∧ rdMem t 0x3500C 4 = 5 :=
  ⟨_, h.2.2.2.1 (copying 2 true) 0 7 4 (copy 2 true) rfl rfl (by decide +kernel), by decide +kernel⟩

theorem witness_EngineEventResult_end (h : Obligations.EngineEventResult) :
    ∃ t, exec (.engineCommandEnd 0 7) (copying 2 true) = .next t ∧ rdMem t 0x3500C 4 = 5 ∧ (getCore t 0).engq = [] :=
  ⟨_, h.2.2.2.2.1 (copying 2 true) 0 7 (copy 2 true) rfl rfl rfl (by decide +kernel), by decide +kernel, by decide +kernel⟩

/-- A publish slot, and a PUB of it that waits for its exchange. -/
def publishing : State :=
  let s := modThread (idle (threadWith [])) 0 (fun t => { t with pend := [{ tag := 5, dests := [3], value := none, awaited := false, kind := .plain }] })
  { poke s 0x38000 (leBytes 8 0x100000 ++ leBytes 4 0x10000 ++ leBytes 2 0 ++ [1#8, 0#8] ++ leBytes 8 0x200000 ++ leBytes 8 0x300000 ++
      leBytes 4 0xFFFFFFFF) with
    pubtab := 0x38000#64, pubs := [{ id := 9, core := 0, slot := 0, asid := 0, team := some 0, thread := some (0, 5), pod := none }] }

theorem witness_EngineEventResult_publish (h : Obligations.EngineEventResult) :
    ∃ t, exec (.pubExchange 0 9) publishing = .next t := by
  have e := h.2.2.2.2.2 publishing 0 { id := 9, core := 0, slot := 0, asid := 0, team := some 0, thread := some (0, 5), pod := none }
    { addr := 0x38000, va := 0x100000, size := 0x10000, cur := 0, w := false, phys0 := 0x200000, phys1 := 0x300000, gen := 0xFFFFFFFF } 0 5
    rfl (by decide +kernel) rfl rfl (by decide +kernel)
  exact ⟨_, e.1⟩

-- matrix arrays

/-- A matrix command of team 0's thread 0, whose result is pending under tag 5. -/
def mxCommand (sub m : Nat) (a : Nat) : MxCmd :=
  { id := 7, team := 0, thread := 0, tag := 5, sub := sub, m := m, e := 0, d := 0, a := BitVec.ofNat 32 a, b := 0, c := 0, fpctl := 0, codebook := [] }

/-- The thread of the command. -/
def mxThread : Thread := { threadWith [] with pend := [{ tag := 5, dests := [3], value := none, awaited := false, kind := .plain }] }

/-- A configuration that MXCFG takes: W and A both 2. -/
def mxWord : Nat := 0x2200

/-- An idle team on core 19, whose matrix queue holds the command. -/
def mxScene (c : MxCmd) (owner : Option Nat) : State :=
  modCore (modGroup (idle mxThread) 0 (fun g => { g with core := 0 })) 0 (fun q => { q with mxq := [c], mxOwner := owner })

/-- That scene with a configuration, and the first scratch word marked as in error where n is 1. -/
def planned (cfg : Word) (n : Nat) : State :=
  modTeam (modCore (mxScene (mxCommand 0 0 0) (some 0)) 0 (fun q => { q with mxCfg := cfg })) 0
    (fun t => { t with badWords := if n = 1 then [0] else [], desc := { t.desc with accum := 16384 } })

/-- Scratch none of whose words is in error can be read. -/
theorem read_scratch {s : State} {tm o n : Nat} (h : (getTeam s tm).badWords = []) :
    readLoc s (.scratch tm o) n = .ok (leAt (getTeam s tm).scratch o n) := by simp [readLoc, h]

theorem witness_MatrixEventResult_execute (h : Obligations.MatrixEventResult) :
    ∃ t, exec (.matrixCommandExecute 0 0) (mxScene (mxCommand 0 0 mxWord) none) = .next t ∧ (getCore t 0).mxq = [] ∧ pending t = [([3], some [0])] ∧
      (getCore t 0).mxOwner = some 0 :=
  ⟨_, h.1 _ 0 0 (mxCommand 0 0 mxWord) rfl (by decide) (by decide +kernel), by decide +kernel, by decide +kernel, by decide +kernel⟩

theorem witness_MatrixEventResult_configure (h : Obligations.MatrixEventResult) :
    pending (mxEffect (mxScene (mxCommand 0 0 mxWord) none) 0 (mxCommand 0 0 mxWord)) = [([3], some [0])] ∧
    pending (mxEffect (mxScene (mxCommand 0 0 mxWord) (some 1)) 0 (mxCommand 0 0 mxWord)) = [([3], some [1])] ∧
    pending (mxEffect (mxScene (mxCommand 0 1 0) none) 0 (mxCommand 0 1 0)) = [([3], some [3])] ∧
    pending (mxEffect (mxScene (mxCommand 0 2 0) (some 1)) 0 (mxCommand 0 2 0)) = [([3], some [2])] ∧
    (getCore (mxEffect (mxScene (mxCommand 0 2 0) (some 0)) 0 (mxCommand 0 2 0)) 0).mxOwner = none := by
  refine ⟨?_, ?_, ?_, ?_, ?_⟩
  · rw [(h.2.2.1 (mxScene (mxCommand 0 0 mxWord) none) 0 (mxCommand 0 0 mxWord) rfl).1 rfl (by decide) rfl]; decide +kernel
  · rw [(h.2.2.1 (mxScene (mxCommand 0 0 mxWord) (some 1)) 0 (mxCommand 0 0 mxWord) rfl).2.1 rfl (by decide) ⟨1, rfl, by decide⟩]; decide +kernel
  · rw [(h.2.2.1 (mxScene (mxCommand 0 1 0) none) 0 (mxCommand 0 1 0) rfl).2.2.1 (by decide) (by decide)]; decide +kernel
  · rw [(h.2.2.1 (mxScene (mxCommand 0 2 0) (some 1)) 0 (mxCommand 0 2 0) rfl).2.2.2.1 (by decide) (fun e => by cases e) (by decide +kernel)]; decide +kernel
  · rw [(h.2.2.1 (mxScene (mxCommand 0 2 0) (some 0)) 0 (mxCommand 0 2 0) rfl).2.2.2.2.2.1 rfl (by decide +kernel)]; decide +kernel

theorem witness_MatrixEventResult_set (h : Obligations.MatrixEventResult) :
    (getCore (mxEffect (mxScene (mxCommand 0 1 mxWord) (some 0)) 0 (mxCommand 0 1 mxWord)) 0).mxCfg = 0x2200#32 ∧
      (∃ table, (getCore (mxEffect (mxScene (mxCommand 0 3 0) (some 0)) 0 (mxCommand 0 3 0)) 0).codebook = table ∧ codeWord table 511 = 0) ∧
      (getCore (mxEffect (mxScene (mxCommand 0 3 0xFFFFFFFF) (some 0)) 0 (mxCommand 0 3 0xFFFFFFFF)) 0).codebook = [] := by
  have q := (h.2.2.1 (mxScene (mxCommand 0 3 0xFFFFFFFF) (some 0)) 0 (mxCommand 0 3 0xFFFFFFFF) rfl).2.2.2.2.2.2 rfl (by decide +kernel)
  refine ⟨?_, ?_, ?_⟩
  · rw [(h.2.2.1 (mxScene (mxCommand 0 1 mxWord) (some 0)) 0 (mxCommand 0 1 mxWord) rfl).2.2.2.2.1 (by decide) (by decide) (by decide +kernel)]; decide +kernel
  · have r := (h.2.2.1 (mxScene (mxCommand 0 3 0) (some 0)) 0 (mxCommand 0 3 0) rfl).2.2.2.2.2.2 rfl (by decide +kernel)
    obtain ⟨table, e, f⟩ := r.2 _ (by decide) (fun j _ => read_scratch (by decide +kernel))
    exact ⟨table, by rw [e]; rfl, (f 511 (by decide)).trans (by decide +kernel)⟩
  · rw [(q.1 rfl).1]; decide +kernel

theorem witness_MatrixEventResult_planes (h : Obligations.MatrixEventResult) :
    kget Xr.zero (getCore (mxEffect (mxScene (mxCommand 1 0 0) (some 0)) 0 (mxCommand 1 0 0)) 0).planes 4095 = Xr.zero ∧
      kget Xr.zero (getCore (mxEffect (planned 0x2200 0) 0 (mxCommand 1 0 0)) 0).planes (4096 + 3 * 1024 + 31 * 32 + 31) = elemValue 2 0 0 ∧
      kget Xr.zero (getCore (mxEffect (planned 0x2200 1) 0 (mxCommand 1 0 0)) 0).planes 4096 = .nan :=
  ⟨((h.2.2.2.1 (mxScene (mxCommand 1 0 0) (some 0)) 0 (mxCommand 1 0 0) rfl).1 4095 (by decide)).trans (by decide +kernel),
    ((h.2.2.2.1 (planned 0x2200 0) 0 (mxCommand 1 0 0) rfl).2 31 127 (by decide) (by decide)).1 (by decide) 0 (ok_of (by decide +kernel)),
    ((h.2.2.2.1 (planned 0x2200 1) 0 (mxCommand 1 0 0) rfl).2 0 0 (by decide) (by decide)).2.1 (by decide) .eccu (err_of (by decide +kernel))⟩

theorem witness_MatrixEventResult_codebook_plane (h : Obligations.MatrixEventResult) :
    kget Xr.zero (getCore (mxEffect (planned 0x3A00 0) 0 (mxCommand 1 0 0)) 0).planes 4096 = cb2Decode [] 0 (readFmt .bf16 false 0) 0 :=
  ((h.2.2.2.1 (planned 0x3A00 0) 0 (mxCommand 1 0 0) rfl).2 0 0 (by decide) (by decide)).2.2 (by decide) 0 0 (ok_of (by decide +kernel))
    (ok_of (by decide +kernel))

theorem witness_MatrixEventResult_exchange (h : Obligations.MatrixEventResult) :
    let s := modCore (planned 0x2200 0) 0 (fun q => { q with planes := [(8191, .inf true)] })
    kget Xr.zero (getCore (mxEffect s 0 (mxCommand 2 0 0)) 0).planes 4095 = .inf true :=
  ((h.2.2.2.2.1 _ 0 (mxCommand 2 0 0) 4095 rfl (by decide)).1).trans (by decide +kernel)

theorem witness_MatrixEventResult_step (h : Obligations.MatrixEventResult) :
    (innerStep false (List.replicate 32 (.fin false 2 1, .fin true 3 1)) 7).1 = 0xFFFF47 :=
  (h.2.2.2.2.2.1 false (List.replicate 32 (.fin false 2 1, .fin true 3 1)) 7 (by decide) (.inr (by decide +kernel))).trans (by decide +kernel)

theorem witness_MatrixEventResult_promotion (h : Obligations.MatrixEventResult) :
    kget 0 (promoteTile false 0 1 ({ Team.initial with acc := [(1024, 0x7FFFFFFF)], inner := [(1024, 5)], steps := [(1, 16)] }, 0)).1.acc 1024 = 0x7FFFFFFF :=
  (((h.2.2.2.2.2.2.1 false 0 1 ({ Team.initial with acc := [(1024, 0x7FFFFFFF)], inner := [(1024, 5)], steps := [(1, 16)] }, 0)).2.1
    (fun e => absurd e.1 (by decide +kernel))).2 0 (by decide)).2.trans (by decide +kernel)

theorem witness_MatrixEventResult_mxst (h : Obligations.MatrixEventResult) :
    kget 0 (getTeam (mxEffect (planned 0x2200 0) 0 { mxCommand 3 0 0 with c := 32 }) 0).steps 3 = 1 ∧
      kget 0 (getTeam (mxEffect (modTeam (planned 0x2200 0) 0 (fun t => { t with steps := [(3, 15)] })) 0 { mxCommand 3 0 0 with c := 1 }) 0).steps 3 = 0 :=
  ⟨((h.2.2.2.2.2.2.2.1 (planned 0x2200 0) 0 { mxCommand 3 0 0 with c := 32 } 3 rfl (by decide) (by decide) (by decide)).1 (by decide +kernel)).1.trans
      (by decide +kernel),
    ((h.2.2.2.2.2.2.2.1 (modTeam (planned 0x2200 0) 0 (fun t => { t with steps := [(3, 15)] })) 0 { mxCommand 3 0 0 with c := 1 } 3 rfl (by decide)
      (by decide) (by decide)).2.1 (by decide +kernel)).1⟩

theorem witness_MatrixEventResult_overflow (h : Obligations.MatrixEventResult) :
    let s := modTeam (planned 0x2200 0) 0 (fun t => { t with ovf := 8, inner := [(0, 0x7FFFFE)] })
    (getTeam (mxEffect s 0 { mxCommand 3 0 0 with c := 1 }) 0).ovf.getLsbD 3 = true :=
  (h.2.2.2.2.2.2.2.1 (modTeam (planned 0x2200 0) 0 (fun t => { t with ovf := 8, inner := [(0, 0x7FFFFE)] })) 0 { mxCommand 3 0 0 with c := 1 } 3
    rfl (by decide) (by decide) (by decide)).2.2.1 (by decide) (by decide +kernel)

theorem witness_MatrixEventResult_mxdr (h : Obligations.MatrixEventResult) :
    kget 0 (getTeam (mxEffect (planned 0x2200 0) 0 { mxCommand 4 0 0 with b := 128, c := 1 }) 0).scratch (31 * 128 + 31 * 4 + 3) =
      (Says.drained 0 0 .rn (kget 0 (getTeam (mxEffect (planned 0x2200 0) 0 { mxCommand 4 0 0 with b := 128, c := 1 }) 0).acc 1023)).getD 3 0 :=
  (h.2.2.2.2.2.2.2.2.1 (planned 0x2200 0) 0 { mxCommand 4 0 0 with b := 128, c := 1 } 0 31 31 3 rfl (fun n => rfl) (by decide) (by decide) (by decide)
    (by decide) (by decide) (by decide) (by decide)).2

theorem witness_MatrixEventResult_clears (h : Obligations.MatrixEventResult) :
    kget 0 (getTeam (mxEffect (modTeam (planned 0x2200 0) 0 (fun t => { t with acc := [(1024, 9)] })) 0 { mxCommand 5 0 1 with d := 1 }) 0).acc 1024 = 0 :=
  ((h.2.2.2.2.2.2.2.2.2.1 _ 0 { mxCommand 5 0 1 with d := 1 } rfl).2.2.1 1024 (by decide) (by decide)).1

theorem witness_MatrixEventResult_mxpr (h : Obligations.MatrixEventResult) :
    ∃ x, kget 0 (getTeam (mxEffect (planned 0x2200 0) 0 { mxCommand 6 0 0 with c := 1 }) 0).acc 1023 = x :=
  ⟨_, h.2.2.2.2.2.2.2.2.2.2.1 (planned 0x2200 0) 0 { mxCommand 6 0 0 with c := 1 } _ _ (by decide) (fun row _ => read_scratch (by decide +kernel))
    (fun _ row _ => read_scratch (by decide +kernel)) 0 31 31 (by decide) (by decide) (by decide)⟩

/-- A team on core 19 with four tiles, which owns its matrix arrays, a tile having seen 16 steps. -/
def dueScene : State :=
  modCore (modTeam (idle (threadWith [])) 0 (fun t => { t with home := 19, desc := { t.desc with vregd := 8, accum := 8192 }, steps := [(1, 16)] })) 19
    (fun q => { q with mxOwner := some 0, mxCfg := 0x2200#32 })

theorem witness_MatrixEventResult_promotes (h : Obligations.MatrixEventResult) :
    ∃ t, exec (.promote 0 1) dueScene = .next t ∧ kget 0 (getTeam t 0).steps 1 = 0 :=
  ⟨_, h.2.2.2.2.2.2.2.2.2.2.2 dueScene 0 1 _ rfl (by decide +kernel) (by decide +kernel) (by decide +kernel), by decide +kernel⟩

-- ray slots

/-- A ray command of thread 0, whose quad is pending under tag 5. -/
def rayCommand (sub m : Nat) (a : List Word) : RayCmd :=
  { thread := 0, tag := 5, sub := sub, m := m, e := 0, a := a, b := [0, 0], c := [0, 0], fpctl := 0, marchcfg := 0, after := [] }

/-- An idle team whose thread waits for a quad, with the slot given as its first. -/
def rayScene (x : Slot) : State :=
  modTeam (idle { threadWith [] with pend := [{ tag := 5, dests := [4, 5, 6, 7], value := none, awaited := false, kind := .plain }] }) 0
    (fun t => { t with slots := kset Slot.initial [] 0 x })

/-- A slot in a state (R319) with the command in its queue. -/
def slotIn (state : Nat) (c : RayCmd) : Slot := { Slot.initial with img := [(29, BitVec.ofNat 32 (2048 * state))], queue := [c] }

theorem witness_RayEventResult_release (h : Obligations.RayEventResult) :
    ∃ t, exec (.rayCommandStart 0 0) (rayScene (slotIn 2 (rayCommand 5 0 []))) = .next t ∧ (slotOfTeam t 0 0).state = 0 :=
  ⟨_, (h.1 (rayScene (slotIn 2 (rayCommand 5 0 []))) 0 0 _ _ _ rfl rfl (by decide +kernel) (by decide +kernel) rfl (by decide +kernel)).1 rfl (by decide +kernel), by decide +kernel⟩

theorem witness_RayEventResult_get (h : Obligations.RayEventResult) :
    ∃ t, exec (.rayCommandStart 0 0) (rayScene (slotIn 3 { rayCommand 6 0 [] with b := [7, 0] })) = .next t ∧ pending t = [([4, 5, 6, 7], some [0, 2048 * 3, 0, 0])] :=
  ⟨_, (h.1 (rayScene (slotIn 3 { rayCommand 6 0 [] with b := [7, 0] })) 0 0 _ _ _ rfl rfl (by decide +kernel) (by decide +kernel) rfl (by decide +kernel)).2.2.1 rfl (by decide +kernel) rfl, by decide +kernel⟩

theorem witness_RayEventResult_badState (h : Obligations.RayEventResult) :
    (∃ t, exec (.rayCommandStart 0 0) (rayScene (slotIn 2 (rayCommand 0 0 []))) = .next t ∧ pending t = [([4, 5, 6, 7], some [0x14, 0, 0, 0])]) ∧
      ∃ t, exec (.rayCommandStart 0 0) (rayScene (slotIn 3 (rayCommand 4 0 []))) = .next t ∧ pending t = [([4, 5, 6, 7], some [0x14, 0, 0, 0])] :=
  ⟨⟨_, (h.1 (rayScene (slotIn 2 (rayCommand 0 0 []))) 0 0 _ _ _ rfl rfl (by decide +kernel) (by decide +kernel) rfl (by decide +kernel)).2.2.2.1
      (by decide) (by decide +kernel), by decide +kernel⟩,
    ⟨_, (h.1 (rayScene (slotIn 3 (rayCommand 4 0 []))) 0 0 _ _ _ rfl rfl (by decide +kernel) (by decide +kernel) rfl (by decide +kernel)).2.2.2.2.1
      rfl (by decide +kernel), by decide +kernel⟩⟩

theorem witness_RayEventResult_miss (h : Obligations.RayEventResult) :
    ∃ t, exec (.rayCommandStart 0 0) (rayScene (slotIn 0 (rayCommand 0 0 (List.replicate 8 0)))) = .next t := by
  obtain ⟨z, e, -⟩ := (h.1 (rayScene (slotIn 0 (rayCommand 0 0 (List.replicate 8 0)))) 0 0 _ _ _ rfl rfl (by decide +kernel) (by decide +kernel) rfl
    (by decide +kernel)).2.2.2.2.2 rfl (by decide +kernel) (by decide +kernel) (by decide +kernel)
  exact ⟨_, e⟩

theorem witness_RayEventResult_steplimit (h : Obligations.RayEventResult) :
    ∃ t, exec (.steplimit 0 0) (rayScene { slotIn 1 (rayCommand 6 0 []) with stop := some (.steps 0x3F800000#32 9 0), call := some (rayCommand 1 0 []) }) = .next t := by
  obtain ⟨z, ws, e, -⟩ := h.2.1 (rayScene { slotIn 1 (rayCommand 6 0 []) with stop := some (.steps 0x3F800000#32 9 0), call := some (rayCommand 1 0 []) })
    0 0 9 _ 0 _ rfl rfl rfl
  exact ⟨_, e⟩

theorem witness_RayEventResult_fwork (h : Obligations.RayEventResult) :
    ∃ t, exec (.fwork 0 0) (rayScene { slotIn 1 (rayCommand 6 0 []) with
        stop := some (.work 0 0x3F800000#32), call := some (rayCommand 3 0 []),
        march := some { prog := 0, ident := 0, callix := 0, userLo := 0, userHi := 0, base := 0, evals := 0 } }) = .next t := by
  obtain ⟨z, ws, e, -⟩ := h.2.2.1 (rayScene { slotIn 1 (rayCommand 6 0 []) with
      stop := some (.work 0 0x3F800000#32), call := some (rayCommand 3 0 []),
      march := some { prog := 0, ident := 0, callix := 0, userLo := 0, userHi := 0, base := 0, evals := 0 } }) 0 0 _ _ _ _ rfl rfl rfl rfl rfl
  exact ⟨_, e⟩

/-- A PARKED slot of a mapped team, its spill region at 0x50000, parked 65536 cycles ago. -/
def parkedScene : State :=
  { modTeam (mappedAt (.nop ⟨false, 0, 0, 0, 0, none⟩) (threadWith [])) 0 (fun t => { t with
      raysplLo := 0x50001#32, slots := kset Slot.initial [] 0 { slotIn 2 (rayCommand 6 0 []) with stack := [⟨3, 0, 0⟩] } }) with clock := 65536 }

/-- An answer with the state it leaves. -/
theorem run_ok {ε : Type} {α : Type} {σ : Type} {x : Except ε α × σ} (d : α) (h : (match x.1 with | .ok _ => true | .error _ => false) = true) :
    x = (.ok (match x.1 with | .ok v => v | .error _ => d), x.2) := by
  obtain ⟨r, s⟩ := x
  cases r with
  | ok v => rfl
  | error e => cases h

set_option maxRecDepth 4000 in
theorem witness_RayEventResult_get_evicted (h : Obligations.RayEventResult) :
    ∃ t, exec (.rayCommandStart 0 0) (modTeam parkedScene 0 (fun t => { t with
      slots := kset Slot.initial [] 0 { slotIn 2 (rayCommand 6 0 []) with evictedAt := some 0x50000 } })) = .next t :=
  ⟨_, (h.1 _ 0 0 _ (rayCommand 6 0 []) [] rfl rfl (by decide +kernel) (by decide +kernel) rfl (by decide +kernel)).2.1 _ _ rfl (by decide +kernel)
    (run_ok Slot.initial (by decide +kernel)) (by decide +kernel)⟩

set_option maxRecDepth 4000 in
theorem witness_RayEventResult_evict (h : Obligations.RayEventResult) :
    ∃ t, exec (.slotEvict 0 0) parkedScene = .next t :=
  ⟨_, h.2.2.2.1 parkedScene 0 0 0x50000 _ rfl (by decide +kernel) (by decide +kernel) rfl rfl (by decide) (ok_of (by decide +kernel))⟩

/-- An FPRUNE of thread 0, whose quad is pending under tag 5. -/
def pruneCommand : PruneCmd := { team := 0, thread := 0, tag := 5, box := List.replicate 8 0, node := 0x38000, block := 0, fpctl := 0, after := [] }

/-- A queued FPRUNE of an opaque node at 0x38000, its block at 0 of the team's scratch. -/
def pruneScene : State :=
  let s := poke (mappedAt (.nop ⟨false, 0, 0, 0, 0, none⟩) { threadWith [] with
    pend := [{ tag := 5, dests := [4, 5, 6, 7], value := none, awaited := false, kind := .plain }] }) 0x38000 (leBytes 24 0 ++ leBytes 8 1 ++ leBytes 32 0)
  modCore s 0 (fun c => { c with pruneq := [pruneCommand] })

theorem witness_RayEventResult_prune (h : Obligations.RayEventResult) :
    (∃ t, exec (.fpruneExecute 0) pruneScene = .next t) ∧
      ∃ t, exec (.fpruneExecute 0) (modTeam pruneScene 0 (fun t => { t with hold := .retiring })) = .next t ∧ (getCore t 0).pruneq = [] :=
  ⟨⟨_, (h.2.2.2.2 pruneScene 0 pruneCommand [] (leBytes 8 (2 ^ 49) ++ leBytes 56 0x38000) [0x23, 0, 0, 0] (by decide +kernel)).2
      (by decide +kernel) (ok_of (by decide +kernel))⟩,
    ⟨_, (h.2.2.2.2 (modTeam pruneScene 0 (fun t => { t with hold := .retiring })) 0 pruneCommand [] [] [] (by decide +kernel)).1 (by decide +kernel),
      by decide +kernel⟩⟩

-- rasterisation

/-- A PRIM's triangle, all of whose vertices lie at the origin, in the queue of binning unit 0. -/
def binning : State :=
  let s := unitScene (.nop ⟨false, 0, 0, 0, 0, none⟩) { threadWith [] with
    pend := [{ tag := 5, dests := [4], value := none, awaited := false, kind := .plain }] }
  { setBundle s 0 0 none with
    binq := [(0, [{ asid := 0, target := 0x30000, desc := List.replicate 16 0, record := List.replicate 16 0, ident := 1, thread := 0, tag := 5 }])] }

theorem witness_RasterEventResult_delivers (h : Obligations.RasterEventResult) :
    ∃ t, exec (.binTriangle 0) binning = .next t := ⟨_, h.1 binning 0 _ [] rfl (by decide +kernel)⟩

/-- The scene of a target with a status word, the team of its tile resident; its PRIMs have ended when ENDS is 1. -/
def tiled (word : Nat) : State :=
  let s := poke (unitScene (.nop ⟨false, 0, 0, 0, 0, none⟩) (threadWith [])) 0x32000 (leBytes 4 word)
  { poke (setBundle s 0 0 none) 0x30024 (leBytes 4 1) with targets := [(0, 0x30000)] }

/-- The target as it stands then. -/
def ended : Target := { target with ends := 1 }

theorem witness_RasterEventResult_replays (h : Obligations.RasterEventResult) :
    ∃ t, exec (.binReplay 0 0x30000) (tiled 1) = .next t :=
  ⟨_, h.2.1 (tiled 1) _ 0 0x30000 0 1 _ ended rfl (ok_of (by decide +kernel)) (by decide +kernel) (by decide +kernel) (ok_of (by decide +kernel))
    (by decide) (by decide +kernel) (by decide +kernel) (by decide +kernel) (ok_get State.reset (by decide +kernel))⟩

theorem witness_RasterEventResult_closes (h : Obligations.RasterEventResult) :
    ∃ t, exec (.tileClose 0 0x30000 0) (tiled 0) = .next t :=
  ⟨_, ((h.2.2.1 (tiled 0) _ 0 0x30000 0 0 0 ended (by decide +kernel) (ok_of (by decide +kernel)) (by decide) (ok_of (by decide +kernel)) (by decide) (by decide)
    (by decide +kernel) (by decide) (by decide +kernel) (ok_get State.reset (by decide +kernel))).1 (by decide +kernel) (by decide +kernel)).1⟩

/-- That scene when the tile's team has retired, and when it has not been placed. -/
def untiled (word next : Nat) : State := { tiled word with teams := [], grids := (tiled word).grids.map (fun g => { g with next := next }) }

theorem witness_RasterEventResult_closes_retired (h : Obligations.RasterEventResult) :
    ∃ t, exec (.tileClose 0 0x30000 0) (untiled 0 1) = .next t ∧ rdMem t 0x32000 4 = 0x80000000 :=
  ⟨_, (h.2.2.1 (untiled 0 1) _ 0 0x30000 0 0 0 ended (by decide +kernel) (ok_of (by decide +kernel)) (by decide) (ok_of (by decide +kernel)) (by decide)
    (by decide) (by decide +kernel) (by decide) (by decide +kernel) (ok_get State.reset (by decide +kernel))).2 (by decide +kernel) (by decide +kernel),
    by decide +kernel⟩

/-- A merge into the store of team 0, made by thread 5, which its release carries. -/
def merged : Ver :=
  { ev := 3, clock := 0, agent := 5, strong := true, scope := 2, atomic := true, priv := false, merge := true, point := 1024, lost := false,
    rel := [], bytes := [(0, 1#8)] }

theorem witness_RasterEventResult_merges (h : Obligations.RasterEventResult) :
    hideable (takeFrom { State.reset with order := { State.reset.order with sync := [(.tile 0, [(mergesAt 1024, 3)])] } } 7 (.tile 0)) 7
      (Says.loadAs .global 0 0) 0 merged = false :=
  h.2.2.2.1 _ 7 0 0 _ merged rfl rfl (by decide +kernel)

/-- A vertex on the screen. -/
def corner (x y : Int) : ScreenVertex := { x := ⟨x, 1⟩, y := ⟨y, 1⟩, z := .fin false 1 2, q := .fin false 1 1 }

theorem witness_RasterEventResult_covers (h : Obligations.RasterEventResult) :
    (coverDepth true (corner 0 0) (corner 4 0) (corner 0 4) ⟨1, 2⟩ ⟨1, 2⟩).isSome = true ∧
      (coverDepth true (corner 0 0) (corner 0 4) (corner 4 0) ⟨1, 2⟩ ⟨1, 2⟩).isSome = false ∧
      (coverDepth false (corner 0 0) (corner 0 4) (corner 4 0) ⟨1, 2⟩ ⟨1, 2⟩).isSome = true ∧
      (coverDepth false (corner 0 0) (corner 4 0) (corner 8 0) ⟨1, 2⟩ ⟨0, 1⟩).isSome = false := by
  have r := fun cull a b c cx cy p q s => h.2.2.2.2.1 cull a b c cx cy p q s
  refine ⟨(r _ _ _ _ _ _ (by decide) (by decide) (by decide)).2 (by decide +kernel), ?_, (r _ _ _ _ _ _ (by decide) (by decide) (by decide)).2 (by decide +kernel), ?_⟩
  · exact Bool.eq_false_iff.2 (fun e => absurd ((r _ _ _ _ _ _ (by decide) (by decide) (by decide)).1 e) (by decide +kernel))
  · exact Bool.eq_false_iff.2 (fun e => absurd ((r _ _ _ _ _ _ (by decide) (by decide) (by decide)).1 e) (by decide +kernel))

theorem witness_RasterEventResult_edges (h : Obligations.RasterEventResult) :
    Says.side (corner 4 0) (corner 0 4) 2 2 = -Says.side (corner 0 4) (corner 4 0) 2 2 := h.2.2.2.2.2.1 (corner 0 4) (corner 4 0) 2 2 (by decide +kernel)

theorem witness_RasterEventResult_destinations (h : Obligations.RasterEventResult) :
    (∃ t, deliverTile (tiled (2 ^ 31)) 0 0 ended 0 9 [(1023, 0x3F000000#32)] = .ok t ∧ rdMem t 0x32000 4 = 0xA0000000) ∧
      (∃ t, deliverTile (tiled 0) 0 0 ended 0 9 [(1023, 0x3F000000#32)] = .ok t ∧ leAt (getTeam t 0).scratch 8184 8 = 0x000000093F000000) ∧
      (∃ t, deliverTile (tiled 0) 0 0 { ended with stoff := 0x2000 } 0 9 [(1023, 0x3F000000#32)] = .ok t ∧ rdMem t 0x32000 4 = 0x40000000) ∧
      (∃ t, deliverTile (untiled 3 0) 0 0 ended 0 9 [(1023, 0x3F000000#32)] = .ok t ∧ rdMem t 0x3300C 4 = 9 ∧ rdMem t 0x32000 4 = 4) ∧
      ∃ t, deliverTile (untiled 4 0) 0 0 ended 0 9 [(1023, 0x3F000000#32)] = .ok t ∧ rdMem t 0x32000 4 = 0x40000004 := by
  have r := fun s word d e => h.2.2.2.2.2.2 s 0 0 0 word d 9 [(1023, 0x3F000000#32)] (by decide) e
  refine ⟨⟨_, ((r (tiled (2 ^ 31)) (2 ^ 31) ended (ok_of (by decide +kernel))).1 (.inl (by decide))).trans (ok_get State.reset (by decide +kernel)), by decide +kernel⟩,
    ⟨_, ((r (tiled 0) 0 ended (ok_of (by decide +kernel))).2.1 0 (by decide) (by decide +kernel)).trans (if_pos (by decide +kernel)), by decide +kernel⟩,
    ⟨_, ((r (tiled 0) 0 { ended with stoff := 0x2000 } (ok_of (by decide +kernel))).2.1 0 (by decide) (by decide +kernel)).trans
      ((if_neg (by decide +kernel)).trans (ok_get State.reset (by decide +kernel))), by decide +kernel⟩,
    ⟨_, ((r (untiled 3 0) 3 ended (ok_of (by decide +kernel))).2.2.1 (by decide) (by decide +kernel)).trans
      (((r (untiled 3 0) 3 ended (ok_of (by decide +kernel))).2.2.2 0).trans (ok_get State.reset (by decide +kernel))), by decide +kernel, by decide +kernel⟩,
    ⟨_, ((r (untiled 4 0) 4 ended (ok_of (by decide +kernel))).2.2.1 (by decide) (by decide +kernel)).trans
      (((r (untiled 4 0) 4 ended (ok_of (by decide +kernel))).2.2.2 0).trans (ok_get State.reset (by decide +kernel))), by decide +kernel⟩⟩

-- preemption

/-- A team at rest, after bring-up. -/
def resting : State := { idle (threadWith []) with booted := true }

/-- A SAVE of team 0 whose cores have halted. -/
def saving : State :=
  { modTeam resting 0 (fun t => { t with desc := { t.desc with vregd := 8, vregl := 8, uregs := 16, bars := 0, rays := 0, scratch := 0, priv := 0 } }) with
    pmt := some { op := 1, sel := 0, value := 0, teams := [0], held := [], halted := true, fence := none } }

theorem witness_PreemptEventResult_requests (h : Obligations.PreemptEventResult) :
    (∃ t, exec (.pmtctlSave 0 0) resting = .next t ∧ t.pmt.isSome = true) ∧ (∃ t, exec (.pmtctlHalt 0 0) resting = .next t ∧ t.pmt.isSome = true) ∧
      ∃ t, exec (.pmtctlResume 3 0) (modTeam resting 0 (fun t => { t with hold := .halted })) = .next t ∧ (getTeam t 0).hold = .none :=
  ⟨⟨_, (h.1 resting 0 0 rfl rfl).1, by decide +kernel⟩, ⟨_, (h.1 resting 0 0 rfl rfl).2.1, by decide +kernel⟩,
    ⟨_, (h.1 (modTeam resting 0 (fun t => { t with hold := .halted })) 3 0 rfl rfl).2.2, by decide +kernel⟩⟩

theorem witness_PreemptEventResult_selects (h : Obligations.PreemptEventResult) :
    selects resting 1 0 0 = true ∧ selects resting 2 1 0 = false ∧ selects resting 3 7 0 = true ∧ selects resting 0 0 0 = true ∧
      selects (modGroup resting 0 (fun g => { g with core := 19 })) 0 19 0 = true :=
  have r := fun s value => h.2.1 s value 0
  ⟨(r resting 0).1.2 (by decide), Bool.eq_false_iff.2 (fun e => absurd ((r resting 1).2.1.1 e) (by decide +kernel)), (r resting 7).2.2.1,
    (r resting 0).2.2.2.1 rfl,
    (r (modGroup resting 0 (fun g => { g with core := 19 })) 19).2.2.2.2 0 rfl (by decide +kernel) (by decide +kernel) (by decide +kernel)⟩

/-- An operation on team 0. -/
def onTeam (op : Nat) (halted : Bool) (held : List Nat) : PmtOp :=
  { op := op, sel := 2, value := 0x30000, teams := [0], held := held, halted := halted, fence := none }

theorem witness_PreemptEventResult_begins (h : Obligations.PreemptEventResult) :
    (beginOp resting (onTeam 2 false [])).pmt = some (onTeam 2 false []) ∧ (getTeam (beginOp resting (onTeam 2 false [])) 0).hold = .stopping ∧
      (getCore (beginOp resting (onTeam 2 false [])) 0).halting = true ∧ ¬(getCore (beginOp resting (onTeam 2 false [])) 1).halting = true ∧
      getTeam (beginOp resting (onTeam 2 false [0])) 0 = getTeam resting 0 :=
  have r := h.2.2.1 resting (onTeam 2 false [])
  ⟨congrArg State.pmt r.1, congrArg Team.hold (r.2.1 0 ⟨.head _, List.not_mem_nil⟩),
    (r.2.2.2 0).2.2 (.inr ⟨0, 0, ⟨.head _, List.not_mem_nil⟩, by decide +kernel, by decide +kernel⟩),
    fun e => ((r.2.2.2 1).2.1 e).elim (fun x => absurd x (by decide +kernel)) (fun ⟨id, g, x, y, z⟩ => by
      obtain rfl : id = 0 := by simpa [onTeam] using x.1
      rw [show presentGroups resting 0 = [0] by decide +kernel] at y
      obtain rfl : g = 0 := by simpa using y
      exact absurd z (by decide +kernel)),
    (h.2.2.1 resting (onTeam 2 false [0])).2.2.1 0 (fun e => e.2 (.head _))⟩

/-- A team that a HALT holds, its thread blocked at a HALT, and the same of no team. -/
def heldScene : State := modThread (modTeam resting 0 (fun t => { t with hold := .halted })) 0 (fun t => { t with wait := .halted })

theorem witness_PreemptEventResult_resumes (h : Obligations.PreemptEventResult) :
    getTeam (resumeTeams heldScene 3 0) 0 = { getTeam heldScene 0 with hold := .none } ∧ (getThread (resumeTeams heldScene 3 0) 0).wait ≠ .halted ∧
      getTeam (resumeTeams heldScene 1 7) 0 = getTeam heldScene 0 ∧
      (resumeTeams { savedScene with waits := [], saved := savedScene.saved.map (fun v => { v with released := false }) } 3 0).waits = [.team 0] :=
  have r := h.2.2.2.1 heldScene 3 0
  have m : 0 ∈ (activeTeams heldScene (fun id => selects heldScene 3 0 id)).filter
      (fun id => decide ((getTeam heldScene id).hold = .none ∨ (getTeam heldScene id).hold = .halted)) := by decide +kernel
  ⟨r.2.2.1 0 m, r.2.2.2.2.1 0 m 0 (by decide +kernel) (by decide +kernel), (h.2.2.2.1 heldScene 1 7).2.2.2.1 0 (by decide +kernel),
    (h.2.2.2.1 { savedScene with waits := [], saved := savedScene.saved.map (fun v => { v with released := false }) } 3 0).2.2.2.2.2.2.trans
      (by decide +kernel)⟩

/-- The grid of team 0, which an operation on it finds. -/
def operating (p : PmtOp) : State :=
  { setTeam (gridScene oneGrid) 0 { Team.initial with grid := 0x30000, desc := desc 1, hold := .stopping } with
    booted := true, threads := [(0, threadWith [])], groups := [(0, Group.initial)], cores := [(0, { Core.initial 0 with halting := true })], pmt := some p }

theorem witness_PreemptEventResult_halts (h : Obligations.PreemptEventResult) :
    (∃ t, exec .coreHalt (operating (onTeam 1 false [])) = .next t ∧ t.pmt = some (onTeam 1 true []) ∧ (getTeam t 0).hold = .halted) ∧
      ∃ t, exec .coreHalt (operating (onTeam 2 false [])) = .next t ∧ t.pmt = none ∧ 0x30000 ∈ t.gridHalts := by
  obtain ⟨t, e, a, -, -, b, -⟩ := h.2.2.2.2.1 (operating (onTeam 1 false [])) (onTeam 1 false []) rfl rfl (by decide +kernel) (by decide +kernel)
    (by decide +kernel) (by decide +kernel) rfl rfl (by decide +kernel) rfl
  obtain ⟨u, f, -, -, -, -, c, -, d⟩ := h.2.2.2.2.1 (operating (onTeam 2 false [])) (onTeam 2 false []) rfl rfl (by decide +kernel) (by decide +kernel)
    (by decide +kernel) (by decide +kernel) rfl rfl (by decide +kernel) rfl
  exact ⟨⟨t, e, b rfl (by decide), by rw [a 0 (.head _)]⟩, ⟨u, f, c (.inl rfl), (d 0x30000).2 (.inr ⟨rfl, rfl, oneGrid, .head _, rfl, rfl⟩)⟩⟩

theorem witness_PreemptEventResult_halts_all (h : Obligations.PreemptEventResult) :
    ∃ t, exec .coreHalt (operating (onTeam 1 false [])) = .next t :=
  ⟨_, h.2.2.2.2.2.1 (operating (onTeam 1 false [])) (onTeam 1 false []) (by decide +kernel) rfl (by decide +kernel)⟩

theorem witness_PreemptEventResult_saves (h : Obligations.PreemptEventResult) :
    ∃ t, exec (.teamSave 0) saving = .next t ∧ t.saved.map (·.id) = [0] :=
  ⟨_, h.2.2.2.2.2.2.1 saving _ 0 rfl rfl rfl (by decide +kernel), by decide +kernel⟩

/-- The operation of that scene, a pool whose lines cannot be read, one that is full, and a team whose thread waits for a result. -/
def savingOp : PmtOp := { op := 1, sel := 0, value := 0, teams := [0], held := [], halted := true, fence := none }
def lostPool : State := { saving with poisonLines := [0] }
def fullPool : State := { saving with saved := savedScene.saved.map (fun v => { v with id := 9, size := 65536 }) }
def unready : State :=
  modThread saving 0 (fun t => { t with pend := [{ tag := 5, dests := [3], value := none, awaited := false, kind := .plain }] })

/-- A team whose slots hold no call. -/
theorem no_calls {s : State} {id : Nat} (h : (getTeam s id).slots = []) : stopCalls s id = some s := by simp [stopCalls, h]

theorem witness_PreemptEventResult_unready (h : Obligations.PreemptEventResult) : saveTeam unready savingOp 0 = unready :=
  (h.2.2.2.2.2.2.2.1 unready savingOp 0).1 (by decide +kernel)

theorem witness_PreemptEventResult_no_room (h : Obligations.PreemptEventResult) : ∃ u, saveTeam fullPool savingOp 0 = u := by
  have q : saveReady fullPool 0 = true ∧ (getTeam fullPool 0).slots = [] ∧ poolFit ((presentGroups fullPool 0).foldl deliverSaved fullPool) (teamImage ((presentGroups fullPool 0).foldl deliverSaved fullPool) 0).length = none := by
    decide +kernel
  exact ⟨_, ((h.2.2.2.2.2.2.2.1 fullPool savingOp 0).2 fullPool q.1 (no_calls q.2.1)).1 q.2.2⟩

theorem witness_PreemptEventResult_unreadable (h : Obligations.PreemptEventResult) : ∃ u, saveTeam lostPool savingOp 0 = u := by
  have q : saveReady lostPool 0 = true ∧ (getTeam lostPool 0).slots = [] ∧ poolFit ((presentGroups lostPool 0).foldl deliverSaved lostPool) (teamImage ((presentGroups lostPool 0).foldl deliverSaved lostPool) 0).length = some 0 ∧
      linesBad ((presentGroups lostPool 0).foldl deliverSaved lostPool).poisonLines (poolBase ((presentGroups lostPool 0).foldl deliverSaved lostPool) + 0) (teamImage ((presentGroups lostPool 0).foldl deliverSaved lostPool) 0).length = true := by
    decide +kernel
  exact ⟨_, (((h.2.2.2.2.2.2.2.1 lostPool savingOp 0).2 lostPool q.1 (no_calls q.2.1)).2 0 q.2.2.1).1 (.inr (.inr q.2.2.2))⟩

theorem witness_PreemptEventResult_stored (h : Obligations.PreemptEventResult) : ∃ u, saveTeam saving savingOp 0 = u := by
  have q : saveReady saving 0 = true ∧ (getTeam saving 0).slots = [] ∧ poolFit ((presentGroups saving 0).foldl deliverSaved saving) (teamImage ((presentGroups saving 0).foldl deliverSaved saving) 0).length = some 0 ∧
      busErr ((presentGroups saving 0).foldl deliverSaved saving) (poolBase ((presentGroups saving 0).foldl deliverSaved saving) + 0) = false ∧
      busErr ((presentGroups saving 0).foldl deliverSaved saving) (poolBase ((presentGroups saving 0).foldl deliverSaved saving) + 0 + (teamImage ((presentGroups saving 0).foldl deliverSaved saving) 0).length - 1) = false ∧
      linesBad ((presentGroups saving 0).foldl deliverSaved saving).poisonLines (poolBase ((presentGroups saving 0).foldl deliverSaved saving) + 0) (teamImage ((presentGroups saving 0).foldl deliverSaved saving) 0).length = false := by
    decide +kernel
  exact ⟨_, (((h.2.2.2.2.2.2.2.1 saving savingOp 0).2 saving q.1 (no_calls q.2.1)).2 0 q.2.2.1).2 q.2.2.2.1 q.2.2.2.2.1 q.2.2.2.2.2⟩

theorem witness_PreemptEventResult_in_place (h : Obligations.PreemptEventResult) :
    (getTeam (resumeInPlace heldScene (onTeam 1 true []) 0) 0).hold = .none ∧ (getTeam (resumeInPlace heldScene (onTeam 1 true [0]) 0) 0).hold = .halted :=
  ⟨((h.2.2.2.2.2.2.2.2.1 heldScene (onTeam 1 true []) 0).2).trans (by decide +kernel),
    ((h.2.2.2.2.2.2.2.2.1 heldScene (onTeam 1 true [0]) 0).2).trans (by decide +kernel)⟩

theorem witness_PreemptEventResult_stores (h : Obligations.PreemptEventResult) :
    kfind (storeTeam saving savingOp 0 64 [1, 2]).teams 0 = none ∧ kfind (storeTeam saving savingOp 0 64 [1, 2]).groups 0 = none ∧
      kget 0 (storeTeam saving savingOp 0 64 [1, 2]).mem 65 = 2 :=
  have r := h.2.2.2.2.2.2.2.2.2.1 saving savingOp 0 64 [1, 2]
  ⟨r.1, r.2.1 0 (by decide +kernel), r.2.2.2 1 (by decide)⟩

theorem witness_PreemptEventResult_kill (h : Obligations.PreemptEventResult) : ∃ t, exec (.killCommand 1 0) resting = .next t :=
  ⟨_, h.2.2.2.2.2.2.2.2.2.2.1 resting 1 0 rfl rfl⟩

/-- A team of a grid, and another grid. -/
def killScene : State :=
  { setTeam (gridScene oneGrid) 0 { Team.initial with grid := 0x30000, desc := desc 1 } with
    booted := true, grids := [oneGrid, { oneGrid with pod := 0x30040, va := 0x30040, asid := 1 }] }

/-- A pod that waits to be taken. -/
def waitingPod : State :=
  { poke State.reset 0x30000 (leBytes 8 0x50000 ++ leBytes 8 0 ++ leBytes 4 0 ++ [0#8, 0#8, 0#8, 2#8]) with
    booted := true, flight := [(0x30000, { va := 0x30000, asid := 7, code := 5, frame := 0, dims := (1, 1, 1), team := (1, 1, 1) })] }

theorem witness_PreemptEventResult_kills (h : Obligations.PreemptEventResult) :
    (∃ t, exec (.killCommand 1 0) killScene = .next t ∧ 0x30000 ∈ t.killBusy ∧ ¬0x30040 ∈ t.killBusy ∧ (getTeam t 0).killed = true) ∧
      (∃ t, exec (.killCommand 0 0) killScene = .next t ∧ 0x30000 ∈ t.killBusy) ∧
      ∃ t, exec (.killCommand 2 0x30040) killScene = .next t ∧ getTeam t 0 = getTeam killScene 0 := by
  have r := fun sel x => (h.2.2.2.2.2.2.2.2.2.2.2.1 killScene sel x rfl rfl (by decide +kernel)).1 (fun _ e => by cases e)
  obtain ⟨t, e, -, a, b, -, c, -⟩ := r 1 0
  obtain ⟨u, f, -, p, -, -, -, -⟩ := r 0 0
  obtain ⟨v, g, -, -, -, -, -, n⟩ := r 2 0x30040
  refine ⟨⟨t, e, (a oneGrid (.head _) (.inl (.inl ⟨rfl, rfl⟩))).2,
    (b { oneGrid with pod := 0x30040, va := 0x30040, asid := 1 } (.tail _ (.head _)) (by rintro (x | x) <;> revert x <;> simp [Says.killPicks])).2,
    c 0 ⟨oneGrid, .head _, .inl (.inl ⟨rfl, rfl⟩), rfl⟩ rfl⟩,
    ⟨u, f, (p oneGrid (.head _) (.inr ⟨rfl, _, .head _, rfl, by decide +kernel⟩)).2⟩, ⟨v, g, n 0 (fun x m y => ?_)⟩⟩
  rcases m with _ | ⟨_, m⟩
  · exact absurd y (by simp [Says.killPicks, oneGrid])
  · rcases m with _ | ⟨_, m⟩
    · decide
    · cases m

theorem witness_PreemptEventResult_kills_waiting (h : Obligations.PreemptEventResult) :
    ∃ t, exec (.killCommand 1 7) waitingPod = .next t ∧ rdMem t 0x30017 1 = 6 :=
  ⟨_, (h.2.2.2.2.2.2.2.2.2.2.2.1 waitingPod 1 7 rfl rfl (by decide)).2 _ rfl ⟨.inl ⟨rfl, rfl⟩, by decide +kernel, by decide +kernel, by decide +kernel⟩
    (fun _ m => by cases m) rfl (by decide +kernel), by decide +kernel⟩

theorem witness_PreemptEventResult_marks (h : Obligations.PreemptEventResult) :
    ∀ g ∈ (markKilled (gridScene oneGrid) 0x30000 1).grids, g.killed.isSome = true :=
  fun g hg => h.2.2.2.2.2.2.2.2.2.2.2.2 (gridScene oneGrid) 0x30000 1 g hg
    (by have e : (markKilled (gridScene oneGrid) 0x30000 1).grids.map (·.pod) = [0x30000] := by decide +kernel
        have := List.mem_map_of_mem (f := (·.pod)) hg
        rw [e] at this; simpa using this)

-- hardware errors

/-- A lasting error of a register of thread 0, a correctable one. -/
def hwError (corrected : Bool) : HwError := { place := .threadRegister 0 3, corrected := corrected, structureCode := 4, asid := 0, address := 0 }

theorem witness_ErrorEventResult_detects (h : Obligations.ErrorEventResult) :
    ∃ t, exec (.hardwareError (hwError false)) resting = .next t :=
  ⟨_, h.1 resting (hwError false) rfl⟩

theorem witness_ErrorEventResult_line (h : Obligations.ErrorEventResult) :
    deviceTop / 128 - 1 ∈ (errorEffect (.deviceLine (deviceTop / 128 - 1)) State.reset).poisonLines ∧
      deviceTop / 128 - 1 ∈ (errorEffect (.marrowLine (deviceTop / 128 - 1)) State.reset).poisonLines :=
  h.2.1 State.reset _ (by decide)

theorem witness_ErrorEventResult_carve (h : Obligations.ErrorEventResult) :
    192 * 2 ^ 20 / 128 - 1 ∈ (errorEffect (.carveLine (192 * 2 ^ 20 / 128 - 1)) { State.reset with marcfgReq := 1, marcfgActive := 1 }).carvePoison :=
  h.2.2.1 _ _ (by decide +kernel)

/-- A resting team with one accumulator tile whose first latch of thread 0 holds a value, and its grid. -/
def damaged : State :=
  { modThread (modTeam resting 0 (fun t => { t with grid := 0x30000, desc := { t.desc with accum := 4096 } })) 0
      (fun t => { t with regs := { t.regs with x := [(64, ⟨7, false⟩)] } }) with
    grids := [oneGrid] }

theorem witness_ErrorEventResult_registers (h : Obligations.ErrorEventResult) :
    (kget RVal.zero (getThread (errorEffect (.threadRegister 0 63) damaged) 0).regs.v 63).poison = true ∧
      (kget RVal.zero (getThread (errorEffect (.threadRegister 0 64) damaged) 0).regs.x 64).poison = true ∧
      (kget RVal.zero (getGroup (errorEffect (.uniformRegister 0 127) damaged) 0).uregs 127).poison = true :=
  ⟨h.2.2.2.1 damaged 0 63 (by decide +kernel) (by decide), h.2.2.2.2.1 damaged 0 64 (by decide +kernel) (by decide) (by decide) (by decide +kernel),
    h.2.2.2.2.2.1 damaged 0 127 (by decide +kernel) (by decide +kernel)⟩

theorem witness_ErrorEventResult_scratch (h : Obligations.ErrorEventResult) :
    251 ∈ (getTeam (errorEffect (.scratchWord 0 251) damaged) 0).badWords ∧ (getTeam (errorEffect (.scratchWord 0 252) damaged) 0).killed = true :=
  ⟨(h.2.2.2.2.2.2.1 damaged 0 251 _ rfl (by decide +kernel)).1 (by decide +kernel), ((h.2.2.2.2.2.2.1 damaged 0 252 _ rfl (by decide +kernel)).2 (by decide +kernel)).1⟩

/-- The same under an integer configuration. -/
def integers : State := modCore damaged 0 (fun c => { c with mxCfg := 0x5500 })

theorem witness_ErrorEventResult_accumulators (h : Obligations.ErrorEventResult) :
    kget 0 (getTeam (errorEffect (.accElement 0 1023) damaged) 0).acc 1023 = 0x7FC00001#32 ∧
      kget 0 (getTeam (errorEffect (.accElement 0 1023) integers) 0).acc 1023 = 0x80000000#32 ∧
      (getTeam (errorEffect (.innerElement 0 0) integers) 0).ovf.getLsbD 0 = true :=
  ⟨(h.2.2.2.2.2.2.2.1 damaged 0 1023 false _ rfl (by decide +kernel)).1.trans (by decide +kernel),
    (h.2.2.2.2.2.2.2.1 integers 0 1023 false _ rfl (by decide +kernel)).1.trans (by decide +kernel),
    (h.2.2.2.2.2.2.2.1 integers 0 0 true _ rfl (by decide +kernel)).2.2 (by decide +kernel) (by decide)⟩

theorem witness_ErrorEventResult_structures (h : Obligations.ErrorEventResult) :
    (getTeam (errorEffect (.stateStructure 0 .codebook [0]) damaged) 0).killed = true ∧
      (getCore (errorEffect (.stateStructure 0 .codebook [0]) damaged) 0).codebook = [] ∧
      (getCore (errorEffect (.stateStructure 0 .planes []) damaged) 0).planes = [] :=
  ⟨((h.2.2.2.2.2.2.2.2.1 damaged 0 .codebook [0]).1 0 (.head _) (by decide +kernel)).1, (h.2.2.2.2.2.2.2.2.1 damaged 0 .codebook [0]).2.1 rfl,
    (h.2.2.2.2.2.2.2.2.1 damaged 0 .planes []).2.2 rfl⟩

theorem witness_ErrorEventResult_buffer (h : Obligations.ErrorEventResult) :
    kget [] (getCore (errorEffect (.redBuffer 0 0) buffering) 0).redbuf 0 = [] ∧
      ∀ g ∈ (errorEffect (.redBuffer 0 0) buffering).grids, g.pod = 0x30000 → g.killed.isSome = true :=
  ⟨(h.2.2.2.2.2.2.2.2.2.1 buffering 0 0).1, (h.2.2.2.2.2.2.2.2.2.1 buffering 0 0).2 entry (by decide +kernel)⟩

theorem witness_ErrorEventResult_copies (h : Obligations.ErrorEventResult) :
    errorEffect (.cleanCopy 0) damaged = damaged ∧ errorEffect (.other 0) damaged = damaged := h.2.2.2.2.2.2.2.2.2.2.1 damaged 0

/-- That error seen, its core under test. -/
def tested : State :=
  { modCore resting 0 (fun c => { c with testing := true }) with errors := [{ clock := 0, core := some 0, error := hwError false, lasting := false }] }

theorem witness_ErrorEventResult_transient (h : Obligations.ErrorEventResult) :
    ∃ t, exec (.selfTest (.threadRegister 0 3) .transient) tested = .next t ∧ t.errors = [] ∧ (getCore t 0).testing = false :=
  ⟨_, h.2.2.2.2.2.2.2.2.2.2.2.1 tested { clock := 0, core := some 0, error := hwError false, lasting := false } 0 (by decide +kernel) rfl, by decide +kernel, by decide +kernel⟩

theorem witness_ErrorEventResult_lasting (h : Obligations.ErrorEventResult) :
    ∃ t, exec (.selfTest (.threadRegister 0 3) .lasting) tested = .next t :=
  ⟨_, h.2.2.2.2.2.2.2.2.2.2.2.2 tested { clock := 0, core := some 0, error := hwError false, lasting := false } 0 (by decide +kernel) rfl (by decide +kernel)⟩

-- the part

theorem witness_PartEventResult_power (h : Obligations.PartEventResult) :
    (∃ t, exec .pwrctlRetain State.reset = .next t ∧ t.pwrReq = 2) ∧
      (∃ t, exec .powerStateChange { State.reset with pwrReq := 2, pwrCur := 1 } = .next t ∧ t.pwrCur = 2) ∧
      ∃ t, exec (.secadv 0) State.reset = .next t ∧ t = State.reset :=
  ⟨⟨_, (h.1 State.reset (by decide) rfl).2.2, rfl⟩, ⟨_, h.2.2.2.1 { State.reset with pwrReq := 2, pwrCur := 1 } rfl (by decide) rfl rfl (by decide +kernel), rfl⟩,
    ⟨_, h.2.2.2.2.2.1 State.reset 0 (by decide), rfl⟩⟩

theorem witness_PartEventResult_version (h : Obligations.PartEventResult) :
    ∃ n, exec (.secadv 0x5EC00001#32) { State.reset with secCount := 64 } = .next { State.reset with secCount := n } ∧ n = 64 :=
  h.2.2.2.2.1 { State.reset with secCount := 64 } (by decide)

theorem witness_PartEventResult_checkpoint (h : Obligations.PartEventResult) : ∃ t, exec (.ckptctlGo 0x8000040000000000#64) running = .next t :=
  ⟨_, h.2.2.2.2.2.2.1 running 0x8000040000000000#64 rfl rfl rfl (by decide +kernel) (by decide +kernel)⟩

theorem witness_PartEventResult_checkpointEnd (h : Obligations.PartEventResult) : ∃ t, exec (.checkpointEnd false) { running with ckptBusy := true } = .next t :=
  Exists.intro _ (h.2.2.2.2.2.2.2.1 { running with ckptBusy := true } rfl rfl rfl).1

theorem witness_PartEventResult_checkpointFails (h : Obligations.PartEventResult) : ∃ t, exec (.checkpointEnd true) { running with ckptBusy := true } = .next t :=
  Exists.intro _ (h.2.2.2.2.2.2.2.1 { running with ckptBusy := true } rfl rfl rfl).2

theorem witness_PartEventResult_bringUp (h : Obligations.PartEventResult) :
    (∃ t, exec (.bringUp { firmware := 0, failing := [], peers := [], unfitted := [] }) { State.reset with secCount := 1 } = .next t ∧ t.fwBad = true) ∧
      ∃ t, exec (.bringUp { firmware := 1, failing := [215], peers := [], unfitted := [] }) { State.reset with secCount := 1 } = .next t ∧ (getCore t 215).fenced = true := by
  refine ⟨⟨_, (h.2.2.2.2.2.2.2.2.1 { State.reset with secCount := 1 } { firmware := 0, failing := [], peers := [], unfitted := [] } rfl rfl).1 (by decide), rfl⟩, ?_⟩
  obtain ⟨t, e, -, -, -, -, -, -, -, -, hc⟩ := (h.2.2.2.2.2.2.2.2.1 { State.reset with secCount := 1 } { firmware := 1, failing := [215], peers := [], unfitted := [] } rfl rfl).2 (by decide)
  exact ⟨t, e, hc 215 (.head _) (by decide)⟩

theorem witness_PartEventResult_samples (h : Obligations.PartEventResult) :
    ∃ t, exec .counterSample { running with rlmode := 0x00080000#32 } = .next t :=
  ⟨_, h.2.2.2.2.2.2.2.2.2.1 { running with rlmode := 0x00080000#32 } rfl (by decide) (by decide)⟩

theorem witness_PartEventResult_sampled (h : Obligations.PartEventResult) :
    (getCore (sampleCore 0 (modCore running 0 (fun c => { c with counters := [(0, 5)] })) 0) 0).counters = [] ∧
      sampleCore 0 (modCore running 0 (fun c => { c with fenced := true })) 0 = modCore running 0 (fun c => { c with fenced := true }) :=
  ⟨((h.2.2.2.2.2.2.2.2.2.2 (modCore running 0 (fun c => { c with counters := [(0, 5)] })) 0 0).2 (by decide +kernel)).1,
    (h.2.2.2.2.2.2.2.2.2.2 (modCore running 0 (fun c => { c with fenced := true })) 0 0).1 (by decide +kernel)⟩

theorem witness_PartEventResult_held (h : Obligations.PartEventResult) :
    (∃ t, exec .powerStateChange { running with pwrCur := 2, heldDoorbells := [(255 + 256 * 64, 64), (3 + 256 * 32, 9)] } = .next t ∧ t.dberr = 2 ∧
        t.heldDoorbells = []) ∧
      (∃ t, exec .powerStateChange { running with pwrCur := 2, pwrReq := 1, heldDoorbells := [(3 + 256 * 32, 9)] } = .next t ∧ t.pwrCur = 1 ∧
        t.heldDoorbells = [(3 + 256 * 32, 9)]) ∧
      releaseDoorbells { running with heldDoorbells := [(255 + 256 * 64, 64)] } = unitTake (.doorbell 255 64 64) running :=
  ⟨⟨_, (h.2.1 { running with pwrCur := 2, heldDoorbells := [(255 + 256 * 64, 64), (3 + 256 * 32, 9)] } rfl rfl).1 rfl, by decide +kernel,
      by decide +kernel⟩,
    ⟨_, (h.2.1 { running with pwrCur := 2, pwrReq := 1, heldDoorbells := [(3 + 256 * 32, 9)] } rfl rfl).2 rfl, rfl, rfl⟩,
    h.2.2.1 { running with heldDoorbells := [(255 + 256 * 64, 64)] } 255 64 64 [] (by decide) rfl⟩

-- the machine

theorem witness_DecodeUndoesEncode (h : Obligations.DecodeUndoesEncode) :
    decode (bytesOf [0x0F03FFFF#32, 0x24800000#32]) = .ok (.movi ⟨false, 3, 0x3FFFF, none⟩, bytesOf [0x24800000#32]) ∧
      encode (.movi ⟨false, 3, 0x3FFFF, none⟩) ++ [] = [0x0F03FFFF#32] :=
  ⟨h.1 .d (.movi ⟨false, 3, 0x3FFFF, none⟩) [0x24800000#32] (by decide) rfl, h.2 [0x0F03FFFF#32] [] _ rfl⟩

/-- The ADD of the tests below. -/
def addOne : Instr := .addI ⟨false, 1, 1, 1, none⟩

theorem witness_StepRunsTheDecodedInstruction_issue (h : Obligations.StepRunsTheDecodedInstruction) :
    ∃ u, step { oneAt addOne [(1, 6)] with agenda := [.issue 0 0] } = exec addOne u ∧ (exec addOne u = .next (match exec addOne u with | .next t => t | _ => u)) :=
  ⟨_, (h.1 { oneAt addOne [(1, 6)] with agenda := [.issue 0 0] } _ [] 0 0 _ addOne _ rfl (by decide) (by decide) rfl rfl rfl).1 rfl, rfl⟩

/-- A set of two threads on picker 0 of core 19, of which the first stands at an addition and a second one has yet to. -/
def coIssued : State :=
  let i : Instr := addOne
  let s := scene 19 2 i (threadWith [(1, 6)])
  { setBundle s 19 0 (some { bundleOf 19 2 i with set := some 4 }) with agenda := [.issue 19 0] }

/-- What the start of the set leaves, and the bundle then. -/
def coStarted : State := (startSet execState (tick { coIssued with agenda := [] }) 19 0).getD State.reset
def coBundle : Bundle := (bundleAt coStarted 19 0).getD (bundleOf 19 2 addOne)

theorem witness_StepRunsTheDecodedInstruction_set (h : Obligations.StepRunsTheDecodedInstruction) :
    step coIssued = issueSet exec 19 0 4 (exec addOne { coStarted with focus := (19, 0) }) :=
  (h.1 coIssued coStarted [] 19 0 coBundle addOne [0x70FFFFFC#32] rfl (by decide) (by decide) (some_of State.reset (by decide +kernel))
    (some_of _ (by decide +kernel)) (ok_of (by decide +kernel))).2 (by decide +kernel) (by decide +kernel)

theorem witness_StepRunsTheDecodedInstruction_dform (h : Obligations.StepRunsTheDecodedInstruction) :
    ∃ u, step { oneAt addOne [(1, 6)] with agenda := [.issue 0 0] } = exec addOne u ∧ u.focus = (0, 0) :=
  ⟨_, h.2.1 { oneAt addOne [(1, 6)] with agenda := [.issue 0 0] } [] 0 0 _ addOne _ rfl (by decide) (by decide) rfl rfl rfl rfl, rfl⟩

theorem witness_StepRunsTheDecodedInstruction_event (h : Obligations.StepRunsTheDecodedInstruction) :
    ∃ u, step { State.reset with agenda := [.event .pwrctlIdle] } = exec .pwrctlIdle u :=
  ⟨_, h.2.2.1 { State.reset with agenda := [.event .pwrctlIdle] } [] .pwrctlIdle rfl rfl⟩

theorem witness_StepRunsTheDecodedInstruction_clock (h : Obligations.StepRunsTheDecodedInstruction) : 0 < (tick State.reset).clock :=
  (h.2.2.2.1 State.reset).1

/-- A run of one packet, its last word the trailer. -/
def runWords : List Word := [0x700C0000#32, 0x00020404#32, 0x71000000#32, 0x71000000#32, 0x7087FFFC#32]

/-- A mapped team of one thread on core 0, that stands before a run of one packet in device memory. -/
def beforeRun : State :=
  poke (modTeam (mappedAt (.nop ⟨false, 0, 0, 0, 0, none⟩) (threadWith [])) 0 (fun t => { t with desc := { t.desc with dimg := 0x50000, dsize := 20 } }))
    0x50000 (runWords.flatMap (fun w => leBytes 4 w.toNat))

set_option maxRecDepth 4000 in
theorem witness_PickResult_able (h : Obligations.PickResult) :
    ∃ e, codeEntry (fetchEntry beforeRun 0) 0 = .ok e ∧ pendClear (fetchEntry beforeRun 0) 0 e = true :=
  have c : codeEntry (fetchEntry beforeRun 0) 0 = .ok _ := ok_get ⟨0, [], freshSeq .d 0 0⟩ (by decide +kernel)
  ⟨_, c, (h.2.2.2 (fetchEntry beforeRun 0) 0 _ c (by decide +kernel)).2.1⟩

theorem witness_StepRunsTheDecodedInstruction_run (h : Obligations.StepRunsTheDecodedInstruction) :
    ∃ x, enterBundle beforeRun 0 0 0 [0] = setBundle beforeRun 0 0 (some x) ∧ x.code = runWords :=
  ⟨_, h.2.2.2.2 beforeRun 0 0 0 [0] 0x700C0000#32 runWords ⟨false, 3, 0, 0⟩ rfl rfl rfl (fun j m => by obtain rfl : j = 0 := (by simpa using m); rfl) (ok_of (by decide +kernel)) rfl rfl
    (ok_of (by decide +kernel)), rfl⟩

theorem witness_StepKeepsMemoryForm (h : Obligations.StepKeepsMemoryForm) :
    ∃ t, step { poke State.reset 0x1000 [7] with agenda := [.event .pwrctlIdle] } = .next t ∧ Memory.wf t.mem = true :=
  ⟨_, rfl, h { poke State.reset 0x1000 [7] with agenda := [.event .pwrctlIdle] } _ (by decide +kernel) rfl⟩

theorem witness_RegisterInstructionFrame (h : Obligations.RegisterInstructionFrame) :
    ∃ t, exec addOne (oneAt addOne [(1, 6), (2, 9)]) = .next t ∧ t.mem = (oneAt addOne [(1, 6), (2, 9)]).mem ∧
      kget RVal.zero (getThread t 0).regs.v 2 = kget RVal.zero (getThread (oneAt addOne [(1, 6), (2, 9)]) 0).regs.v 2 := by
  obtain ⟨t, ht⟩ : ∃ t, exec addOne (oneAt addOne [(1, 6), (2, 9)]) = .next t := ⟨_, rfl⟩
  have e := h addOne (oneAt addOne [(1, 6), (2, 9)]) t rfl ht rfl rfl
  exact ⟨t, ht, by have := congrArg State.mem e.1; exact this, (e.2.2.2.2 0).1 2 (by decide) (by decide) (by decide +kernel)⟩

/-- The STS of the test below. -/
def storeTwo : Instr := .sts ⟨false, 2, 1, 80, 0, none⟩

set_option maxRecDepth 4000 in
theorem witness_StoreFrame_sts (h : Obligations.StoreFrame) :
    ∃ v, Says.OnlyStorage (oneAt storeTwo [(1, 1000), (2, 5), (3, 6)]) v ∧ leAt (getTeam v 0).scratch 1000 8 = 0x0000000600000005 ∧
      kget 0 (getTeam v 0).scratch 999 = kget 0 (getTeam (oneAt storeTwo [(1, 1000), (2, 5), (3, 6)]) 0).scratch 999 := by
  have e := h.1 storeTwo .scratch rfl (bundleOf 0 1 storeTwo) 0 (oneAt storeTwo [(1, 1000), (2, 5), (3, 6)]) _ (.scratch 0 1000)
    ⟨_, _, _, rfl, rfl, rfl, rfl, ⟨rfl, rfl, rfl⟩, rfl⟩
  exact ⟨_, e.1, by decide +kernel, e.2.2.2 0 999 (fun o ho => by cases ho; exact .inl (by decide))⟩

/-- The STGM of the test below, and the scene of it. -/
def storeMasked : TForm := ⟨false, 2, 6, 1, 0, none⟩
def maskedScene : State :=
  mappedAt (.stgm storeMasked) { threadWith [(1, 0b1010), (2, 0x55667788), (6, 0x30001)] with lpr := some ⟨0, 0x40000000, 0, true, true, false⟩ }

theorem witness_StoreFrame_stgm (h : Obligations.StoreFrame) : ∃ v, Says.OnlyStorage maskedScene v :=
  ⟨_, (h.2.1 storeMasked (bundleOf 0 1 (.stgm storeMasked)) 0 maskedScene _ _
    ⟨_, _, _, rfl, rfl, rfl, rfl, rfl, rfl, rfl, rfl⟩).1⟩

theorem witness_StoreFrame_rest (h : Obligations.StoreFrame) :
    (past (oneAt storeTwo []) storeTwo (clearLines (oneAt storeTwo []) [])).mem = (oneAt storeTwo []).mem ∧
      ∃ u, prepare (oneAt storeTwo []) (bundleOf 0 1 storeTwo) storeTwo 0 = .ok u ∧ u = { oneAt storeTwo [] with threads := u.threads } :=
  ⟨(h.2.2.1 storeTwo (bundleOf 0 1 storeTwo) (oneAt storeTwo []) (oneAt storeTwo []) [] rfl rfl).2.2.2.1,
    ⟨_, rfl, h.2.2.2 storeTwo (bundleOf 0 1 storeTwo) 0 (oneAt storeTwo []) _ rfl⟩⟩

theorem witness_TrapEntry_enters (h : Obligations.TrapEntry) :
    (getThread (enterTrap (handled addOne (threadWith [(1, 6)])) 0 0x06 1 (some (0x40000, 9)) { pc := 4, word := 5, word2 := 0, resume := 4, seq := none }) 0).pc = 0x40 :=
  ((h (handled addOne (threadWith [(1, 6)])) 0 0x06 1 (some (0x40000, 9)) { pc := 4, word := 5, word2 := 0, resume := 4, seq := none } (by decide) (by decide)
    (fun p e => by cases e; decide)).1 rfl rfl rfl rfl).2.2.2.2.2.2.2.2.2.1

/-- A thread that read poison: the record of it names page 0x40000, cause 9 and class 2. -/
def poisoned : Thread := { threadWith [] with psnlo := 0x40000, psnpc := 8, psninfo := 0x80000029#32 }

theorem witness_TrapEntry_poison (h : Obligations.TrapEntry) :
    let x := getThread (enterTrap (handled addOne poisoned) 0 5 0 none { pc := 4, word := 5, word2 := 0, resume := 4, seq := none }) 0
    kget 0 x.frec 8 = 0x40000#32 ∧ kget 0 x.frec 10 = 8#32 ∧ (kget 0 x.frec 0).extractLsb' 16 8 = 9#8 := by
  have r := (((h (handled addOne poisoned) 0 5 0 none { pc := 4, word := 5, word2 := 0, resume := 4, seq := none } (by decide) (by decide)
    (fun p e => by cases e)).1 rfl rfl rfl rfl).2.2.2.2.2.2.2.2.2.2.2.2.1) rfl
  exact ⟨(r.2.2.1 rfl).1, r.1, (r.2.2.2.1 rfl).1⟩

theorem witness_TrapEntry_poison_unrecorded (h : Obligations.TrapEntry) :
    (kget 0 (getThread (enterTrap (handled addOne (threadWith [])) 0 5 0 none { pc := 4, word := 5, word2 := 0, resume := 4, seq := none }) 0).frec 0).extractLsb'
      8 4 = 0xF#4 :=
  ((((h (handled addOne (threadWith [])) 0 5 0 none { pc := 4, word := 5, word2 := 0, resume := 4, seq := none } (by decide) (by decide)
    (fun p e => by cases e)).1 rfl rfl rfl rfl).2.2.2.2.2.2.2.2.2.2.2.2.1) rfl).2.2.2.2 rfl |>.2

theorem witness_TrapEntry_kills (h : Obligations.TrapEntry) :
    (getThread (enterTrap (oneAt addOne [(1, 6)]) 0 0x06 1 none { pc := 4, word := 5, word2 := 0, resume := 4, seq := none }) 0).pc = 4 := by
  rw [((h (oneAt addOne [(1, 6)]) 0 0x06 1 none { pc := 4, word := 5, word2 := 0, resume := 4, seq := none } (by decide) (by decide)
    (fun p e => by cases e)).2 (.inl rfl)).1]

/-- An LDS of four bytes. -/
def loadWord : Instr := .lds ⟨false, 4, 1, 64, 0, none⟩

theorem witness_OperandTraps_load_misaligned (h : Obligations.OperandTraps) :
    ∃ t, exec loadWord (oneAt loadWord [(1, 6)]) = .next t :=
  ⟨_, (h.1 loadWord .scratch rfl _ _ _ 0 _ ⟨⟨rfl, rfl, rfl⟩, rfl, rfl, rfl, rfl⟩ rfl rfl).1 (by decide)⟩

theorem witness_OperandTraps_load_outside (h : Obligations.OperandTraps) :
    ∃ t, exec loadWord (oneAt loadWord [(1, 0x10000)]) = .next t :=
  ⟨_, (h.1 loadWord .scratch rfl _ _ _ 0 _ ⟨⟨rfl, rfl, rfl⟩, rfl, rfl, rfl, rfl⟩ rfl rfl).2 (by decide) (by decide +kernel)⟩

theorem witness_OperandTraps_store_poisoned (h : Obligations.OperandTraps) :
    ∃ t, exec storeTwo (scene 0 1 storeTwo { threadWith [] with regs := ⟨[(1, ⟨8, true⟩)], [], []⟩ }) = .next t :=
  ⟨_, (h.2.1 storeTwo .scratch rfl _ _ _ 0 _ _ ⟨⟨rfl, rfl, rfl⟩, rfl, rfl, rfl, rfl⟩ rfl rfl).1 (.inl rfl)⟩

theorem witness_OperandTraps_store_misaligned (h : Obligations.OperandTraps) :
    ∃ t, exec storeTwo (oneAt storeTwo [(1, 4)]) = .next t :=
  ⟨_, ((h.2.1 storeTwo .scratch rfl _ _ _ 0 _ _ ⟨⟨rfl, rfl, rfl⟩, rfl, rfl, rfl, rfl⟩ rfl rfl).2 rfl rfl).1 (by decide)⟩

theorem witness_OperandTraps_store_outside (h : Obligations.OperandTraps) :
    ∃ t, exec storeTwo (oneAt storeTwo [(1, 0x10000)]) = .next t :=
  ⟨_, ((h.2.1 storeTwo .scratch rfl _ _ _ 0 _ _ ⟨⟨rfl, rfl, rfl⟩, rfl, rfl, rfl, rfl⟩ rfl rfl).2 rfl rfl).2.1 (by decide) (by decide +kernel)⟩

/-- An STG of four bytes at an address that no table maps. -/
def storeGlobal : Instr := .stg ⟨false, 2, 6, 64, 0, none⟩

theorem witness_OperandTraps_store_page (h : Obligations.OperandTraps) :
    ∃ t, exec storeGlobal (mappedAt storeGlobal (threadWith [(6, 0), (7, 0x100)])) = .next t :=
  ⟨_, ((h.2.1 storeGlobal .global rfl _ _ _ 0 _ _ ⟨⟨rfl, rfl, rfl⟩, rfl, rfl, rfl, rfl⟩ rfl rfl).2 rfl rfl).2.2 .notPresent (some 0x10000000000) (by decide) (by decide +kernel)⟩

theorem witness_OperandTraps_branch (h : Obligations.OperandTraps) :
    ∃ t, exec (.brp ⟨false, 1, false, 4⟩) (scene 0 1 (.brp ⟨false, 1, false, 4⟩) { threadWith [] with regs := ⟨[], [], [(1, ⟨true, true⟩)]⟩ }) = .next t :=
  ⟨_, h.2.2.1 ⟨false, 1, false, 4⟩ _ _ _ 0 ⟨⟨rfl, rfl, rfl⟩, rfl, rfl, rfl, rfl⟩ rfl⟩

/-- A CALLI. -/
def callThrough : TForm := ⟨false, 0, 1, 0, 0, none⟩

theorem witness_OperandTraps_calli_poisoned (h : Obligations.OperandTraps) :
    ∃ t, exec (.calli callThrough) (scene 0 1 (.calli callThrough) { threadWith [] with regs := ⟨[(1, ⟨8, true⟩)], [], []⟩ }) = .next t :=
  ⟨_, (h.2.2.2 callThrough _ _ _ 0 _ ⟨⟨rfl, rfl, rfl⟩, rfl, rfl, rfl, rfl⟩ rfl).1 rfl⟩

theorem witness_OperandTraps_calli_full (h : Obligations.OperandTraps) :
    ∃ t, exec (.calli callThrough) (scene 0 1 (.calli callThrough) { threadWith [(1, 8)] with csp := 4 }) = .next t :=
  ⟨_, (h.2.2.2 callThrough _ _ _ 0 _ ⟨⟨rfl, rfl, rfl⟩, rfl, rfl, rfl, rfl⟩ rfl).2.1 rfl (by decide)⟩

theorem witness_OperandTraps_calli_misaligned (h : Obligations.OperandTraps) :
    ∃ t, exec (.calli callThrough) (scene 0 1 (.calli callThrough) { threadWith [(1, 6)] with csp := 8 }) = .next t :=
  ⟨_, (h.2.2.2 callThrough _ _ _ 0 _ ⟨⟨rfl, rfl, rfl⟩, rfl, rfl, rfl, rfl⟩ rfl).2.2 rfl (by decide) (by decide)⟩

/-- Two threads of a team, in two groups, and a third of another team. -/
def agents : State :=
  setTeam (setTeam { State.reset with threads := [(0, threadWith []), (32, threadWith []), (1024, threadWith [])] } 0 Team.initial) 1 Team.initial

/-- A write of agent 0 at 0x1000, a release at a scope (R377). -/
def released (scope : Nat) : Ver :=
  { ev := 5, clock := 0, agent := 0, strong := true, scope := scope, atomic := false, priv := false, merge := false, point := 0, lost := false,
    rel := [{ agent := 0, scope := scope, view := [(0, 5), (7, 3)] }], bytes := [(0, 0#8)] }

/-- A write of agent 0, which nothing puts before what agent 32 does. -/
def written : State := writePart agents 0 (Says.storeAs .global 0 0) (.phys 0x1000) [(0, 7#8)] 0 []
def own : Ver := ((stripOf written (.phys 0x1000)).vers.head?).getD (released 0)

theorem witness_MemoryModelResult_hideable (h : Obligations.MemoryModelResult) :
    hideable written 32 (Says.loadAs .global 0 0) (partOf (.phys 0x1000)) own = true ∧
      hideable written 0 (Says.loadAs .global 0 0) (partOf (.phys 0x1000)) own = false :=
  ⟨(h.1 written 32 (Says.loadAs .global 0 0) _ own).2 (by decide +kernel),
    Bool.eq_false_iff.2 (fun e => absurd ((h.1 written 0 (Says.loadAs .global 0 0) _ own).1 e) (by decide +kernel))⟩

theorem witness_MemoryModelResult_read (h : Obligations.MemoryModelResult) :
    ∃ r, readPart written 32 (Says.loadAs .global 0 0) (.phys 0x1000) 4 = r ∧ r.1.length = 4 := by
  obtain ⟨pass, f, -, e⟩ := h.2.1 written 32 (Says.loadAs .global 0 0) (.phys 0x1000) 4
  exact ⟨_, e, by simp⟩

theorem witness_MemoryModelResult_supply (h : Obligations.MemoryModelResult) :
    byteOf [(1#8, false), (2#8, false)] (supply [0, 1] (fun _ _ => false) [0, 1] 0 [released 0]) 1 = (2#8, false) ∧
      (released 0 ∈ supply [0, 1] (fun _ _ => true) [0, 1] 0 [released 0] ∨ ∃ i : Nat, (fun (_ : Nat) (_ : Ver) => true) i (released 0) = true) :=
  have r := fun pass => h.2.2.1 [0, 1] pass [(1#8, false), (2#8, false)] [released 0] 1 (by decide)
  ⟨((r (fun _ _ => false)).2.2 (fun _ _ _ => rfl)).trans (by decide +kernel), .inr ⟨0, rfl⟩⟩

theorem witness_MemoryModelResult_reads (h : Obligations.MemoryModelResult) :
    hideable (meet agents 32 (Says.loadAs .global 0 0) 3 (released 2)) 32 (Says.loadAs .global 1 4) 3 (released 2) = false ∧
      (readPart (writePart agents 32 (Says.storeAs .global 0 0) (.phys 0x1007) (pieceBytes (.phys 0x1007) [7#8]) 0 []) 32 (Says.loadAs .global 0 0)
        (.phys 0x1007) 1).1.map (·.1) = [7#8] :=
  ⟨h.2.2.2.1 agents 32 3 (Says.loadAs .global 0 0) (Says.loadAs .global 1 4) (released 2),
    h.2.2.2.2.1 agents 32 (Says.storeAs .global 0 0) (Says.loadAs .global 0 0) (.phys 0x1007) [7#8] [] (by decide) rfl⟩

theorem witness_MemoryModelResult_writes (h : Obligations.MemoryModelResult) :
    hideable { written with clock := 1 } 32 (Says.storeAs .global 0 0) (partOf (.phys 0x1000)) own = true :=
  h.2.2.2.2.2.1 { written with clock := 1 } 32 (Says.storeAs .global 0 0) (.phys 0x1000) [0] 1 (by decide +kernel) own (by decide +kernel)

theorem witness_MemoryModelResult_atomics (h : Obligations.MemoryModelResult) :
    (updateAs written 0 (Says.atomicAs 0 2) (.phys 0x1000) 4 (fun x => some (x + 1))).1 = 7 := by
  obtain ⟨c, m, e⟩ := h.2.2.2.2.2.2.1 written 0 (Says.atomicAs 0 2) (.phys 0x1000) 4 (fun x => some (x + 1)) rfl
  rw [show depths written 0 (Says.atomicAs 0 2) (.phys 0x1000) ((List.range 4).map (fun j => offOf (.phys 0x1000) + j)) = [0] by decide +kernel] at m
  obtain rfl : c = 0 := by simpa using m
  exact e.trans (by decide +kernel)

theorem witness_MemoryModelResult_acquires (h : Obligations.MemoryModelResult) :
    3 ≤ kget 0 (viewOf (meet agents 32 (Says.loadAs .global 2 2) 3 (released 2)).order 32) 7 ∧
      3 ≤ kget 0 (viewOf (meet agents 1024 (Says.loadAs .global 3 4) 3 (released 1)).order 1024) 7 ∧
      3 ≤ kget 0 (viewOf (fence (meet agents 32 (Says.loadAs .global 1 2) 3 (released 2)) 32 0 2).order 32) 7 ∧
      3 ≤ kget 0 (viewOf (fence (meet agents 1024 (Says.loadAs .global 1 4) 3 (released 1)) 1024 3 4).order 1024) 7 :=
  have r := fun a kind scope acc v r => h.2.2.2.2.2.2.2.1 agents a 3 7 kind scope acc v r
  ⟨(r 32 0 0 (Says.loadAs .global 2 2) (released 2) _ rfl (.head _)).1 (by decide +kernel) (by decide +kernel) rfl,
    (r 1024 0 0 (Says.loadAs .global 3 4) (released 1) _ rfl (.head _)).2.1 (by decide) (by decide +kernel) (by decide +kernel) rfl rfl,
    (r 32 0 2 (Says.loadAs .global 1 2) (released 2) _ rfl (.head _)).2.2.1 (by decide +kernel) (by decide +kernel) (by decide +kernel) (by decide),
    (r 1024 3 4 (Says.loadAs .global 1 4) (released 1) _ rfl (.head _)).2.2.2 (by decide) (by decide +kernel) (by decide +kernel) (by decide +kernel) rfl⟩

theorem witness_MemoryModelResult_weak (h : Obligations.MemoryModelResult) :
    viewOf (meet agents 32 (Says.loadAs .global 0 0) 3 (released 4)).order 32 = [] :=
  (h.2.2.2.2.2.2.2.2.1 agents 32 3 (Says.loadAs .global 0 0) (released 4) rfl).trans (by decide +kernel)

theorem witness_MemoryModelResult_scopes (h : Obligations.MemoryModelResult) : scopeLevel agents 0 32 ≤ 2 ∧ ¬scopeLevel agents 0 1024 ≤ 2 :=
  ⟨(h.2.2.2.2.2.2.2.2.2.1 agents 0 32 (by decide) (by decide) (by decide)).2.1.2 (by decide),
    fun x => absurd ((h.2.2.2.2.2.2.2.2.2.1 agents 0 1024 (by decide) (by decide) (by decide)).2.1.1 x) (by decide)⟩

theorem witness_MemoryModelResult_releases (h : Obligations.MemoryModelResult) :
    ∃ v, (stripOf (writePart agents 0 (Says.storeAs .global 2 2) (.phys 0x1000) [(0, 7#8)] 0 []) (.phys 0x1000)).vers.head? = some v ∧
      ∃ r ∈ v.rel, r.scope = 2 := by
  obtain ⟨v, r, e, -, -, m, -, q, -⟩ := h.2.2.2.2.2.2.2.2.2.2.1 agents 0 (Says.storeAs .global 2 2) (.phys 0x1000) [(0, 7#8)] [] rfl rfl
  exact ⟨v, e, r, m, q⟩

theorem witness_MemoryModelResult_fences (h : Obligations.MemoryModelResult) :
    kget 0 (viewOf (fence agents 0 2 4).order 0) 0 ≤ kget 0 (viewOf (fence (fence agents 0 2 4) 1024 2 4).order 1024) 0 ∧
      viewOf (fence (fence agents 0 2 2) 1024 2 2).order 1024 = viewOf (fence agents 1024 2 2).order 1024 :=
  ⟨(h.2.2.2.2.2.2.2.2.2.2.2 agents 0 1024 4 4 0 (by decide)).1 (by decide +kernel), (h.2.2.2.2.2.2.2.2.2.2.2 agents 0 1024 2 2 0 (by decide)).2 (by decide +kernel)⟩

end Sys2Proof.Tests
end

section
/-! The part: what its power states, fuse, checkpoint, bring-up and counter samples come to, and the obligation about them (O48). -/

namespace Sys2Proof.Machine

-- tables and lists

theorem mem_dedup (k : Nat) (l : List Nat) : k ∈ dedup l ↔ k ∈ l := by
  induction l with
  | nil => rfl
  | cons j r ih =>
    unfold dedup
    split
    case isTrue hj =>
      rw [ih, List.mem_cons]
      exact ⟨.inr, fun h => h.elim (fun e => e ▸ hj) id⟩
    case isFalse => rw [List.mem_cons, List.mem_cons, ih]

/-- A table cut down to keys that p picks lists no key that p does not pick. -/
theorem kfind_filter_none {α : Type} (m : KMap α) (p : Nat → Bool) (k : Nat) (hk : p k = false) :
    kfind (m.filter (fun e => p e.1)) k = none := by
  induction m with
  | nil => rfl
  | cons e r ih =>
    obtain ⟨j, u⟩ := e
    by_cases hj : p j = true
    · have hne : j ≠ k := by rintro rfl; rw [hj] at hk; cases hk
      simp [kfind, hj, hne, ih]
    · simp [hj, ih]

/-- A byte that memory does not list reads as 0. -/
theorem rdMem_one_of_unlisted (s : State) (a : Nat) (h : kfind s.mem a = none) : rdMem s a 1 = 0 := by
  simp [rdMem, leAt, bytesAt, leNat, kget, h]

-- power (R447)

theorem applyPower_run (s : State) (hreq : s.pwrReq = 0) (hcur : s.pwrCur ≠ 0) (hbusy : partBusy s = false) :
    applyPower s = releaseDoorbells { s with pwrCur := 0 } := by
  simp [applyPower, hreq, hcur.symm, hbusy]

theorem applyPower_idle (s : State) (hreq : s.pwrReq = 1) (hbusy : partBusy s = false) : applyPower s = { s with pwrCur := 1 } := by
  by_cases hcur : s.pwrCur = 1
  · have hstay : applyPower s = s := if_pos (.inl (hreq.trans hcur.symm))
    rw [hstay, ← hcur]
  · simp [applyPower, hreq, Ne.symm hcur, hbusy]

theorem applyPower_retain (s : State) (hreq : s.pwrReq = 2) (hcur : s.pwrCur < 2) (hbusy : partBusy s = false) (hteams : s.teams = [])
    (hidle : enginesIdle s = true) : applyPower s = { s with pwrCur := 2 } := by
  have hne : 2 ≠ s.pwrCur := by omega
  simp [applyPower, hreq, hne, hbusy, hteams, hidle]

/-- A request of RUN or IDLE is applied in the same step when neither it nor the present state is RETAIN. -/
theorem requestPower_awake (req : Nat) (s : State) (hreq : req < 2) (hcur : s.pwrCur < 2) :
    requestPower req s = applyPower { s with pwrReq := req } := if_pos ⟨hreq, hcur⟩

theorem requestPower_run (s : State) (hcur : s.pwrCur < 2) (hbusy : partBusy s = false) :
    requestPower 0 s = if s.pwrCur = 0 then { s with pwrReq := 0 } else releaseDoorbells { s with pwrReq := 0, pwrCur := 0 } := by
  rw [requestPower_awake 0 s (by decide) hcur]
  split
  case isTrue h0 => exact if_pos (.inl h0.symm)
  case isFalse h0 => exact applyPower_run { s with pwrReq := 0 } rfl h0 hbusy

theorem requestPower_idle (s : State) (hcur : s.pwrCur < 2) (hbusy : partBusy s = false) :
    requestPower 1 s = { s with pwrReq := 1, pwrCur := 1 } := by
  rw [requestPower_awake 1 s (by decide) hcur]
  exact applyPower_idle { s with pwrReq := 1 } rfl hbusy

/-- RETAIN is only recorded: it takes effect in an event of its own. -/
theorem requestPower_retain (s : State) : requestPower 2 s = { s with pwrReq := 2 } := by simp [requestPower]

theorem releaseDoorbells_cons (s : State) (n width : Nat) (x : DWord) (r : List (Nat × DWord)) (hn : n < 256)
    (hheld : s.heldDoorbells = (n + 256 * width, x) :: r) :
    releaseDoorbells s = r.foldl (fun s d => unitTake (.doorbell (d.1 % 256) (d.1 / 256) d.2) s)
      (unitTake (.doorbell n width x) { s with heldDoorbells := [] }) := by
  have hplace : (n + 256 * width) % 256 = n := by omega
  have hwidth : (n + 256 * width) / 256 = width := by omega
  rw [releaseDoorbells, hheld, List.foldl_cons, hplace, hwidth]

-- the fuse (R18)

theorem advanceFuse_key (s : State) (h : s.secCount ≤ 64) : advanceFuse 0x5EC00001#32 s = { s with secCount := min 64 (s.secCount + 1) } := by
  by_cases hlt : s.secCount < 64
  · have hmin : min 64 (s.secCount + 1) = s.secCount + 1 := by omega
    rw [hmin]
    exact if_pos ⟨rfl, hlt⟩
  · have hmin : min 64 (s.secCount + 1) = s.secCount := by omega
    rw [hmin]
    exact if_neg (fun hk => hlt hk.2)

theorem advanceFuse_other (key : Word) (s : State) (h : key ≠ 0x5EC00001#32) : advanceFuse key s = s := if_neg (fun hk => h hk.1)

-- the checkpoint (R449)

/-- The bits h down to l of a number are the field that the bit vector extracts. -/
theorem bits_toNat {w : Nat} (x : BitVec w) (l n : Nat) (hn : 0 < n) : bits x.toNat (l + n - 1) l = (x.extractLsb' l n).toNat := by
  have hlen : l + n - 1 + 1 - l = n := by omega
  rw [bits, hlen, BitVec.extractLsb'_toNat, Nat.shiftRight_eq_div_pow]

theorem startCheckpoint_go (s : State) (x : DWord) (hgo : x.msb = true) (hbooted : s.booted = true) (hbusy : s.ckptBusy = false)
    (hfirst : isCompanion ((x.extractLsb' 12 32).toNat * 4096) = true)
    (hlast : isCompanion ((x.extractLsb' 12 32).toNat * 4096 + ckptBytes s - 1) = true) :
    startCheckpoint x s = nextRequest
      { s with ckptBusy := true, ckptErr := false, ckptBase := (x.extractLsb' 12 32).toNat * 4096, ckptWait := true } := by
  have hbase : bits x.toNat 43 12 = (x.extractLsb' 12 32).toNat := bits_toNat x 12 32 (by decide)
  have hgoes : ¬(x.getLsbD 63 = false ∨ s.booted = false ∨ s.ckptBusy = true) := by
    rw [show x.getLsbD 63 = true from hgo, hbooted, hbusy]; decide
  rw [← hbase] at hfirst hlast ⊢
  exact (if_neg hgoes).trans (if_pos (Bool.and_eq_true_iff.mpr ⟨hfirst, hlast⟩))

theorem endCheckpoint_whole (s : State) (hbusy : s.ckptBusy = true) (hwait : s.ckptWait = false) (hpmt : s.pmt = none) :
    endCheckpoint false s = { copyOut (ckptBytes s) s with ckptBusy := false } := by
  simp [endCheckpoint, hbusy, hwait, hpmt]

theorem endCheckpoint_failed (s : State) (hbusy : s.ckptBusy = true) (hwait : s.ckptWait = false) (hpmt : s.pmt = none) :
    endCheckpoint true s =
      { copyOut (Config.choice s.fresh % ckptBytes s) { s with fresh := s.fresh + 1 } with ckptBusy := false, ckptErr := true } := by
  simp [endCheckpoint, hbusy, hwait, hpmt, draw]

-- bring-up (R448)

/-- The cores that failed their self-test are fenced. -/
def fenceFailing (b : Boot) (s : State) : State :=
  (b.failing.filter (fun c => decide (c < 216))).foldl (fun s c => modCore s c (fun x => { x with fenced := true })) s

theorem bringUp_refused (b : Boot) (s : State) (hbooted : s.booted = false) (hbad : s.fwBad = false) (hold : b.firmware < s.secCount) :
    bringUp b s = { s with fwBad := true } := by
  simp [bringUp, hbooted, hbad, hold]

theorem bringUp_accepted (b : Boot) (s : State) (hbooted : s.booted = false) (hbad : s.fwBad = false) (hnew : s.secCount ≤ b.firmware) :
    bringUp b s = { fenceFailing b s with
      mem := (fenceFailing b s).mem.filter (fun c => decide (deviceTop ≤ c.1)), poisonLines := [], carve := [], carvePoison := [],
      marcfgActive := 0, peerUp := dedup (b.peers.filter (fun p => decide (p < 8))), unfitted := b.unfitted, booted := true, clock := 0,
      order := Order.initial, marrow := [] } := by
  simp [bringUp, fenceFailing, hbooted, hbad, Nat.not_lt.mpr hnew]

/-- Fencing cores one after another fences each of them, and keeps those fenced before. -/
theorem fenced_foldl_fence (c : Nat) (cs : List Nat) : ∀ s : State, (getCore s c).fenced = true ∨ c ∈ cs →
    (getCore (cs.foldl (fun s c => modCore s c (fun x => { x with fenced := true })) s) c).fenced = true := by
  induction cs with
  | nil => intro s h; exact h.resolve_right List.not_mem_nil
  | cons d ds ih =>
    intro s h
    apply ih
    by_cases hd : c = d
    · subst hd; exact .inl (by rw [getCore_modCore])
    · rw [getCore_modCore_ne s d c _ hd]
      exact h.imp_right (fun hc => (List.mem_cons.mp hc).resolve_left hd)

theorem fenced_fenceFailing (b : Boot) (s : State) (c : Nat) (hc : c ∈ b.failing) (hlt : c < 216) :
    (getCore (fenceFailing b s) c).fenced = true :=
  fenced_foldl_fence c _ s (.inr (List.mem_filter.mpr ⟨hc, decide_eq_true hlt⟩))

/-- What an accepted bring-up leaves. -/
theorem bringUp_result (b : Boot) (s : State) (hbooted : s.booted = false) (hbad : s.fwBad = false) (hnew : s.secCount ≤ b.firmware) :
    let t := bringUp b s
    t.booted = true ∧ t.clock = 0 ∧ t.carve = [] ∧ t.poisonLines = [] ∧ t.unfitted = b.unfitted ∧
      (∀ p, p ∈ t.peerUp ↔ p ∈ b.peers ∧ p < 8) ∧ t.order = Order.initial ∧ (∀ a, a < deviceTop → rdMem t a 1 = 0) ∧
      ∀ c ∈ b.failing, c < 216 → (getCore t c).fenced = true := by
  rw [bringUp_accepted b s hbooted hbad hnew]
  refine ⟨rfl, rfl, rfl, rfl, rfl, ?peers, rfl, ?memory, ?fences⟩
  case peers => intro p; simp only [mem_dedup, List.mem_filter, decide_eq_true_eq]
  case memory =>
    intro a ha
    exact rdMem_one_of_unlisted _ a (kfind_filter_none _ (fun k => decide (deviceTop ≤ k)) a (decide_eq_false (Nat.not_le.mpr ha)))
  case fences => intro c hc hlt; exact fenced_fenceFailing b s c hc hlt

-- counter samples (R435)

theorem sampleTick_due (s : State) (hbooted : s.booted = true) (hperiod : samplePeriod s.rlmode ≠ 0) (hdue : s.nextTick ≤ s.clock) :
    sampleTick s = { (List.range 216).foldl (sampleCore s.nextTick) s with nextTick := s.nextTick + samplePeriod s.rlmode } := by
  simp [sampleTick, hbooted, hperiod, Nat.not_lt.mpr hdue]

theorem sampleCore_fenced (at_ core : Nat) (s : State) (h : (getCore s core).fenced = true) : sampleCore at_ s core = s := if_pos h

theorem ringWrite_cores (s : State) (r : Ring) (sz : Nat) (recs : List (List Byte)) : (ringWrite s r sz recs).1.cores = s.cores := by
  obtain ⟨m, o, hring⟩ := ringWrite_state s r sz recs
  rw [hring]

/-- The record of a live core goes to the ring; of the cores, only its counters change. -/
theorem sampleCore_live (at_ core : Nat) (s : State) (h : (getCore s core).fenced = false) :
    ∃ u, u.cores = s.cores ∧ sampleCore at_ s core = modCore u core (fun c => { c with counters := [] }) := by
  have hlive : ¬(getCore s core).fenced = true := by rw [h]; decide
  refine ⟨_, ?_, if_neg hlive⟩
  exact ringWrite_cores s s.counterRing 64 _

theorem getCore_sampleCore_live (at_ core : Nat) (s : State) (h : (getCore s core).fenced = false) :
    (getCore (sampleCore at_ s core) core).counters = [] ∧ ∀ j, j ≠ core → getCore (sampleCore at_ s core) j = getCore s j := by
  obtain ⟨u, hcores, hsample⟩ := sampleCore_live at_ core s h
  rw [hsample]
  constructor
  · rw [getCore_modCore]
  · intro j hj
    rw [getCore_modCore_ne u core j _ hj, getCore_congr hcores]

end Sys2Proof.Machine

namespace Sys2Proof

open Sys2Proof.Machine

/-- Settles O48. Each clause is what the event's own function does, by the law of that function above. -/
theorem partEventResult : Obligations.PartEventResult := by
  unfold Obligations.PartEventResult
  refine ⟨?request, ?wake, ?held, ?retain, ?advance, ?wrongKey, ?checkpoint, ?checkpointEnd, ?bringUp, ?sample, ?sampled⟩
  case request =>
    intro s hcur hbusy
    exact ⟨congrArg Host.Outcome.next (requestPower_run s hcur hbusy), congrArg Host.Outcome.next (requestPower_idle s hcur hbusy),
      congrArg Host.Outcome.next (requestPower_retain s)⟩
  case wake =>
    intro s hcur hbusy
    exact ⟨fun hreq => congrArg Host.Outcome.next (applyPower_run s hreq (by omega) hbusy),
      fun hreq => congrArg Host.Outcome.next (applyPower_idle s hreq hbusy)⟩
  case held => exact releaseDoorbells_cons
  case retain =>
    intro s hreq hcur hbusy hteams hidle
    exact congrArg Host.Outcome.next (applyPower_retain s hreq hcur hbusy hteams hidle)
  case advance => intro s h; exact ⟨_, congrArg Host.Outcome.next (advanceFuse_key s h), rfl⟩
  case wrongKey => intro s key h; exact congrArg Host.Outcome.next (advanceFuse_other key s h)
  case checkpoint =>
    intro s x hgo hbooted hbusy base hfirst hlast
    exact congrArg Host.Outcome.next (startCheckpoint_go s x hgo hbooted hbusy hfirst hlast)
  case checkpointEnd =>
    intro s hbusy hwait hpmt
    exact ⟨congrArg Host.Outcome.next (endCheckpoint_whole s hbusy hwait hpmt), congrArg Host.Outcome.next (endCheckpoint_failed s hbusy hwait hpmt)⟩
  case bringUp =>
    intro s b hbooted hbad
    exact ⟨fun hold => congrArg Host.Outcome.next (bringUp_refused b s hbooted hbad hold),
      fun hnew => ⟨bringUp b s, rfl, bringUp_result b s hbooted hbad hnew⟩⟩
  case sample =>
    intro s hbooted hperiod hdue
    exact congrArg Host.Outcome.next (sampleTick_due s hbooted hperiod hdue)
  case sampled => intro s at_ core; exact ⟨sampleCore_fenced at_ core s, getCore_sampleCore_live at_ core s⟩

end Sys2Proof
end

section
/-! Exact numbers: what the operations of R189 on finite values, and those of the engines' fractions, come to as rational numbers. -/

namespace Sys2Proof.Machine

open Sys2Proof.Says (rat ratio)

-- fractions of integers

/-- The order of fractions is that of their cross products. -/
theorem mkRat_lt_mkRat (n k : Int) {d e : Nat} (hd : d ≠ 0) (he : e ≠ 0) : mkRat n d < mkRat k e ↔ n * e < k * d := by
  have hd' : (0 : Rat) < ((d : Int) : Rat) := Rat.intCast_pos.mpr (by omega)
  have he' : (0 : Rat) < ((e : Int) : Rat) := Rat.intCast_pos.mpr (by omega)
  have hright : (k : Rat) / ((e : Int) : Rat) * ((d : Int) : Rat) = (k : Rat) * ((d : Int) : Rat) / ((e : Int) : Rat) := by
    rw [Rat.div_def, Rat.div_def, Rat.mul_assoc, Rat.mul_comm _ ((d : Int) : Rat), Rat.mul_assoc]
  rw [Rat.mkRat_eq_div, Rat.mkRat_eq_div, ← Rat.intCast_natCast d, ← Rat.intCast_natCast e, Rat.div_lt_iff hd', hright, Rat.lt_div_iff he',
    ← Rat.intCast_mul, ← Rat.intCast_mul, Rat.intCast_lt_intCast]

theorem intCast_le_mkRat (x n : Int) {d : Nat} (hd : d ≠ 0) : (x : Rat) ≤ mkRat n d ↔ x * d ≤ n := by
  rw [← Rat.not_lt, ← Rat.mkRat_one, mkRat_lt_mkRat n x hd Nat.one_ne_zero]
  omega

/-- The floor is the greatest integer not above. -/
theorem floor_eq_of_le_iff {a : Rat} {n : Int} (h : ∀ x : Int, (x : Rat) ≤ a ↔ x ≤ n) : a.floor = n :=
  Int.le_antisymm ((h _).mp (Rat.floor_le a)) (Rat.le_floor_iff.mpr ((h n).mpr (Int.le_refl n)))

theorem floor_mkRat (n : Int) {d : Nat} (hd : d ≠ 0) : (mkRat n d).floor = n / d :=
  floor_eq_of_le_iff fun x => by rw [intCast_le_mkRat x n hd, Int.le_ediv_iff_mul_le (by omega)]

theorem floor_sub_natCast (a : Rat) (n : Nat) : (a - (n : Rat)).floor = a.floor - n := by
  refine floor_eq_of_le_iff fun x => ?_
  rw [Rat.le_sub_iff, ← Rat.intCast_natCast, ← Rat.intCast_add, ← Rat.le_floor_iff]
  omega

-- the fraction of a finite value

theorem rat_fin (s : Bool) (n : Nat) {d : Nat} (hd : d ≠ 0) : rat (.fin s n d) = some (mkRat (signedNum s n) d) := by
  rw [Rat.mkRat_eq_div]
  exact if_neg hd

/-- Only a finite value with a denominator above 0 is a fraction. -/
theorem rat_eq_some {x : Xr} {a : Rat} (h : rat x = some a) : ∃ s n d, x = .fin s n d ∧ d ≠ 0 ∧ a = mkRat (signedNum s n) d := by
  match x with
  | .fin s n d =>
    have hd : d ≠ 0 := by rintro rfl; cases h
    rw [rat_fin s n hd] at h
    exact ⟨s, n, d, rfl, hd, (Option.some.inj h).symm⟩
  | .inf _ => cases h
  | .nan => cases h

theorem signedNum_zero (s : Bool) : signedNum s 0 = 0 := by cases s <;> rfl

theorem signedNum_not (s : Bool) (n : Nat) : signedNum (!s) n = -signedNum s n := by
  cases s
  · rfl
  · exact (Int.neg_neg _).symm

theorem signedNum_bne (s t : Bool) (n k : Nat) : signedNum (s != t) (n * k) = signedNum s n * signedNum t k := by
  cases s <;> cases t
  · exact Int.natCast_mul n k
  · exact (congrArg Neg.neg (Int.natCast_mul n k)).trans (Int.mul_neg _ _).symm
  · exact (congrArg Neg.neg (Int.natCast_mul n k)).trans (Int.neg_mul _ _).symm
  · exact (Int.natCast_mul n k).trans (Int.neg_mul_neg _ _).symm

/-- A zero of either sign is the fraction 0. -/
theorem rat_zero (s : Bool) : rat (.fin s 0 1) = some 0 := by
  rw [rat_fin s 0 Nat.one_ne_zero, signedNum_zero, Rat.zero_mkRat]

theorem rat_one : rat (.fin false 1 1) = some 1 := by
  rw [rat_fin false 1 Nat.one_ne_zero, Rat.mkRat_one]
  rfl

/-- An integer over d, as Xr.add leaves a sum. -/
theorem rat_signed (x : Int) {d : Nat} (hd : d ≠ 0) : rat (.fin (decide (x < 0)) x.natAbs d) = some (mkRat x d) := by
  have hx : signedNum (decide (x < 0)) x.natAbs = x := by
    unfold signedNum
    split
    case isTrue hneg => have hlt := of_decide_eq_true hneg; omega
    case isFalse hpos => have hge : ¬x < 0 := fun hlt => hpos (decide_eq_true hlt); omega
  rw [rat_fin _ _ hd, hx]

variable {x y : Xr} {a b : Rat}

theorem rat_neg (hx : rat x = some a) : rat (Xr.neg x) = some (-a) := by
  obtain ⟨s, n, d, rfl, hd, rfl⟩ := rat_eq_some hx
  rw [Xr.neg, rat_fin _ _ hd, signedNum_not, Rat.neg_mkRat]

theorem rat_add (m : Rm) (hx : rat x = some a) (hy : rat y = some b) : rat (Xr.add m x y) = some (a + b) := by
  obtain ⟨s, n, d, rfl, hd, rfl⟩ := rat_eq_some hx
  obtain ⟨t, k, e, rfl, he, rfl⟩ := rat_eq_some hy
  rw [Rat.mkRat_add_mkRat _ _ hd he]
  unfold Xr.add
  dsimp only
  split
  case isTrue hzero =>
    obtain ⟨rfl, rfl⟩ := hzero
    rw [signedNum_zero, signedNum_zero, Int.zero_mul, Int.zero_mul, Int.add_zero, Rat.zero_mkRat]
    split
    · exact rat_zero _
    · exact rat_zero _
  case isFalse =>
    split
    case isTrue h0 => rw [h0, Rat.zero_mkRat, rat_zero]
    case isFalse => exact rat_signed _ (Nat.mul_ne_zero hd he)

theorem rat_sub (m : Rm) (hx : rat x = some a) (hy : rat y = some b) : rat (Xr.sub m x y) = some (a - b) := by
  rw [Xr.sub, rat_add m hx (rat_neg hy), Rat.sub_eq_add_neg]

theorem rat_mul (hx : rat x = some a) (hy : rat y = some b) : rat (Xr.mul x y) = some (a * b) := by
  obtain ⟨s, n, d, rfl, hd, rfl⟩ := rat_eq_some hx
  obtain ⟨t, k, e, rfl, he, rfl⟩ := rat_eq_some hy
  rw [Rat.mkRat_mul_mkRat, ← signedNum_bne]
  unfold Xr.mul
  dsimp only
  split
  case isTrue hzero => rw [Nat.mul_eq_zero.mpr hzero, signedNum_zero, Rat.zero_mkRat, rat_zero]
  case isFalse => exact rat_fin _ _ (Nat.mul_ne_zero hd he)

/-- The quotient of fractions, by which the product with the divisor gives the dividend. -/
theorem mkRat_div_mkRat (s t : Bool) (n d : Nat) {k e : Nat} (hk : k ≠ 0) (he : e ≠ 0) :
    mkRat (signedNum s n) d / mkRat (signedNum t k) e = mkRat (signedNum (s != t) (n * e)) (d * k) := by
  have hdivisor : mkRat (signedNum t k) e ≠ 0 := by
    rw [Rat.mkRat_ne_zero he]
    unfold signedNum
    split <;> omega
  have hprod : mkRat (signedNum (s != t) (n * e)) (d * k) * mkRat (signedNum t k) e = mkRat (signedNum s n) d := by
    have hsign : ((s != t) != t) = s := by cases s <;> cases t <;> rfl
    rw [Rat.mkRat_mul_mkRat, ← signedNum_bne, hsign, Nat.mul_assoc n e k, Nat.mul_comm e k, Nat.mul_assoc d k e]
    have hke : k * e ≠ 0 := Nat.mul_ne_zero hk he
    have hscale : signedNum s (n * (k * e)) = signedNum s n * ((k * e : Nat) : Int) := by
      rw [← Bool.bne_false s, signedNum_bne, Bool.bne_false]
      rfl
    rw [hscale, Rat.mkRat_mul_right hke]
  rw [← hprod, Rat.mul_div_cancel hdivisor]

theorem rat_div (hx : rat x = some a) (hy : rat y = some b) (hb : b ≠ 0) : rat (Xr.div x y) = some (a / b) := by
  obtain ⟨s, n, d, rfl, hd, rfl⟩ := rat_eq_some hx
  obtain ⟨t, k, e, rfl, he, rfl⟩ := rat_eq_some hy
  have hk : k ≠ 0 := by rintro rfl; exact hb (by rw [signedNum_zero, Rat.zero_mkRat])
  rw [mkRat_div_mkRat s t n d hk he]
  unfold Xr.div
  dsimp only
  rw [if_neg hk]
  split
  case isTrue hn => rw [hn, Nat.zero_mul, signedNum_zero, Rat.zero_mkRat, rat_zero]
  case isFalse => exact rat_fin _ _ (Nat.mul_ne_zero hd hk)

/-- The order of finite values is that of their fractions. -/
theorem Xr.lt_iff (hx : rat x = some a) (hy : rat y = some b) : Xr.lt x y = true ↔ a < b := by
  obtain ⟨s, n, d, rfl, hd, rfl⟩ := rat_eq_some hx
  obtain ⟨t, k, e, rfl, he, rfl⟩ := rat_eq_some hy
  rw [mkRat_lt_mkRat _ _ hd he, Xr.lt, decide_eq_true_iff]

theorem Xr.le_iff (hx : rat x = some a) (hy : rat y = some b) : Xr.le x y = true ↔ a ≤ b := by
  have hlt := Xr.lt_iff hy hx
  obtain ⟨s, n, d, rfl, -, -⟩ := rat_eq_some hx
  obtain ⟨t, k, e, rfl, -, -⟩ := rat_eq_some hy
  rw [← Rat.not_lt, ← hlt, Bool.not_eq_true]
  exact Iff.of_eq (Bool.not_eq_true' _)

theorem rat_ofInt (n : Int) : rat (Xr.ofInt n) = some (n : Rat) := by
  rw [Xr.ofInt, rat_signed n Nat.one_ne_zero, Rat.mkRat_one]

-- the engines' fractions

theorem ratio_eq_mkRat (p : Q) : ratio p = mkRat p.num p.den := (Rat.mkRat_eq_div p.num p.den).symm

/-- The fraction of a value, as the engines' geometry takes it. -/
theorem ratio_toQ (hx : rat x = some a) : ratio x.toQ = a ∧ x.toQ.den ≠ 0 := by
  obtain ⟨s, n, d, rfl, hd, rfl⟩ := rat_eq_some hx
  exact ⟨ratio_eq_mkRat _, hd⟩

theorem rat_toXr {p : Q} (hp : p.den ≠ 0) : rat p.toXr = some (ratio p) := by
  rw [ratio_eq_mkRat]
  exact rat_signed p.num hp

/-- The difference of a fraction and a natural number. -/
theorem ratio_sub_ofInt {p : Q} (hp : p.den ≠ 0) (n : Nat) :
    ratio (Q.sub p (Q.ofInt n)) = ratio p - (n : Rat) ∧ (Q.sub p (Q.ofInt n)).den ≠ 0 := by
  have hdiff : ratio p - (n : Rat) = mkRat (p.num * (1 : Nat) + -(n : Int) * p.den) (p.den * 1) := by
    rw [ratio_eq_mkRat, Rat.sub_eq_add_neg, ← Rat.intCast_natCast, ← Rat.intCast_neg, ← Rat.mkRat_one, Rat.mkRat_add_mkRat _ _ hp Nat.one_ne_zero]
  rw [hdiff, ratio_eq_mkRat]
  unfold Q.sub Q.add Q.neg Q.ofInt
  dsimp only
  split
  case isTrue h1 => exact ⟨by rw [h1, Int.natCast_one, Int.mul_one, Int.mul_one, Nat.mul_one], hp⟩
  case isFalse => exact ⟨rfl, Nat.mul_ne_zero hp Nat.one_ne_zero⟩

theorem Q.floor_eq {p : Q} (hp : p.den ≠ 0) : p.floor = (ratio p).floor := by
  rw [ratio_eq_mkRat, floor_mkRat p.num hp, Q.floor]

/-- The floor of a seventh of a fraction. -/
theorem Q.floor_div_seven {p : Q} (hp : p.den ≠ 0) : (Q.div p (Q.ofInt 7)).floor = (ratio p).floor / 7 := by
  rw [← Q.floor_eq hp, Q.floor, Q.floor, Int.ediv_ediv_of_nonneg (by omega)]
  show p.num * 1 * 1 / ((p.den * 7 : Nat) : Int) = p.num / ((p.den : Int) * 7)
  rw [Int.mul_one, Int.mul_one, Int.natCast_mul]
  rfl

end Sys2Proof.Machine
end

section
/-! Brick maps: the trilinear form as a rational number (R91), and what a scan of a brick map delivers (R90, R91, R273; O20). -/

namespace Sys2Proof.Machine

open Sys2Proof.Says (rat)

-- the trilinear form

theorem rat_cornerWeight {f : Xr} {a : Rat} (h : rat f = some a) (b : Nat) : rat (cornerWeight f b) = some (if b = 1 then a else 1 - a) := by
  unfold cornerWeight
  split
  · exact h
  · exact rat_sub .rn rat_one h

/-- A weighted sum of fractions is their sum of products. -/
theorem rat_weighted {w v : Nat → Xr} {a s : Nat → Rat} :
    ∀ l : List Nat, (∀ c ∈ l, rat (w c) = some (a c) ∧ rat (v c) = some (s c)) →
      rat (weighted (l.map (fun c => (w c, v c)))) = some (l.map (fun c => a c * s c)).sum
  | [], _ => rat_zero false
  | [c], h => by
    obtain ⟨hw, hv⟩ := h c List.mem_cons_self
    rw [List.map_singleton, List.map_singleton, List.sum_singleton]
    exact rat_mul hw hv
  | c :: e :: r, h => by
    obtain ⟨hw, hv⟩ := h c List.mem_cons_self
    have hrest := rat_weighted (e :: r) (fun j hj => h j (List.mem_cons_of_mem c hj))
    rw [List.map_cons (f := fun c => a c * s c), List.sum_cons]
    exact rat_add .rn (rat_mul hw hv) hrest

/-- A product of fractions, by the axes of a list. -/
theorem rat_foldl_mul {w : Nat → Xr} {a : Nat → Rat} :
    ∀ (l : List Nat) (x : Xr) (q : Rat), rat x = some q → (∀ k ∈ l, rat (w k) = some (a k)) →
      rat (l.foldl (fun acc k => Xr.mul acc (w k)) x) = some ((l.map a).foldl (· * ·) q)
  | [], _, _, hx, _ => hx
  | k :: r, x, q, hx, h =>
    rat_foldl_mul r (Xr.mul x (w k)) (q * a k) (rat_mul hx (h k List.mem_cons_self)) (fun j hj => h j (List.mem_cons_of_mem k hj))

/-- A corner below on an axis, moved up along it, is a corner still. -/
theorem corner_above : ∀ axis < 3, ∀ c < 8, c / 2 ^ axis % 2 = 0 → c + 2 ^ axis < 8 := by decide

section
variable {f s : List Xr} {a t : Nat → Rat} (hf : ∀ k, k < 3 → rat (f.getD k Xr.zero) = some (a k))
  (hs : ∀ c, c < 8 → rat (s.getD c Xr.zero) = some (t c))
include hf hs

/-- The trilinear value of fractions is exactly R91's. -/
theorem rat_trilinear : rat (trilinear f s) = some (Says.lerp a t) := by
  have hweight : ∀ c < 8, rat (Xr.mul (cornerWeight (f.getD 0 Xr.zero) (c % 2)) (Xr.mul (cornerWeight (f.getD 1 Xr.zero) (c / 2 % 2))
      (cornerWeight (f.getD 2 Xr.zero) (c / 4)))) = some (Says.share a c [0, 1, 2]) := by
    intro c hc
    have htop : c / 4 % 2 = c / 4 := Nat.mod_eq_of_lt (by omega)
    rw [rat_mul (rat_cornerWeight (hf 0 (by decide)) _) (rat_mul (rat_cornerWeight (hf 1 (by decide)) _) (rat_cornerWeight (hf 2 (by decide)) _))]
    simp [Says.share, htop, Rat.mul_assoc]
  unfold trilinear Says.lerp
  rw [rat_weighted (List.range 8) (fun c hc => ⟨hweight c (List.mem_range.mp hc), hs c (List.mem_range.mp hc)⟩), List.sum_eq_foldl]

/-- The derivative of the trilinear form of fractions is exactly R91's. -/
theorem rat_slope {axis : Nat} (haxis : axis < 3) : rat (Machine.slope f s axis) = some (Says.lerpSlope a t axis) := by
  have hweight : ∀ c, rat (([0, 1, 2].filter (fun k => decide (k ≠ axis))).foldl
      (fun acc k => Xr.mul acc (cornerWeight (f.getD k Xr.zero) (c / 2 ^ k % 2))) (.fin false 1 1)) =
        some (Says.share a c ([0, 1, 2].filter (fun k => decide (k ≠ axis)))) := by
    intro c
    refine rat_foldl_mul _ _ 1 rat_one (fun k hk => rat_cornerWeight (hf k ?_) _)
    have hk3 : k ∈ List.range 3 := (List.mem_filter.mp hk).1
    exact List.mem_range.mp hk3
  unfold Machine.slope Says.lerpSlope
  rw [rat_weighted _ (fun c hc => ⟨hweight c, ?_⟩), List.sum_eq_foldl]
  obtain ⟨hrange, hlow⟩ := List.mem_filter.mp hc
  have hc8 := List.mem_range.mp hrange
  exact rat_sub .rn (hs _ (corner_above axis haxis c hc8 (of_decide_eq_true hlow))) (hs c hc8)

end

-- scans

/-- A scan goes on with what the scan before it delivers. -/
theorem Scan.run_bind_ok {α β : Type} {x : Scan α} {f : α → Scan β} {u v : State} {a : α} (h : x.run.run u = (.ok a, v)) :
    (x >>= f).run.run u = (f a).run.run v := by
  rw [ExceptT.run_bind, StateT.run_bind, h]
  rfl

theorem Scan.need_true (va : Nat) : Scan.need va true = pure () := rfl

/-- The index in a brick of corner c of the cell at i (R90). -/
def cornerIndex (i : List Nat) (c : Nat) : Nat := (i.getD 0 0 + c % 2) + 8 * (i.getD 1 0 + c / 2 % 2) + 64 * (i.getD 2 0 + c / 4)

/-- The bytes of a sample (R90). -/
def sampleBytes (h : BrickMap) : Nat := if h.s8 then 1 else 2

theorem brickSize_eq (h : BrickMap) : h.brickSize = 512 * sampleBytes h := by
  unfold BrickMap.brickSize sampleBytes
  split <;> rfl

theorem readCorners_cons (p : Port) (h : BrickMap) (val : Nat → Xr) (brick : Nat) (i : List Nat) (c : Nat) (r : List Nat) :
    readCorners p h val brick i (c :: r) = (do
      let v ← p (brick + sampleBytes h * cornerIndex i c) (sampleBytes h)
      let rest ← readCorners p h val brick i r
      pure (val v :: rest)) := by
  rw [readCorners]
  unfold sampleBytes
  split
  · rw [Nat.one_mul]; rfl
  · rfl

/-- The samples of a cell, where every read of a sample gives n. -/
def cornerSamples (h : BrickMap) (fp : Word) (n : Nat → Nat → Nat) (brick : Nat) (i : List Nat) : List Xr :=
  (List.range 8).map (fun c => sampleValue h fp (n (brick + sampleBytes h * cornerIndex i c) (sampleBytes h)))

theorem getD_map_range (f : Nat → Xr) {c n : Nat} (hc : c < n) (d : Xr) : ((List.range n).map f).getD c d = f c := by
  rw [List.getD_eq_getElem?_getD, List.getElem?_map, List.getElem?_range hc]
  rfl

theorem readCorners_run {p : Port} {n : Nat → Nat → Nat} (hp : Says.Reads p n) (h : BrickMap) (val : Nat → Xr) (brick : Nat) (i : List Nat)
    (u : State) : ∀ cs : List Nat, (readCorners p h val brick i cs).run.run u =
      (.ok (cs.map (fun c => val (n (brick + sampleBytes h * cornerIndex i c) (sampleBytes h)))), u)
  | [] => rfl
  | c :: r => by
    rw [readCorners_cons, Scan.run_bind_ok (hp _ _ u), Scan.run_bind_ok (readCorners_run hp h val brick i u r)]
    rfl

-- where a point lies

/-- Coordinate k of g lies outside the map (R91). -/
def outsideAt (h : BrickMap) (g : List Xr) (k : Nat) : Bool :=
  Xr.lt (g.getD k .nan) Xr.zero || Xr.le (Xr.ofInt (7 * (h.size.getD k 0 : Int))) (g.getD k .nan)

theorem outsideAt_inf {h : BrickMap} {g : List Xr} {k : Nat} {s : Bool} (hg : g.getD k .nan = .inf s) : outsideAt h g k = true := by
  rw [outsideAt, hg]
  cases s <;> rfl

theorem outsideAt_iff {h : BrickMap} {g : List Xr} {k : Nat} {x : Rat} (hg : rat (g.getD k .nan) = some x) :
    outsideAt h g k = true ↔ x < 0 ∨ 7 * (h.size.getD k 0 : Rat) ≤ x := by
  rw [outsideAt, Bool.or_eq_true, Xr.lt_iff hg (show rat Xr.zero = some 0 from rat_zero false), Xr.le_iff (rat_ofInt _) hg]
  rw [Rat.intCast_mul, Rat.intCast_natCast]
  rfl

theorem brickAt_outside (p : BrickPort) (h : BrickMap) (fp : Word) (g : List Xr) (hout : (List.range 3).any (outsideAt h g) = true) :
    brickAt p h fp g = pure (f32 h.dclamp, [Xr.zero, Xr.zero, Xr.zero]) := if_pos hout

/-- The brick that a coordinate lies in. -/
def brickOf (x : Xr) : Nat := (Q.div x.toQ (Q.ofInt 7)).floor.toNat

/-- A coordinate within its brick. -/
def withinBrick (x : Xr) : Q := Q.sub x.toQ (Q.ofInt (7 * (brickOf x : Int)))

/-- The cell of its brick that a coordinate lies in. -/
def cellOf (x : Xr) : Nat := (withinBrick x).floor.toNat

/-- A coordinate within its cell. -/
def withinCell (x : Xr) : Xr := (Q.sub (withinBrick x) (Q.ofInt (cellOf x : Int))).toXr

section
variable {x : Xr} {q : Rat} (hx : rat x = some q)
include hx

theorem brickOf_eq : brickOf x = q.floor.toNat / 7 := by
  obtain ⟨hq, hden⟩ := ratio_toQ hx
  rw [brickOf, Q.floor_div_seven hden, hq]
  omega

theorem withinBrick_eq : Says.ratio (withinBrick x) = q - ((7 * (q.floor.toNat / 7) : Nat) : Rat) ∧ (withinBrick x).den ≠ 0 := by
  obtain ⟨hq, hden⟩ := ratio_toQ hx
  have hsub := ratio_sub_ofInt hden (7 * (q.floor.toNat / 7))
  rw [hq, Int.natCast_mul] at hsub
  rw [withinBrick, brickOf_eq hx]
  exact hsub

theorem cellOf_eq : cellOf x = q.floor.toNat % 7 := by
  obtain ⟨hlocal, hden⟩ := withinBrick_eq hx
  rw [cellOf, Q.floor_eq hden, hlocal, floor_sub_natCast]
  omega

theorem rat_withinCell : rat (withinCell x) = some (q - (q.floor.toNat : Rat)) := by
  obtain ⟨hlocal, hden⟩ := withinBrick_eq hx
  obtain ⟨hcell, hden'⟩ := ratio_sub_ofInt hden (q.floor.toNat % 7)
  have hsplit : q - ((7 * (q.floor.toNat / 7) : Nat) : Rat) - ((q.floor.toNat % 7 : Nat) : Rat) = q - (q.floor.toNat : Rat) := by
    rw [Rat.sub_eq_add_neg, Rat.sub_eq_add_neg, Rat.add_assoc, ← Rat.neg_add, ← Rat.natCast_add, Nat.div_add_mod, ← Rat.sub_eq_add_neg]
  rw [withinCell, cellOf_eq hx, rat_toXr hden', hcell, hlocal, hsplit]

end

/-- The distance and the gradient at a point of a brick map, from the map word of its brick (R91). -/
def fromMapWord (p : BrickPort) (h : BrickMap) (fp : Word) (x y z : Xr) (w : Nat) : Scan (Xr × List Xr) := do
  Scan.need h.addr (decide (w / 2 ^ 30 ≠ 3 ∧ (w / 2 ^ 30 ≠ 2 → w % 2 ^ 30 = 0)))
  if w / 2 ^ 30 = 0 then pure (f32 h.dclamp, [Xr.zero, Xr.zero, Xr.zero])
  else if w / 2 ^ 30 = 1 then pure (Xr.neg (f32 h.dclamp), [Xr.zero, Xr.zero, Xr.zero])
  else do
    let base := h.pool + w % 2 ^ 30 * h.brickSize
    p.brick base h.brickSize
    let s ← readCorners p.sample h (sampleValue h fp) base [cellOf x, cellOf y, cellOf z] [0, 1, 2, 3, 4, 5, 6, 7]
    let f := [withinCell x, withinCell y, withinCell z]
    pure (trilinear f s, [0, 1, 2].map (fun a => Xr.div (Machine.slope f s a) (f32 h.voxel)))

/-- Inside the map, the map word of the point's brick is read first. -/
theorem brickAt_inside (p : BrickPort) (h : BrickMap) (fp : Word) (x y z : Xr) (r : List Xr)
    (hin : (List.range 3).any (outsideAt h (x :: y :: z :: r)) = false) :
    brickAt p h fp (x :: y :: z :: r) =
      p.read (h.map + 4 * (brickOf x + h.size.getD 0 0 * (brickOf y + h.size.getD 1 0 * brickOf z))) 4 >>= fromMapWord p h fp x y z :=
  if_neg (ne_true_of_eq_false hin)

theorem fromMapWord_outer (p : BrickPort) (h : BrickMap) (fp : Word) (x y z : Xr) :
    fromMapWord p h fp x y z 0 = pure (f32 h.dclamp, [Xr.zero, Xr.zero, Xr.zero]) := rfl

theorem fromMapWord_inner (p : BrickPort) (h : BrickMap) (fp : Word) (x y z : Xr) :
    fromMapWord p h fp x y z (2 ^ 30) = pure (Xr.neg (f32 h.dclamp), [Xr.zero, Xr.zero, Xr.zero]) := rfl

theorem fromMapWord_present {p : BrickPort} {n : Nat → Nat → Nat} {w : Nat} (hsample : Says.Reads p.sample n)
    (hbrick : ∀ a l s, (p.brick a l).run.run s = (.ok (), s)) (hw : w / 2 ^ 30 = 2) (h : BrickMap) (fp : Word) (x y z : Xr) (u : State) :
    let s := cornerSamples h fp n (h.pool + w % 2 ^ 30 * h.brickSize) [cellOf x, cellOf y, cellOf z]
    let f := [withinCell x, withinCell y, withinCell z]
    (fromMapWord p h fp x y z w).run.run u =
      (.ok (trilinear f s, [0, 1, 2].map (fun a => Xr.div (Machine.slope f s a) (f32 h.voxel))), u) := by
  intro s f
  have hneed : Scan.need h.addr (decide (w / 2 ^ 30 ≠ 3 ∧ (w / 2 ^ 30 ≠ 2 → w % 2 ^ 30 = 0))) = pure () := by
    rw [decide_eq_true (by omega), Scan.need_true]
  unfold fromMapWord
  rw [hneed, pure_bind, if_neg (by omega), if_neg (by omega), Scan.run_bind_ok (hbrick _ _ u),
    Scan.run_bind_ok (readCorners_run hsample h (sampleValue h fp) _ _ u _)]
  rfl

/-- A list with three coordinates that are fractions. -/
theorem three_coordinates {g : List Xr} {q : Nat → Rat} (hg : ∀ k, k < 3 → rat (g.getD k .nan) = some (q k)) :
    ∃ x y z r, g = x :: y :: z :: r ∧ rat x = some (q 0) ∧ rat y = some (q 1) ∧ rat z = some (q 2) := by
  have h0 := hg 0 (by decide)
  have h1 := hg 1 (by decide)
  have h2 := hg 2 (by decide)
  match g with
  | [] => cases h0
  | [_] => cases h1
  | [_, _] => cases h2
  | x :: y :: z :: r => exact ⟨x, y, z, r, rfl, h0, h1, h2⟩

/-- At a point inside the map, what brickAt gives comes from the map word of the point's brick. -/
theorem brickAt_run_inside {p : BrickPort} {m : Nat → Nat → Nat} (hread : Says.Reads p.read m) {h : BrickMap} {g : List Xr} {q : Nat → Rat}
    (hg : ∀ k, k < 3 → rat (g.getD k .nan) = some (q k) ∧ 0 ≤ q k ∧ q k < 7 * (h.size.getD k 0 : Rat)) (fp : Word) (u : State) :
    ∃ x y z, rat x = some (q 0) ∧ rat y = some (q 1) ∧ rat z = some (q 2) ∧
      (brickAt p h fp g).run.run u = (fromMapWord p h fp x y z
        (m (h.map + 4 * ((q 0).floor.toNat / 7 + h.size.getD 0 0 * ((q 1).floor.toNat / 7 + h.size.getD 1 0 * ((q 2).floor.toNat / 7)))) 4)).run.run u := by
  have hin : (List.range 3).any (outsideAt h g) = false := by
    rw [List.any_eq_false]
    intro k hk hout
    obtain ⟨hrat, hlow, hhigh⟩ := hg k (List.mem_range.mp hk)
    exact ((outsideAt_iff hrat).mp hout).elim (Rat.not_lt.mpr hlow) (Rat.not_le.mpr hhigh)
  obtain ⟨x, y, z, r, rfl, hx, hy, hz⟩ := three_coordinates (fun k hk => (hg k hk).1)
  refine ⟨x, y, z, hx, hy, hz, ?_⟩
  rw [brickAt_inside p h fp x y z r hin, Scan.run_bind_ok (hread _ _ u), brickOf_eq hx, brickOf_eq hy, brickOf_eq hz]

/-- The trilinear value of the samples around a point of a brick, and its derivatives over VOXEL (R91). -/
theorem fromMapWord_exact {p : BrickPort} {n : Nat → Nat → Nat} {w : Nat} {h : BrickMap} {fp : Word} {x y z : Xr} {q s : Nat → Rat} {vox : Rat}
    (hsample : Says.Reads p.sample n) (hbrick : ∀ a l s, (p.brick a l).run.run s = (.ok (), s)) (hw : w / 2 ^ 30 = 2)
    (hvox : rat (f32 h.voxel) = some vox) (hpos : 0 < vox) (hx : rat x = some (q 0)) (hy : rat y = some (q 1)) (hz : rat z = some (q 2))
    (hs : ∀ c, c < 8 → rat (sampleValue h fp (n (h.pool + w % 2 ^ 30 * (512 * sampleBytes h) +
      sampleBytes h * cornerIndex [(q 0).floor.toNat % 7, (q 1).floor.toNat % 7, (q 2).floor.toNat % 7] c) (sampleBytes h))) = some (s c)) (u : State) :
    let at_ (k : Nat) : Rat := q k - ((q k).floor.toNat : Rat)
    ∃ d gr, (fromMapWord p h fp x y z w).run.run u = (.ok (d, gr), u) ∧ rat d = some (Says.lerp at_ s) ∧ gr.length = 3 ∧
      ∀ axis, axis < 3 → rat (gr.getD axis .nan) = some (Says.lerpSlope at_ s axis / vox) := by
  intro at_
  have hf : ∀ k, k < 3 → rat ([withinCell x, withinCell y, withinCell z].getD k Xr.zero) = some (at_ k)
    | 0, _ => rat_withinCell hx
    | 1, _ => rat_withinCell hy
    | 2, _ => rat_withinCell hz
  have hcorner : ∀ c, c < 8 → rat ((cornerSamples h fp n (h.pool + w % 2 ^ 30 * h.brickSize) [cellOf x, cellOf y, cellOf z]).getD c Xr.zero) =
      some (s c) := by
    intro c hc
    rw [cornerSamples, getD_map_range _ hc, brickSize_eq, cellOf_eq hx, cellOf_eq hy, cellOf_eq hz]
    exact hs c hc
  refine ⟨_, _, fromMapWord_present hsample hbrick hw h fp x y z u, rat_trilinear hf hcorner, rfl, ?_⟩
  intro axis haxis
  have hslope := rat_div (rat_slope hf hcorner haxis) hvox (Rat.ne_of_gt hpos)
  match axis, haxis with
  | 0, _ => exact hslope
  | 1, _ => exact hslope
  | 2, _ => exact hslope

-- BRKF

theorem bad_eq : RVal.bad = Says.bad := rfl

theorem inF32_eq (fp w : Word) : inF32 fp w = Says.inF fp w := by
  have hsign : decide (w.toNat / 2 ^ (fracBits .f32 + expBits .f32) % 2 = 1) = w.msb := by
    have hlt := w.isLt
    rw [BitVec.msb_eq_decide, decide_eq_decide]
    simp only [fracBits, expBits]
    omega
  simp [inF32, readFmt, Says.inF, fziOf, hsign]

/-- The header is read first. -/
theorem brickValue_run_nan {p : BrickPort} {a : Nat} {h : BrickMap} {u v : State} (hread : (readBrickMap p.read a).run.run u = (.ok h, v)) (fp : Word)
    {pt : List Xr} (hnan : Xr.nan ∈ pt) : (brickValue p a fp pt).run.run u = (.ok [nanW, nanW, nanW, nanW], v) := by
  have hany : pt.any Xr.isNan = true := List.any_eq_true.mpr ⟨.nan, hnan, rfl⟩
  unfold brickValue
  rw [Scan.run_bind_ok hread, if_pos hany]
  rfl

theorem any_isNan_eq_false {l : List Xr} (h : ¬Xr.nan ∈ l) : l.any Xr.isNan = false := by
  rw [List.any_eq_false]
  intro x hx hnan
  match x with
  | .nan => exact h hx
  | .inf _ => cases hnan
  | .fin _ _ _ => cases hnan

/-- Where neither the point nor its rounded coordinates hold a NaN, the distance and the gradient there are rounded (R273). -/
theorem brickValue_run {p : BrickPort} {a : Nat} {h : BrickMap} {fp : Word} {pt : List Xr} {u v t : State} {d : Xr} {gr : List Xr}
    (hread : (readBrickMap p.read a).run.run u = (.ok h, v)) (hpt : ¬Xr.nan ∈ pt) (hg : ¬Xr.nan ∈ brickCoords h pt)
    (hat : (brickAt p h fp (brickCoords h pt)).run.run v = (.ok (d, gr), t)) :
    (brickValue p a fp pt).run.run u = (.ok ((d :: gr).map (outF32 fp .rn)), t) := by
  unfold brickValue
  rw [Scan.run_bind_ok hread, if_neg (ne_true_of_eq_false (any_isNan_eq_false hpt))]
  dsimp only
  rw [if_neg (ne_true_of_eq_false (any_isNan_eq_false hg)), Scan.run_bind_ok hat]
  rfl

section
variable {c : Ctx} {u : State} {a : DVal} {p : List RVal} (ha : srcD u c .n64 c.raw.a = .ok a) (hgood : a.poison = false)
  (halign : a.bits.toNat % 4 = 0) (hp : srcN u c c.raw.b 3 = .ok p)
include ha hgood halign hp

theorem actBrkf_ok {vs : List Word} {v : State}
    (hr : (brickValue (threadPort c) a.bits.toNat (fpctlOf u c) (p.map (fun x => inF32 (fpctlOf u c) x.bits))).run.run u = (.ok vs, v)) :
    actBrkf c u = .ok (postResult v c.k (dests c 4) (some (vs.map (fun x => ⟨x, anyBad p⟩))) .plain) := by
  simp [actBrkf, ha, hp, hgood, halign, hr, bind, Except.bind]

theorem actBrkf_fault {va : Nat} {e : MFault} {v : State}
    (hr : (brickValue (threadPort c) a.bits.toNat (fpctlOf u c) (p.map (fun x => inF32 (fpctlOf u c) x.bits))).run.run u = (.error (.fault va e), v)) :
    actBrkf c u = .ok (postResult (notePoison v c.k c.pc.toNat (va, .global) e.code) c.k (dests c 4) (some (List.replicate 4 Says.bad)) .plain) := by
  simp [actBrkf, ha, hp, hgood, halign, hr, bad_eq, bind, Except.bind]

end

end Sys2Proof.Machine

namespace Sys2Proof

open Sys2Proof.Machine

/-- Settles O20. BRKF itself by the two ways it ends, and the value it delivers by where the point lies: outside the map, or in a brick
whose map word says that it is empty or present. -/
theorem brickFetchResult : Obligations.BrickFetchResult := by
  unfold Obligations.BrickFetchResult
  refine ⟨?completes, ?value, ?outside, ?inside⟩
  case completes =>
    intro w s b t hexec
    refine congrArg Host.Outcome.next (hexec.issue (f := actBrkf) ?_)
    rintro k u v ⟨a, p, ha, hgood, halign, hp, hend⟩
    simp only [← inF32_eq] at hend
    obtain ⟨vs, hvs, rfl⟩ | ⟨va, e, hfault, rfl⟩ := hend
    · exact actBrkf_ok ha hgood halign hp (Prod.ext hvs rfl)
    · exact actBrkf_fault ha hgood halign hp (Prod.ext hfault rfl)
  case value =>
    intro p a fp pt u v h hread
    exact ⟨brickValue_run_nan hread fp, fun hpt hg d gr t hat => brickValue_run hread hpt hg hat⟩
  case outside =>
    rintro p h fp g u ⟨k, hk, hcoord⟩
    have hout : outsideAt h g k = true := by
      obtain ⟨s, hinf⟩ | ⟨x, hrat, hbeyond⟩ := hcoord
      · exact outsideAt_inf hinf
      · exact (outsideAt_iff hrat).mpr hbeyond
    rw [brickAt_outside p h fp g (List.any_eq_true.mpr ⟨k, List.mem_range.mpr hk, hout⟩)]
    rfl
  case inside =>
    intro p h fp g q m n vox u hread hsample hbrick hvox hpos hg cell at_ w value
    obtain ⟨x, y, z, hx, hy, hz, hvalue⟩ := brickAt_run_inside hread hg fp u
    change value = (fromMapWord p h fp x y z w).run.run u at hvalue
    rw [hvalue]
    refine ⟨fun hw => ?empty, fun hw => ?full, fun hw s hs => ?present⟩
    case empty => rw [hw, fromMapWord_outer]; rfl
    case full => rw [hw, fromMapWord_inner]; rfl
    case present => exact fromMapWord_exact (q := q) (s := s) hsample hbrick hw hvox hpos hx hy hz hs u

end Sys2Proof
end

section
/-! Calls: what CALL, CALLI and RET do for a thread that takes no trap, and the obligation about them (O10). -/

namespace Sys2Proof.Machine

@[simp] theorem length_leBytes (n : Nat) : ∀ v : Nat, (leBytes n v).length = n := by
  induction n with
  | zero => intro v; rfl
  | succ n ih => intro v; rw [leBytes, List.length_cons, ih]

/-- The offset field of a format-J word is the low 19 bits of its immediate. -/
theorem ofNat_imm_rawJ (op : Nat) (w : JForm) : BitVec.ofNat 19 (rawJ op w).imm = w.off := by
  apply BitVec.eq_of_toNat_eq
  have hoff : w.off.toNat < 524288 := w.off.isLt
  rw [BitVec.toNat_ofNat]
  simp only [rawJ]
  omega

theorem jTarget_rawJ {c : Ctx} {op : Nat} {w : JForm} (h : c.raw = rawJ op w) : jTarget c = Says.target c.pc w := by
  rw [jTarget, h, ofNat_imm_rawJ, BitVec.mul_comm, Says.target]

/-- A store whose checks pass stores at its place (R240). -/
theorem storeThread_writable {s : State} {c : Ctx} {sp : Space} {a : Nat} {bs : List Byte} {l : Loc} {pg : Option Page}
    (h : Says.Writable s c.k sp a bs.length .w l pg) (acc : Acc) :
    storeThread s c sp acc a bs = .ok (storeAt (noteAccess s c.k sp acc (.ok l pg)) c.k acc l bs) := by
  obtain ⟨halign, hplace, hbus⟩ := h
  simp [storeThread, storePlace, storeFound, halign, hplace, hbus]

theorem toNat_sub_eight {x : Word} (h : 8 ≤ x.toNat) : (x - 8).toNat = x.toNat - 8 :=
  BitVec.toNat_sub_of_le (BitVec.le_def.mpr h)

/-- A call with room on its stack pushes the return address and its class below CSP, and goes to its target (R136, R175). -/
theorem pushCall_ok {s : State} {c : Ctx} {l : Loc} {pg : Option Page} (target : Word) {fromReg : Bool}
    (hroom : 8 ≤ (getThread s c.k).csp.toNat) (halign : fromReg = true → target.toNat % 4 = 0)
    (hplace : Says.Writable s c.k .priv ((getThread s c.k).csp.toNat - 8) 8 .w l pg) :
    pushCall c s target fromReg = .ok (Says.goes
      (modThread (storeAt (noteAccess s c.k .priv (Says.storeAs .priv 0 0) (.ok l pg)) c.k (Says.storeAs .priv 0 0) l
        (leBytes 8 ((returnAddr s).toNat + Says.classBit c.form * 2 ^ 32))) c.k (fun t => { t with csp := t.csp - 8 })) c.k target) := by
  have hgoes : ¬(fromReg = true ∧ target.toNat % 4 ≠ 0) := fun ⟨hreg, h⟩ => h (halign hreg)
  have hstore := fun mark => storeThread_writable (bs := leBytes 8 ((returnAddr s).toNat + mark)) (by rw [length_leBytes]; exact hplace)
    (storeAcc .priv 0 0)
  unfold pushCall
  rw [if_neg (by omega), if_neg hgoes, toNat_sub_eight hroom]
  obtain ⟨k, form, pc, raw⟩ := c
  cases form with
  | d => simp only [hstore, Says.classBit, Nat.zero_mul]; rfl
  | l => simp only [hstore, Says.classBit, Nat.one_mul]; rfl

/-- A return whose entry can be read and fits its class raises CSP and goes to the entry's PC (R136, R176). -/
theorem actRet_ok {s u : State} {c : Ctx} {l : Loc} {pg : Option Page} {e : Nat}
    (hroom : (getThread s c.k).csp.toNat + 8 ≤ (teamOf s c.k).desc.priv)
    (hplace : resolve s c.k .priv (getThread s c.k).csp.toNat 8 .r = .ok l pg)
    (hread : readAs (noteAccess s c.k .priv (Says.loadAs .priv 0 0) (.ok l pg)) c.k (Says.loadAs .priv 0 0) l 8 = .ok (e, u))
    (hclass : e / 2 ^ 32 % 2 = Says.classBit c.form) (halign : e % 4 = 0) :
    actRet c s = .ok (Says.goes (modThread u c.k (fun t => { t with csp := t.csp + 8 })) c.k (BitVec.ofNat 32 e)) := by
  have hread' : readAs (noteAccess s c.k .priv (loadAcc .priv 0 0) (.ok l pg)) c.k (loadAcc .priv 0 0) l 8 = .ok (e, u) := hread
  have hpc : ¬(wd e).toNat % 4 ≠ 0 := by
    rw [wd, BitVec.toNat_ofNat]
    omega
  have hform : ¬e / 2 ^ 32 % 2 ≠ (match c.form with | .d => 0 | .l => 1) := fun h => h hclass
  unfold actRet
  simp only [hplace, hread']
  rw [if_neg (by omega)]
  exact (if_neg hform).trans (if_neg hpc)

end Sys2Proof.Machine

namespace Sys2Proof

open Sys2Proof.Machine

/-- Settles O10. Each instruction is issued thread by thread, and does for each thread what the law of its function above says. -/
theorem callResult : Obligations.CallResult := by
  unfold Obligations.CallResult
  refine ⟨?call, ?calli, ?ret⟩
  case call =>
    intro w s b t h
    refine congrArg Host.Outcome.next (h.issue (f := actCall) ?_)
    rintro k u v ⟨l, pg, hroom, hplace, rfl⟩
    have htarget : jTarget (ctxOf b (.call w) k) = Says.target b.pc w := jTarget_rawJ (op := 0x46) rfl
    rw [actCall, htarget]
    exact pushCall_ok _ hroom (fun hreg => nomatch hreg) hplace
  case calli =>
    intro w s b t h
    refine congrArg Host.Outcome.next (h.issue (f := actCalli) ?_)
    rintro k u v ⟨x, hx, hclean, halign, l, pg, hroom, hplace, rfl⟩
    have hsrc : src u (ctxOf b (.calli w) k) .int (ctxOf b (.calli w) k).raw.a = .ok x := hx
    have hpush : actCalli (ctxOf b (.calli w) k) u = pushCall (ctxOf b (.calli w) k) u x.bits true := by
      rw [actCalli, hsrc]
      exact if_neg (by rw [hclean]; decide)
    rw [hpush]
    exact pushCall_ok _ hroom (fun _ => halign) hplace
  case ret =>
    intro w s b t h
    refine congrArg Host.Outcome.next (h.issue (f := actRet) ?_)
    rintro k u v ⟨l, pg, e, u1, hroom, hplace, hread, hclass, halign, rfl⟩
    exact actRet_ok hroom hplace hread hclass halign

end Sys2Proof
end

section
/-! The events of threads: overdue threads, join waits, results that arrive, moves and mismatches, and the obligation about them (O38). -/

namespace Sys2Proof.Machine

-- records put twice

/-- Of two values put at one key the later stands. -/
@[simp] theorem kput_kput {α : Type} (m : KMap α) (k : Nat) (v w : α) : kput (kput m k v) k w = kput m k w := by
  induction m with
  | nil => simp [kput]
  | cons e r ih =>
    obtain ⟨j, u⟩ := e
    by_cases hlt : k < j
    · simp [kput, hlt]
    · by_cases heq : k = j
      · simp [kput, heq]
      · simp [kput, hlt, heq, ih]

@[simp] theorem setThread_setThread (s : State) (k : Nat) (t u : Thread) : setThread (setThread s k t) k u = setThread s k u := by
  simp [setThread]

theorem getThread_of_kfind {s : State} {k : Nat} {t : Thread} (h : kfind s.threads k = some t) : getThread s k = t := by
  rw [getThread, h, Option.getD_some]

theorem modThread_of_kfind {s : State} {k : Nat} {t : Thread} (h : kfind s.threads k = some t) (f : Thread → Thread) :
    modThread s k f = setThread s k (f t) := by
  rw [modThread, getThread_of_kfind h]

-- ages (R140, R144)

/-- Where a thread's age has reached 64, all those of the picker that are due become overdue with it, under one number (R140). -/
theorem promoteOverdue_due {s : State} {k : Nat} {t : Thread} {ks : List Nat} (ht : kfind s.threads k = some t) (hage : 64 ≤ t.age)
    (hnew : t.overdue = none) (hlive : t.exited = false) (hk : k ∈ ks) :
    promoteOverdue s ks =
      (ks.filter (fun j => decide (64 ≤ (getThread s j).age ∧ (getThread s j).overdue = none) && !(getThread s j).exited)).foldl
        (fun u j => modThread u j (fun t => { t with overdue := some s.fresh })) { s with fresh := s.fresh + 1 } := by
  refine if_neg (List.ne_nil_of_mem (List.mem_filter.mpr ⟨hk, ?_⟩))
  simp [getThread_of_kfind ht, hage, hnew, hlive]

theorem endJoin_over {s : State} {k n : Nat} {t : Thread} (ht : kfind s.threads k = some t) (hwait : t.wait = .join n) (hn : 32 ≤ n) :
    endJoin s k = setThread s k { t with wait := .none, age := 0, overdue := none } := by
  unfold endJoin
  simp only [getThread_of_kfind ht, hwait, if_pos hn]
  exact modThread_of_kfind ht _

-- results that arrive (R147)

/-- A thread whose results have just been delivered is ready once it was entering its handler and none is left (R400). -/
theorem enteredHandler_deliver {s : State} {k : Nat} {t : Thread} (ht : kfind s.threads k = some t) (m : Pending → Bool) :
    enteredHandler (deliver s k m) k =
      setThread s k (if (t.deliver m).wait = .entering ∧ (t.deliver m).pend = [] then { t.deliver m with wait := .none } else t.deliver m) := by
  rw [deliver, modThread_of_kfind ht, enteredHandler, modThread, getThread_setThread, setThread_setThread]

/-- A result arrives when its value has come, no earlier special-function result of the thread is to come before it, and none of its
group holds it back (R147, R197). -/
theorem execResultArrival_ready {s : State} {k j : Nat} {t : Thread} {p : Pending} (ht : kfind s.threads k = some t)
    (hp : t.pend[j]? = some p) (hvalue : p.value.isSome = true)
    (hfirst : p.sfuOp.isSome = true → (t.pend.take j).all (fun q => q.sfuOp.isNone) = true) (hheld : sfuHeld s k p = false) :
    execResultArrival k j s = .next (enteredHandler (deliver s k (fun q => decide (q.tag = p.tag))) k) := by
  have hearlier : (p.sfuOp.isSome && (t.pend.take j).any (fun q => q.sfuOp.isSome)) = false := by
    rw [Bool.and_eq_false_imp]
    intro hsfu
    simpa using hfirst hsfu
  have hnone : p.value.isNone = false := by
    rw [← Option.not_isSome, hvalue]
    rfl
  simp [execResultArrival, ht, hp, hnone, hearlier, hheld]

-- moves and mismatches (R204, R223)

theorem execGroupMove_made {s : State} {g : Nat} {m : Move} (hm : (getGroup s g).moving = some m)
    (hkilled : (getTeam s (g / 32)).killed = false) (hpend : ∀ k ∈ liveOfGroup s g, ∀ p ∈ (getThread s k).pend, p.value.isSome = true) :
    execGroupMove g s = .next (makeMove s g m) := by
  have hcome : (liveOfGroup s g).any (fun k => (getThread s k).pend.any (fun p => p.value.isNone)) = false := by
    simpa [List.any_eq_false, Option.isSome_iff_ne_none] using hpend
  simp [execGroupMove, hm, hkilled, hcome]

/-- The trap of a mismatched thread at the instruction where it is blocked (R204). -/
def mismatchTrap (s u : State) (k : Nat) : State :=
  match blockedAt s k with
  | some (_, i, q) => enterTrap u k Trap.barerr 0x10 none { pc := i.pc, word := i.words.headD 0, word2 := secondWord i.words, resume := i.pc, seq := q }
  | none => u

/-- In a group whose live threads are blocked at different places each of them traps (R204). -/
theorem mismatch_apart {s : State} {g : Nat} (hg : (kfind s.groups g).isSome = true)
    (hb : bundleAt s (getGroup s g).core (pickerOf s g) = none) (hon : g ∈ groupsOn s (getGroup s g).core (pickerOf s g))
    (hblocked : ∀ k ∈ liveOfGroup s g, (blockedAt s k).isSome = true) (hout : ∀ k ∈ liveOfGroup s g, (getThread s k).intrap = false)
    (hapart : ∃ k ∈ liveOfGroup s g, ∃ j ∈ liveOfGroup s g, (blockedAt s j).map (·.1) ≠ (blockedAt s k).map (·.1)) :
    mismatch s g = (liveOfGroup s g).foldl (fun u k => mismatchTrap s u k) s := by
  obtain ⟨k, hk, j, hj, hne⟩ := hapart
  have hstands : ¬((kfind s.groups g).isNone = true ∨
      (bundleAt s (getGroup s g).core (pickerOf s g)).any (fun b => b.threads.any (fun k => decide (keyGroup k = g))) = true ∨
      ¬g ∈ groupsOn s (getGroup s g).core (pickerOf s g)) := by
    rw [hb]
    simp [Option.isSome_iff_ne_none.mp hg, hon]
  unfold mismatch
  rw [if_neg hstands]
  generalize hlive : liveOfGroup s g = ks at *
  cases ks with
  | nil => cases hk
  | cons h r =>
    have hnotall : ¬∀ i ∈ h :: r, (blockedAt s i).map (·.1) = (blockedAt s h).map (·.1) :=
      fun hall => hne ((hall j hj).trans (hall k hk).symm)
    have hall : ((h :: r).map (fun i => (i, blockedAt s i))).all (fun e => decide (e.2.map (·.1) = (blockedAt s h).map (·.1))) = false := by
      rw [← Bool.not_eq_true]
      simpa only [List.all_map, List.all_eq_true, Function.comp_apply, decide_eq_true_eq] using hnotall
    have hsome : ((h :: r).map (fun i => (i, blockedAt s i))).any (fun e => e.2.isNone) = false := by
      simpa [Option.isSome_iff_ne_none] using hblocked
    have hinside : (h :: r).any (fun i => (getThread s i).intrap) = false := by simpa using hout
    dsimp only
    rw [if_neg (by rw [hinside, hsome, hall]; decide), List.foldl_map]
    refine congrArg (fun f => List.foldl f s (h :: r)) (funext fun u => funext fun i => ?_)
    unfold mismatchTrap
    cases blockedAt s i with
    | none => rfl
    | some e => rfl

end Sys2Proof.Machine

namespace Sys2Proof

open Sys2Proof.Machine

/-- Settles O38. Each clause is the law above of the event's own function. -/
theorem threadEventResult : Obligations.ThreadEventResult := by
  unfold Obligations.ThreadEventResult
  refine ⟨⟨?overdue, ?join, ?arrival⟩, ?move, ?mismatch⟩
  case overdue =>
    intro s k t ht hage hnew hlive gs hg hk
    have hwaits : ¬((kfind s.threads k).isNone = true ∨ (getThread s k).age < 64) := by
      rw [getThread_of_kfind ht, ht]
      exact fun h => h.elim (fun hnone => nomatch hnone) (Nat.not_lt.mpr hage)
    refine congrArg Host.Outcome.next ((if_neg hwaits).trans ((if_pos hg).trans ?_))
    exact promoteOverdue_due ht hage hnew hlive hk
  case join =>
    intro s k n t ht hwait hn
    refine congrArg Host.Outcome.next ((if_neg ?_).trans (endJoin_over ht hwait hn))
    rw [ht]
    exact fun hnone => nomatch hnone
  case arrival =>
    intro s k j t p ht hp hvalue hfirst hheld
    exact (execResultArrival_ready ht hp hvalue hfirst hheld).trans (congrArg Host.Outcome.next (enteredHandler_deliver ht _))
  case move =>
    intro s g m hm hkilled hpend
    exact execGroupMove_made hm hkilled hpend
  case mismatch =>
    intro s g hg hb hon hblocked hout hapart
    exact congrArg Host.Outcome.next (mismatch_apart hg hb hon hblocked hout hapart)

end Sys2Proof
end

section
/-! Picks: the order of keys, the key and the threads that a pick takes, and the obligation about them (O37). -/

namespace Sys2Proof.Machine

-- the order of keys (R139)

/-- What keys are compared by: the ready threads at the key, the PC, and the address of the resident descriptor. -/
def keyRank (s : State) (rdy : List Standing) (x : Standing) : Nat × Nat × Nat :=
  ((rdy.filter (fun y => sameKey s x.k y.k)).length, (getThread s x.k).pc.toNat, (teamOf s x.k).desc.addr)

/-- More threads come first, then the lower PC, then the lower descriptor. -/
def rankBefore (a b : Nat × Nat × Nat) : Prop := b.1 < a.1 ∨ a.1 = b.1 ∧ (a.2.1 < b.2.1 ∨ a.2.1 = b.2.1 ∧ a.2.2 < b.2.2)

theorem keyBetter_iff (s : State) (rdy : List Standing) (a b : Standing) :
    keyBetter s rdy a b = true ↔ rankBefore (keyRank s rdy a) (keyRank s rdy b) := by
  unfold keyBetter rankBefore keyRank
  dsimp only
  split
  · rw [decide_eq_true_eq]
    omega
  · split
    · rw [decide_eq_true_eq]
      omega
    · rw [decide_eq_true_eq]
      omega

theorem keyBetter_self (s : State) (rdy : List Standing) (a : Standing) : keyBetter s rdy a a = false := by
  rw [← Bool.not_eq_true, keyBetter_iff]
  unfold rankBefore
  omega

/-- Of two keys at most one beats the other. -/
theorem keyBetter_asymm {s : State} {rdy : List Standing} {a b : Standing} (h : keyBetter s rdy a b = true) : keyBetter s rdy b a = false := by
  rw [← Bool.not_eq_true, keyBetter_iff]
  rw [keyBetter_iff] at h
  unfold rankBefore at *
  omega

/-- The order of keys is negatively transitive: one that does not beat b, which does not beat a, does not beat a. -/
theorem not_keyBetter_trans {s : State} {rdy : List Standing} {a b c : Standing} (hba : keyBetter s rdy b a = false)
    (hcb : keyBetter s rdy c b = false) : keyBetter s rdy c a = false := by
  rw [← Bool.not_eq_true, keyBetter_iff] at hba hcb ⊢
  unfold rankBefore at *
  omega

/-- The better of the best key so far and the next. -/
def betterOf (s : State) (rdy : List Standing) (b : Option Standing) (x : Standing) : Option Standing :=
  match b with
  | none => some x
  | some y => if keyBetter s rdy x y then some x else some y

/-- Of a key and those of a list the best is one that none of them beats. -/
theorem foldl_betterOf (s : State) (rdy : List Standing) : ∀ (xs : List Standing) (b : Standing),
    ∃ x, xs.foldl (betterOf s rdy) (some b) = some x ∧ x ∈ b :: xs ∧ ∀ y ∈ b :: xs, keyBetter s rdy y x = false := by
  intro xs
  induction xs with
  | nil => exact fun b => ⟨b, rfl, List.mem_singleton_self b, fun y hy => by rw [List.mem_singleton.mp hy, keyBetter_self]⟩
  | cons x xs ih =>
    intro b
    by_cases hx : keyBetter s rdy x b = true
    · obtain ⟨z, hz, hmem, hbest⟩ := ih x
      refine ⟨z, by simpa [betterOf, hx] using hz, List.mem_cons_of_mem b hmem, List.forall_mem_cons.mpr ⟨?_, hbest⟩⟩
      exact not_keyBetter_trans (hbest x List.mem_cons_self) (keyBetter_asymm hx)
    · obtain ⟨z, hz, hmem, hbest⟩ := ih b
      obtain ⟨hb, hrest⟩ := List.forall_mem_cons.mp hbest
      have hxb : keyBetter s rdy x b = false := Bool.eq_false_iff.mpr hx
      refine ⟨z, by simpa [betterOf, hxb] using hz, ?_, ?_⟩
      · exact (List.mem_cons.mp hmem).elim (fun h => h ▸ List.mem_cons_self) (fun h => List.mem_cons_of_mem b (List.mem_cons_of_mem x h))
      · exact List.forall_mem_cons.mpr ⟨hb, List.forall_mem_cons.mpr ⟨not_keyBetter_trans hb hxb, hrest⟩⟩

/-- With no thread overdue the key taken is the best of all (R139). -/
theorem chooseKey_not_overdue {s : State} {rdy : List Standing} (h : ∀ y ∈ rdy, y.overdue = none) :
    chooseKey s rdy = rdy.foldl (betterOf s rdy) none := by
  refine if_pos (List.filter_eq_nil_iff.mpr (fun y hy => ?_))
  rw [h y hy]
  decide

-- the threads that a pick takes (R139, R142)

@[simp] theorem length_insertBy (le : Nat → Nat → Bool) (k : Nat) (l : List Nat) : (insertBy le k l).length = l.length + 1 := by
  induction l with
  | nil => rfl
  | cons j r ih =>
    unfold insertBy
    split
    · rfl
    · rw [List.length_cons, ih, List.length_cons]

@[simp] theorem length_bundleOrder (s : State) (ks : List Nat) : (bundleOrder s ks).length = ks.length := by
  unfold bundleOrder
  induction ks with
  | nil => rfl
  | cons k r ih => rw [sortBy, length_insertBy, ih, List.length_cons]

theorem length_liveOfGroup_le (s : State) (g : Nat) : (liveOfGroup s g).length ≤ 32 := by
  calc (liveOfGroup s g).length
    _ ≤ (launchedOfGroup s g).length := List.length_filter_le _ _
    _ ≤ ((List.range 32).map (fun t => groupThread g t)).length := List.length_filter_le _ _
    _ = 32 := by rw [List.length_map, List.length_range]

theorem length_chooseThreads_le (s : State) (rdy : List Standing) (x : Standing) : (chooseThreads s rdy x).length ≤ 32 := by
  unfold chooseThreads
  dsimp only
  split
  · exact Nat.zero_le 32
  · split
    · rw [length_bundleOrder]
      exact length_liveOfGroup_le s _
    · rw [length_bundleOrder, List.length_map]
      exact List.length_take_le 32 _

-- the turn of a picker

/-- A pick is made on a picker of a core that has no bundle and is not to halt (R139, R151). -/
theorem execPick_free {s : State} {core picker : Nat} (hcore : core < 216) (hpicker : picker < pickersOf (classOfCore core))
    (hb : bundleAt s core picker = none) (hhalt : haltingOn s core = false) : execPick core picker s = .next (pickTurn s core picker) := by
  refine congrArg Host.Outcome.next (if_neg ?_)
  rw [hb, hhalt]
  rintro (h | h | h | h)
  · omega
  · omega
  · cases h
  · cases h

/-- What a pick that takes the threads chosen of those ready leaves before they enter their bundle: the threads' ages, the picker's
BUSYPICKS, and no offer declined in their groups (R139, R140, R226, R227). -/
def picked (s : State) (core picker : Nat) (ks : List Nat) (rdy : List Standing) (chosen : List Nat) : State :=
  let aged := rdy.foldl (fun s y =>
    modThread s y.k (fun t => if y.k ∈ chosen then { t with age := 0, overdue := none } else { t with age := t.age + 1 }))
    (countPick s core (groupsBound s core picker) ks)
  let left := decide (classOfCore core = .l ∧ chosen.length < rdy.length)
  let busy := modCore aged core (fun c =>
    { c with busyPicks := kset 0 c.busyPicks picker (if left then min 256 (kget 0 c.busyPicks picker + 1) else 0) })
  (dedup (chosen.map keyGroup)).foldl (fun s g => modGroup s g (fun y => { y with declined := false })) busy

/-- A pick in which no group is offered a move takes its threads as a bundle (R139). -/
theorem takePick_no_offer {s : State} {core picker k : Nat} {ks r : List Nat} {rdy : List Standing} {x : Standing}
    (hchosen : chooseThreads s rdy x = k :: r) (hoffer : ∀ g, offerOf s core picker (k :: r) g = none) :
    takePick s core picker ks rdy x = enterBundle (picked s core picker ks rdy (k :: r)) core picker k (k :: r) := by
  have hoffers : ∀ gs : List Nat, gs.filterMap (fun g => (offerOf s core picker (k :: r) g).map (fun o => (g, o))) = [] :=
    fun gs => List.filterMap_eq_nil_iff.mpr (fun g _ => by rw [hoffer]; rfl)
  have hrest : (k :: r).filter (fun _ => true) = k :: r := List.filter_eq_self.mpr (fun _ _ => rfl)
  unfold takePick
  rw [hchosen]
  simp only [hoffers, List.all_nil, List.foldl_nil, hrest]
  exact if_neg (fun h => h.1 rfl)

/-- A thread is able to be ready when its entry's words are held, nothing holds it, and no pending result stands in the way (R138). -/
theorem able_standingOf {s : State} {k : Nat} {e : Entry} (he : codeEntry s k = .ok e) :
    (standingOf s k).able = true ↔ (getThread s k).wait = .none ∧ entryHeld s k e = true ∧ pendClear s k e = true := by
  unfold standingOf
  simp only [he, Bool.and_eq_true, decide_eq_true_eq, and_assoc]

theorem entryHeld_iff (s : State) (k : Nat) (e : Entry) : entryHeld s k e = true ↔ ∀ i, i < e.code.length →
    (codeLine (getCore s (groupOf s k).core) (teamOf s k).asid (baseOf s k (classOf s k) + e.base.toNat + 4 * i)).isSome = true := by
  simp [entryHeld, entryWords]

end Sys2Proof.Machine

namespace Sys2Proof

open Sys2Proof.Machine

/-- Settles O37. The order of keys is that of their ranks, so the key that a pass over the ready threads keeps is one that none of theirs
beats; the turn itself is the law above of each of its two ends. -/
theorem pickResult : Obligations.PickResult := by
  unfold Obligations.PickResult
  refine ⟨?turn, ?key, length_chooseThreads_le, ?able⟩
  case turn =>
    intro s core picker hcore hpicker hb hhalt
    have hpick := execPick_free hcore hpicker hb hhalt
    refine ⟨fun hnone => ?_, fun x k r hkey hchosen hoffer => ?_⟩
    · refine hpick.trans (congrArg Host.Outcome.next ?_)
      unfold pickTurn
      simp only [hnone]
    · refine hpick.trans (congrArg Host.Outcome.next ?_)
      unfold pickTurn
      simp only [hkey]
      exact takePick_no_offer hchosen hoffer
  case key =>
    intro s rdy h
    rw [chooseKey_not_overdue h]
    cases rdy with
    | nil => exact ⟨fun _ => rfl, fun x hx => (nomatch hx)⟩
    | cons b xs =>
      obtain ⟨z, hz, hmem, hbest⟩ := foldl_betterOf s (b :: xs) xs b
      have hfold : (b :: xs).foldl (betterOf s (b :: xs)) none = some z := hz
      rw [hfold]
      exact ⟨fun h => (nomatch h), fun x hx => by cases hx; exact ⟨hmem, hbest⟩⟩
  case able =>
    intro s k e he hable
    obtain ⟨hwait, hheld, hclear⟩ := (able_standingOf he).mp hable
    exact ⟨hwait, hclear, (entryHeld_iff s k e).mp hheld⟩

end Sys2Proof
end

section
/-! Steps: what the passing of time leaves alone, what a turn executes, the code of a run, and the obligation about them (O51). -/

namespace Sys2Proof.Machine

-- what the counters and their samples leave alone (R435)

/-- State t has the threads, groups, teams, grids and bundles of s, its time and its free values. -/
structure SameWork (s t : State) : Prop where
  threads : t.threads = s.threads
  groups : t.groups = s.groups
  teams : t.teams = s.teams
  grids : t.grids = s.grids
  fresh : t.fresh = s.fresh
  clock : t.clock = s.clock
  bundles : ∀ core picker, bundleAt t core picker = bundleAt s core picker

namespace SameWork

theorem refl (s : State) : SameWork s s := ⟨rfl, rfl, rfl, rfl, rfl, rfl, fun _ _ => rfl⟩

theorem trans {s t u : State} (h : SameWork s t) (h' : SameWork t u) : SameWork s u :=
  ⟨h'.threads.trans h.threads, h'.groups.trans h.groups, h'.teams.trans h.teams, h'.grids.trans h.grids, h'.fresh.trans h.fresh,
    h'.clock.trans h.clock, fun core picker => (h'.bundles core picker).trans (h.bundles core picker)⟩

/-- Time that passes in both states leaves them alike. -/
theorem at_clock {s t : State} (h : SameWork s t) (c : Nat) : SameWork { s with clock := c } { t with clock := c } :=
  ⟨h.threads, h.groups, h.teams, h.grids, h.fresh, rfl, h.bundles⟩

theorem foldl {α : Type} {f : State → α → State} (hf : ∀ s x, SameWork s (f s x)) : ∀ (xs : List α) (s : State), SameWork s (xs.foldl f s)
  | [], s => refl s
  | x :: xs, s => (hf s x).trans (foldl hf xs (f s x))

/-- A change of a core's record that keeps its bundles. -/
theorem modCore (s : State) (c : Nat) {f : Core → Core} (hf : ∀ x, (f x).bundles = x.bundles) : SameWork s (Machine.modCore s c f) := by
  refine ⟨rfl, rfl, rfl, rfl, rfl, rfl, fun core picker => ?_⟩
  unfold bundleAt
  by_cases h : core = c
  · rw [h, getCore_modCore, hf]
  · rw [getCore_modCore_ne s c core f h]

end SameWork

theorem sameWork_bump (s : State) (c n k : Nat) : SameWork s (bump s c n k) := .modCore s c (fun _ => rfl)

/-- A ring's records keep the work. -/
theorem sameWork_ringWrite (s : State) (r : Ring) (sz : Nat) (recs : List (List Byte)) : SameWork s (ringWrite s r sz recs).1 := by
  obtain ⟨m, o, h⟩ := ringWrite_state s r sz recs
  rw [h]
  exact ⟨rfl, rfl, rfl, rfl, rfl, rfl, fun _ _ => rfl⟩

theorem sameWork_sampleCore (at_ : Nat) (s : State) (core : Nat) : SameWork s (sampleCore at_ s core) := by
  unfold sampleCore
  extract_lets c r
  split
  · exact .refl s
  · have hring : SameWork s { r.1 with counterRing := r.2 } :=
      (sameWork_ringWrite s s.counterRing 64 _).trans ⟨rfl, rfl, rfl, rfl, rfl, rfl, fun _ _ => rfl⟩
    exact hring.trans (.modCore _ core (fun _ => rfl))

theorem sameWork_nextTick (s : State) (n : Nat) : SameWork s { s with nextTick := n } := ⟨rfl, rfl, rfl, rfl, rfl, rfl, fun _ _ => rfl⟩

theorem sameWork_sampleTick (s : State) : SameWork s (sampleTick s) := by
  unfold sampleTick
  extract_lets p
  split
  · exact .refl s
  · exact (SameWork.foldl (sameWork_sampleCore s.nextTick) (List.range 216) s).trans (sameWork_nextTick _ _)

theorem sameWork_countCycles (n : Nat) (s : State) : SameWork s (countCycles n s) := by
  refine SameWork.foldl (fun u core => ?_) (List.range 216) s
  split
  · exact .refl u
  · refine SameWork.foldl (fun u e => ?_) (cycleCounts s n core) u
    split
    · exact .refl u
    · exact sameWork_bump u core e.1 e.2

-- time (R430)

/-- The counters of n cycles keep the work, and the clock moves on. -/
theorem sameWork_countCycles_clock (n : Nat) (s : State) :
    SameWork { s with clock := s.clock + n } { countCycles n s with clock := (countCycles n s).clock + n } := by
  rw [(sameWork_countCycles n s).clock]
  exact (sameWork_countCycles n s).at_clock _

/-- Cycles that pass move the clock by their number, and keep the work. -/
theorem sameWork_passCycles : ∀ (fuel n : Nat) (s : State), SameWork { s with clock := s.clock + n } (passCycles fuel n s)
  | 0, n, s => sameWork_countCycles_clock n s
  | fuel + 1, n, s => by
    unfold passCycles
    extract_lets d u t
    split
    · exact sameWork_countCycles_clock n s
    · next hd =>
      have hsampled : SameWork { s with clock := s.clock + d } (sampleTick { t with clock := t.clock + d }) :=
        (sameWork_countCycles_clock d s).trans (sameWork_sampleTick _)
      have hsplit : s.clock + n = s.clock + d + (n - d) := by omega
      refine SameWork.trans ?_ (sameWork_passCycles fuel (n - d) _)
      rw [hsampled.clock, hsplit]
      exact hsampled.at_clock _

/-- A tick without samples moves the clock alone. -/
theorem tick_unsampled {s : State} (h : samplePeriod s.rlmode = 0 ∨ s.booted = false) :
    tick s = { s with clock := s.clock + (1 + Config.elapsed s.fresh), fresh := s.fresh + 1 } := if_pos h

/-- A tick moves the clock by a cycle and a free number more, takes a free value, and keeps the work. -/
theorem sameWork_tick (s : State) :
    SameWork { s with clock := s.clock + (1 + Config.elapsed s.fresh), fresh := s.fresh + 1 } (tick s) := by
  by_cases h : samplePeriod s.rlmode = 0 ∨ s.booted = false
  · rw [tick_unsampled h]
    exact .refl _
  · have hpass : tick s = passCycles _ (1 + Config.elapsed s.fresh) { s with fresh := s.fresh + 1 } := if_neg h
    rw [hpass]
    exact sameWork_passCycles _ (1 + Config.elapsed s.fresh) { s with fresh := s.fresh + 1 }

theorem bundleAt_tick (s : State) (core picker : Nat) : bundleAt (tick s) core picker = bundleAt s core picker :=
  (sameWork_tick s).bundles core picker

-- the turns of the agenda (R148 to R150)

theorem step_issue {s : State} {rest : List Turn} {core picker : Nat} (hturn : s.agenda = .issue core picker :: rest) (hcore : core < 216)
    (hpicker : picker < pickersOf (classOfCore core)) : step s = issueTurn core picker (tick { s with agenda := rest }) := by
  have hexists : pickerExists core picker = true := decide_eq_true ⟨hcore, hpicker⟩
  unfold step
  rw [hturn]
  exact if_pos hexists

theorem step_event {s : State} {rest : List Turn} {i : Instr} (hturn : s.agenda = .event i :: rest) (hevent : isEvent i = true) :
    step s = exec i (tick { s with agenda := rest }) := by
  unfold step
  rw [hturn]
  exact if_pos hevent

/-- The instruction at the bundle's PC is executed, unless it has executed before the others of its set. -/
theorem issueOne_decoded {b : Bundle} {i : Instr} {ws : List Word} (hdecode : decodeWords (codeFrom b b.pc) = .ok (i, ws))
    (hnew : executed b = false) (core picker : Nat) (s : State) :
    issueOne exec core picker b s = exec i { s with focus := (core, picker) } := by
  unfold issueOne
  simp only [hdecode, hnew]
  rfl

/-- Once a co-issue set has begun, or none does, the turn of a picker executes the instruction at its bundle's PC, and the set's others. -/
theorem issueTurn_decoded {s u : State} {core picker : Nat} {b : Bundle} {i : Instr} {ws : List Word}
    (hstart : startSet execState s core picker = some u) (hb : bundleAt u core picker = some b)
    (hdecode : decodeWords (codeFrom b b.pc) = .ok (i, ws)) (hnew : executed b = false) :
    issueTurn core picker s =
      if b.set.isSome then issueSet exec core picker 4 (exec i { u with focus := (core, picker) }) else exec i { u with focus := (core, picker) } := by
  unfold issueTurn
  simp only [hstart, hb, issueOne_decoded hdecode hnew]

/-- No co-issue set begins in a D-form bundle. -/
theorem startSet_d {s : State} {core picker : Nat} {b : Bundle} (f : Instr → State → State) (hb : bundleAt s core picker = some b)
    (hform : b.form = .d) : startSet f s core picker = some s := by
  unfold startSet
  simp [hb, hform]

-- the code of a run (R37, R41, R43)

/-- What needs no literal word is found whatever words follow. -/
theorem addLit_of_nil {d : Option Word → Option Instr} {op sub : Nat} {i : Instr} (h : addLit d op sub [] = .ok (i, [])) (rest : List Word) :
    addLit d op sub rest = .ok (i, rest) := by
  unfold addLit at h ⊢
  split at h
  · cases h
  · split at h
    · cases h
    · next hlit =>
      cases h
      exact if_neg hlit

/-- An instruction of one word is decoded from that word, whatever follows it. -/
theorem decodeWords_cons_of_single {w : Word} {i : Instr} (h : decodeWords [w] = .ok (i, [])) (rest : List Word) :
    decodeWords (w :: rest) = .ok (i, rest) := by
  unfold decodeWords at h ⊢
  dsimp only at h ⊢
  split at h
  · next hop =>
    rw [if_pos hop]
    exact addLit_of_nil h rest
  · split at h
    · cases h
    · cases h

/-- The first of the words fetched is the word at the PC. -/
theorem fetchWords_head {s : State} {k n : Nat} {f : Form} {pc w : Word} {ws : List Word} (hw : fetchWord s k f pc = .ok w)
    (hws : fetchWords s k f pc (n + 1) = .ok ws) : ∃ r, ws = w :: r := by
  unfold fetchWords at hws
  simp only [hw] at hws
  split at hws
  · cases hws
  · cases hws
    exact ⟨_, rfl⟩

/-- A thread outside any run that stands at a legal RUNH would enter the run's words (R43). -/
theorem codeEntry_run {s : State} {k : Nat} {w : Word} {ws : List Word} {r : RunhForm} (hclass : classOf s k = .d)
    (hseq : (getThread s k).seq = none) (hw : fetchWord s k .d (getThread s k).pc = .ok w) (hr : decodeWords [w] = .ok (.runh r, []))
    (hlegal : legal .d (.runh r) = true) (hws : fetchWords s k .d (getThread s k).pc (r.len.toNat + 2) = .ok ws) :
    codeEntry s k = .ok { base := (getThread s k).pc, code := ws, seq := freshSeq .d (getThread s k).pc r.xmask.toNat } := by
  unfold codeEntry
  simp only [hclass, hseq, Option.getD_none, freshSeq, hw, hr, hlegal, hws]
  rfl

/-- Where no thread has a position in a sequence the first is as far as any. -/
theorem farthest_fresh {s : State} {k : Nat} (hk : (getThread s k).seq = none) : ∀ {ks : List Nat}, (∀ j ∈ ks, (getThread s j).seq = none) →
    farthest s k ks = k
  | [], _ => rfl
  | j :: ks, h => by
    obtain ⟨hj, hrest⟩ := List.forall_mem_cons.mp h
    unfold farthest
    rw [List.foldl_cons]
    simp only [hk, hj]
    exact farthest_fresh hk hrest

/-- Threads without a position in a sequence stand alike. -/
theorem sortOut_fresh {s : State} {core picker : Nat} {b : Bundle} (h : ∀ j ∈ b.threads, (getThread s j).seq = none) :
    sortOut s core picker b = s := by
  have hnone : ∀ x ∈ b.threads.map (fun k => (k, (getThread s k).seq)), x.2 = none := by
    rintro x hx
    obtain ⟨j, hj, rfl⟩ := List.mem_map.mp hx
    exact h j hj
  refine if_pos (List.all_eq_true.mpr (fun x hx => decide_eq_true ?_))
  obtain ⟨y, r, hy⟩ := List.exists_cons_of_ne_nil (List.ne_nil_of_mem hx)
  rw [hnone x hx, hy, List.head?_cons, Option.map_some, hnone y (hy ▸ List.mem_cons_self)]

@[simp] theorem bundleAt_setBundle (s : State) (core picker : Nat) (b : Bundle) : bundleAt (setBundle s core picker (some b)) core picker = some b := by
  simp [bundleAt, setBundle]

/-- A bundle of threads that stand at a legal RUNH, outside any run, holds the run's words and begins there (R41, R43). -/
theorem enterBundle_run {s : State} {core picker k : Nat} {ks : List Nat} {w : Word} {ws : List Word} {r : RunhForm}
    (hcore : classOfCore core = .d) (hclass : classOf s k = .d) (hseq : (getThread s k).seq = none)
    (hseqs : ∀ j ∈ ks, (getThread s j).seq = none) (hw : fetchWord s k .d (getThread s k).pc = .ok w)
    (hr : decodeWords [w] = .ok (.runh r, [])) (hlegal : legal .d (.runh r) = true)
    (hws : fetchWords s k .d (getThread s k).pc (r.len.toNat + 2) = .ok ws) :
    enterBundle s core picker k ks = setBundle s core picker (some
      { threads := ks, form := .d, pc := (getThread s k).pc, base := (getThread s k).pc, code := ws,
        seq := freshSeq .d (getThread s k).pc r.xmask.toNat,
        set := none, rest := none, probe := false, arrivals := [], ahead := [], early := none }) := by
  obtain ⟨rest, rfl⟩ := fetchWords_head hw hws
  have hhead : decodeWords (w :: rest) = .ok (.runh r, rest) := decodeWords_cons_of_single hr rest
  have hsort := fun b (hb : b.threads = ks) => sortOut_fresh (s := setBundle s core picker (some b)) (core := core) (picker := picker) (b := b)
    (fun j hj => hseqs j (hb ▸ hj))
  unfold enterBundle
  rw [farthest_fresh hseq hseqs]
  simp only [codeEntry_run hclass hseq hw hr hlegal hws, hcore]
  rw [hsort _ rfl]
  simp only [bundleAt_setBundle, hhead, freshSeq]
  rfl

end Sys2Proof.Machine

namespace Sys2Proof

open Sys2Proof.Machine

/-- Settles O51. A turn is what its kind does after the tick, which keeps the bundles; the words of a run are those fetched at its RUNH. -/
theorem stepRunsTheDecodedInstruction : Obligations.StepRunsTheDecodedInstruction := by
  unfold Obligations.StepRunsTheDecodedInstruction
  refine ⟨?issue, ?dform, ?event, ?tick, ?run⟩
  case issue =>
    intro s u rest core picker b i ws hturn hcore hpicker hstart hb hdecode
    rw [step_issue hturn hcore hpicker]
    refine ⟨fun hset => ?_, fun hset hearly => ?_⟩
    · rw [issueTurn_decoded hstart hb hdecode (by simp [executed, hset]), hset]
      rfl
    · rw [issueTurn_decoded hstart hb hdecode (by simp [executed, hearly]), if_pos hset]
  case dform =>
    intro s rest core picker b i ws hturn hcore hpicker hb hform hset hdecode
    have hticked : bundleAt (tick { s with agenda := rest }) core picker = some b := (bundleAt_tick _ _ _).trans hb
    rw [step_issue hturn hcore hpicker, issueTurn_decoded (startSet_d execState hticked hform) hticked hdecode (by simp [executed, hset]), hset]
    rfl
  case event => exact fun s rest i hturn hevent => step_event hturn hevent
  case tick =>
    intro s
    have hwork := sameWork_tick s
    refine ⟨?_, hwork.fresh, fun h => ?_, hwork.threads, hwork.groups, hwork.teams, hwork.grids, hwork.bundles⟩
    · rw [hwork.clock]
      exact Nat.lt_add_of_pos_right (Nat.add_pos_left Nat.one_pos _)
    · rw [tick_unsampled h]
  case run =>
    intro s core picker k ks w ws r hcore hclass hseq hseqs pc hw hr hlegal hws
    exact enterBundle_run hcore hclass hseq hseqs hw hr hlegal hws

end Sys2Proof
end

section
/-! Floating-point arithmetic: the exact sum, product and quotient with their signs, infinities and NaNs (R189), the rounding of F32 results
and of packed halves (R61, R196), and the obligation about the instructions that deliver them (O24). -/

namespace Sys2Proof.Machine

open Sys2Proof.Says (rat sign)

-- the signs of exact results that are zero

theorem signedNum_eq_zero (s : Bool) (n : Nat) : signedNum s n = 0 ↔ n = 0 := by
  unfold signedNum
  split <;> omega

theorem mkRat_signedNum_eq_zero (s : Bool) (n : Nat) {d : Nat} (hd : d ≠ 0) : mkRat (signedNum s n) d = 0 ↔ n = 0 :=
  (Rat.mkRat_eq_zero hd).trans (signedNum_eq_zero s n)

section
variable {x y : Xr} {a b : Rat} (hx : rat x = some a) (hy : rat y = some b)
include hx hy

/-- A sum that is zero has the sign of two zeros of one sign, and else the one that the mode gives. -/
theorem sign_add_of_eq_zero (m : Rm) (hsum : a + b = 0) :
    sign (Xr.add m x y) = if a = 0 ∧ sign x = sign y then sign x else decide (m = .rd) := by
  obtain ⟨s, n, d, rfl, hd, rfl⟩ := rat_eq_some hx
  obtain ⟨t, k, e, rfl, he, rfl⟩ := rat_eq_some hy
  rw [Rat.mkRat_add_mkRat _ _ hd he, Rat.mkRat_eq_zero (Nat.mul_ne_zero hd he)] at hsum
  have hzeros : n = 0 → n = 0 ∧ k = 0 := by
    rintro rfl
    rw [signedNum_zero, Int.zero_mul, Int.zero_add, Int.mul_eq_zero] at hsum
    exact ⟨rfl, (signedNum_eq_zero t k).mp (hsum.resolve_right (by omega))⟩
  simp only [mkRat_signedNum_eq_zero s n hd]
  unfold Xr.add
  dsimp only
  by_cases hn : n = 0
  · rw [if_pos (hzeros hn)]
    by_cases hst : s = t
    · rw [if_pos hst, if_pos ⟨hn, hst⟩]; rfl
    · rw [if_neg hst, if_neg (fun h => hst h.2)]; rfl
  · rw [if_neg (fun h : n = 0 ∧ k = 0 => hn h.1), if_pos hsum, if_neg (fun h => hn h.1)]
    rfl

theorem sign_mul : sign (Xr.mul x y) = (sign x != sign y) := by
  obtain ⟨s, n, d, rfl, -, -⟩ := rat_eq_some hx
  obtain ⟨t, k, e, rfl, -, -⟩ := rat_eq_some hy
  unfold Xr.mul
  dsimp only
  split <;> rfl

theorem sign_div (hb : b ≠ 0) : sign (Xr.div x y) = (sign x != sign y) := by
  obtain ⟨s, n, d, rfl, -, -⟩ := rat_eq_some hx
  obtain ⟨t, k, e, rfl, he, rfl⟩ := rat_eq_some hy
  have hk : k ≠ 0 := fun h => hb ((mkRat_signedNum_eq_zero t k he).mpr h)
  unfold Xr.div
  dsimp only
  rw [if_neg hk]
  split <;> rfl

theorem div_of_eq_zero (hb : b = 0) : Xr.div x y = if a = 0 then .nan else .inf (sign x != sign y) := by
  obtain ⟨s, n, d, rfl, hd, rfl⟩ := rat_eq_some hx
  obtain ⟨t, k, e, rfl, he, rfl⟩ := rat_eq_some hy
  have hk : k = 0 := (mkRat_signedNum_eq_zero t k he).mp hb
  simp only [mkRat_signedNum_eq_zero s n hd]
  exact if_pos hk

end

-- infinities and NaNs

/-- The product of an infinity and a fraction, from either side. -/
theorem mul_inf_of_rat {x : Xr} {a : Rat} (hx : rat x = some a) (s : Bool) :
    Xr.mul (.inf s) x = (if a = 0 then .nan else .inf (s != sign x)) ∧ Xr.mul x (.inf s) = (if a = 0 then .nan else .inf (sign x != s)) := by
  obtain ⟨t, n, d, rfl, hd, rfl⟩ := rat_eq_some hx
  simp only [mkRat_signedNum_eq_zero t n hd]
  exact ⟨rfl, rfl⟩

/-- The sums and quotients of an infinity and a fraction. -/
theorem add_div_inf_of_rat {x : Xr} {a : Rat} (hx : rat x = some a) (m : Rm) (s : Bool) :
    Xr.add m (.inf s) x = .inf s ∧ Xr.add m x (.inf s) = .inf s ∧ Xr.div (.inf s) x = .inf (s != sign x) ∧
      Xr.div x (.inf s) = .fin (sign x != s) 0 1 := by
  obtain ⟨t, n, d, rfl, -, -⟩ := rat_eq_some hx
  exact ⟨rfl, rfl, rfl, rfl⟩

@[simp] theorem Xr.add_nan (m : Rm) (x : Xr) : Xr.add m x .nan = .nan := by cases x <;> rfl
@[simp] theorem Xr.mul_nan (x : Xr) : Xr.mul x .nan = .nan := by cases x <;> rfl
@[simp] theorem Xr.div_nan (x : Xr) : Xr.div x .nan = .nan := by cases x <;> rfl

-- packed halves

theorem signBit_le (f : Fmt) (s : Bool) : signBit f s ≤ 2 ^ (fracBits f + expBits f) := by
  cases s
  · exact Nat.zero_le _
  · exact Nat.le_refl _

theorem largestBits_lt (f : Fmt) : largestBits f < 2 ^ (fracBits f + expBits f) := by cases f <;> decide

theorem infBits_lt (f : Fmt) : infBits f < 2 ^ (fracBits f + expBits f) := by cases f <;> decide

theorem overflowBits_lt (f : Fmt) (s : Bool) (m : Rm) : overflowBits f s m < 2 ^ (fracBits f + expBits f) := by
  have hlargest := largestBits_lt f
  have hinf := infBits_lt f
  unfold overflowBits
  split
  case isTrue => exact hlargest
  case isFalse => cases m <;> cases s <;> assumption

/-- A rounded value is a pattern of its format: a sign above its magnitude. -/
theorem roundTo_lt (f : Fmt) (z : Bool) (m : Rm) (x : Xr) : roundTo f z m x < 2 ^ (fracBits f + expBits f) + 2 ^ (fracBits f + expBits f) := by
  match x with
  | .nan =>
    have hnan : canonNan f < 2 ^ (fracBits f + expBits f) := by cases f <;> decide
    exact Nat.lt_add_left _ hnan
  | .inf s =>
    have hbits : (if hasInf f then infBits f else largestBits f) < 2 ^ (fracBits f + expBits f) := by
      split
      · exact infBits_lt f
      · exact largestBits_lt f
    exact Nat.add_lt_add_of_le_of_lt (signBit_le f s) hbits
  | .fin s n d =>
    have hsign := signBit_le f s
    have hlargest := largestBits_lt f
    have hover := overflowBits_lt f s m
    unfold roundTo
    dsimp only
    split
    case isTrue => omega
    case isFalse =>
      split
      case isTrue => omega
      case isFalse => split <;> omega

theorem packHalf_eq (fp : Word) (m : Rm) (lo hi : Xr) : packHalf fp m lo hi = Says.halves fp m lo hi := by
  have hlo : roundTo .f16 (fp.getLsbD 3) m lo < 65536 := roundTo_lt .f16 _ m lo
  have hhi : roundTo .f16 (fp.getLsbD 3) m hi < 65536 := roundTo_lt .f16 _ m hi
  apply BitVec.eq_of_toNat_eq
  unfold packHalf Says.halves wd fzoOf
  dsimp only
  rw [BitVec.toNat_append, BitVec.toNat_ofNat, BitVec.toNat_ofNat, BitVec.toNat_ofNat, Nat.mod_eq_of_lt hlo, Nat.mod_eq_of_lt hhi,
    ← Nat.shiftLeft_add_eq_or_of_lt hlo, Nat.shiftLeft_eq]
  omega

theorem halfOf_eq (fp w : Word) (h : Nat) : halfOf fp w h = Says.half fp w h := by
  have hbits : w.toNat / 65536 ^ h % 65536 = (w.extractLsb' (16 * h) 16).toNat := by
    rw [BitVec.extractLsb'_toNat, Nat.shiftRight_eq_div_pow, Nat.pow_mul]
  have hlt := (w.extractLsb' (16 * h) 16).isLt
  have hsign : decide ((w.extractLsb' (16 * h) 16).toNat / 2 ^ (fracBits .f16 + expBits .f16) % 2 = 1) =
      decide (2 ^ 15 ≤ (w.extractLsb' (16 * h) 16).toNat) := by
    rw [decide_eq_decide]
    simp only [fracBits, expBits]
    omega
  rw [halfOf, hbits]
  simp only [readFmt, Says.half, fziOf, hsign, Bool.and_eq_true]

-- what the instructions do for a thread

section
variable {s : State} {c : Ctx} {x y z : RVal}

/-- An F32 source is its pattern's value after FZI (R61). -/
theorem srcF_ok {code : Nat} (h : src s c .f32 code = .ok x) :
    srcF s c code = .ok (Says.inF (getThread s c.k).fpctl x.bits, x.poison) := by
  rw [srcF, h, ← inF32_eq]
  rfl

theorem float2_ok (f : Rm → Xr → Xr → Xr) (hx : src s c .f32 c.raw.a = .ok x) (hy : src s c .f32 c.raw.b = .ok y) :
    let fp := (getThread s c.k).fpctl
    float2 f c s = .ok (dst s c ⟨Says.outF fp (rmOf c.raw.m) (f (rmOf c.raw.m) (Says.inF fp x.bits) (Says.inF fp y.bits)), x.poison || y.poison⟩) := by
  rw [float2, srcF_ok hx, srcF_ok hy]
  rfl

theorem floatMac_ok {code : Ctx → Nat} (hx : src s c .f32 c.raw.a = .ok x) (hy : src s c .f32 c.raw.b = .ok y)
    (hz : src s c .f32 (code c) = .ok z) :
    let fp := (getThread s c.k).fpctl
    floatMac code c s = .ok (dst s c ⟨Says.outF fp (rmOf c.raw.m)
      (Xr.add (rmOf c.raw.m) (Xr.mul (Says.inF fp x.bits) (Says.inF fp y.bits)) (Says.inF fp z.bits)), x.poison || y.poison || z.poison⟩) := by
  rw [floatMac, srcF_ok hx, srcF_ok hy, srcF_ok hz]
  rfl

theorem actPack2_ok (hx : src s c .f32 c.raw.a = .ok x) (hy : src s c .f32 c.raw.b = .ok y) :
    let fp := (getThread s c.k).fpctl
    actPack2 c s = .ok (dst s c ⟨Says.halves fp (rmOf c.raw.m) (Says.inF fp x.bits) (Says.inF fp y.bits), x.poison || y.poison⟩) := by
  rw [actPack2, srcF_ok hx, srcF_ok hy]
  simp only [← packHalf_eq]
  rfl

theorem half2_ok (f : Rm → Xr → Xr → Xr) (hx : src s c .half2 c.raw.a = .ok x) (hy : src s c .half2 c.raw.b = .ok y) :
    let fp := (getThread s c.k).fpctl
    let e (h : Nat) := f (rmOf c.raw.m) (Says.half fp x.bits h) (Says.half fp y.bits h)
    half2 f c s = .ok (dst s c ⟨Says.halves fp (rmOf c.raw.m) (e 0) (e 1), x.poison || y.poison⟩) := by
  rw [half2, hx, hy]
  simp only [← packHalf_eq, ← halfOf_eq]
  rfl

theorem actHfma2_ok (hx : src s c .half2 c.raw.a = .ok x) (hy : src s c .half2 c.raw.b = .ok y) (hz : src s c .half2 c.raw.d = .ok z) :
    let fp := (getThread s c.k).fpctl
    let e (h : Nat) := Xr.add (rmOf c.raw.m) (Xr.mul (Says.half fp x.bits h) (Says.half fp y.bits h)) (Says.half fp z.bits h)
    actHfma2 c s = .ok (dst s c ⟨Says.halves fp (rmOf c.raw.m) (e 0) (e 1), x.poison || y.poison || z.poison⟩) := by
  rw [actHfma2, hx, hy, hz]
  simp only [← packHalf_eq, ← halfOf_eq]
  rfl

end

/-- The instructions of two F32 operands issue the shared act with their exact operation. -/
theorem exec_float2 {i : Instr} {f : Rm → Xr → Xr → Xr} (h : Says.float2 i = some f) (s : State) :
    exec i s = .next (issue i (float2 f) s) := by
  unfold Says.float2 at h
  split at h
  case h_4 => cases h
  all_goals cases h; rfl

/-- The packed F16 instructions of two operands issue the shared act with their exact operation. -/
theorem exec_half2 {i : Instr} {f : Rm → Xr → Xr → Xr} (h : Says.half2 i = some f) (s : State) :
    exec i s = .next (issue i (half2 f) s) := by
  unfold Says.half2 at h
  split at h
  case h_3 => cases h
  all_goals cases h; rfl

end Sys2Proof.Machine

namespace Sys2Proof

open Sys2Proof.Machine

/-- Settles O24. The exact results by the laws of Xr's operations, and each instruction by the law of its function above. -/
theorem floatArithmeticResult : Obligations.FloatArithmeticResult := by
  unfold Obligations.FloatArithmeticResult
  refine ⟨?finite, ?infinite, ?nan, ⟨?float2, ?ffma, ?ffma4⟩, fun w => ⟨?pack2, ?half2, ?hfma2⟩⟩
  case finite =>
    intro m x y a b hx hy
    exact ⟨⟨rat_add m hx hy, sign_add_of_eq_zero hx hy m⟩, ⟨rat_mul hx hy, fun _ => sign_mul hx hy⟩,
      fun hb => ⟨rat_div hx hy hb, fun _ => sign_div hx hy hb⟩, div_of_eq_zero hx hy⟩
  case infinite =>
    intro m s t x a hx
    obtain ⟨haddLeft, haddRight, hdivLeft, hdivRight⟩ := add_div_inf_of_rat hx m s
    obtain ⟨hmulLeft, hmulRight⟩ := mul_inf_of_rat hx s
    rw [hdivRight]
    exact ⟨haddLeft, haddRight, rfl, hmulLeft, hmulRight, rfl, rfl, hdivLeft, rat_zero _, rfl⟩
  case nan => exact fun m x => ⟨rfl, Xr.add_nan m x, rfl, Xr.mul_nan x, rfl, Xr.div_nan x⟩
  case float2 =>
    intro i f hi s b t h
    rw [exec_float2 hi]
    refine congrArg Host.Outcome.next (h.issue ?_)
    rintro k u v ⟨x, y, hx, hy, rfl⟩
    exact float2_ok f hx hy
  case ffma =>
    intro w s b t h
    refine congrArg Host.Outcome.next (h.issue (f := floatMac (fun c => c.raw.d)) ?_)
    rintro k u v ⟨x, y, z, hx, hy, hz, rfl⟩
    exact floatMac_ok hx hy hz
  case ffma4 =>
    intro w s b t h
    refine congrArg Host.Outcome.next (h.issue (f := floatMac (fun c => c.raw.c)) ?_)
    rintro k u v ⟨x, y, z, hx, hy, hz, rfl⟩
    exact floatMac_ok hx hy hz
  case pack2 =>
    intro s b t h
    refine congrArg Host.Outcome.next (h.issue (f := actPack2) ?_)
    rintro k u v ⟨x, y, hx, hy, rfl⟩
    exact actPack2_ok hx hy
  case half2 =>
    intro i f hi s b t h
    rw [exec_half2 hi]
    refine congrArg Host.Outcome.next (h.issue ?_)
    rintro k u v ⟨x, y, hx, hy, rfl⟩
    exact half2_ok f hx hy
  case hfma2 =>
    intro s b t h
    refine congrArg Host.Outcome.next (h.issue (f := actHfma2) ?_)
    rintro k u v ⟨x, y, z, hx, hy, hz, rfl⟩
    exact actHfma2_ok hx hy hz

end Sys2Proof
end

section
/-! The special functions: rounding depends on a fraction's value alone, exact powers and roots of two, what each function gives R198's special
operands, and the obligation about FDIV and the functions of one operand (O26). -/

namespace Sys2Proof.Machine

-- the binary exponent of a fraction

/-- 2^e is at most the fraction n / d; one of the two powers is 1. -/
def PowLe (e : Int) (n d : Nat) : Prop := d * 2 ^ e.toNat ≤ n * 2 ^ (-e).toNat

/-- The power may be written as a quotient of any two powers. -/
theorem powLe_sub_iff (i j n d : Nat) : PowLe ((i : Int) - j) n d ↔ d * 2 ^ i ≤ n * 2 ^ j := by
  unfold PowLe
  rcases Nat.le_total j i with h | h
  · obtain ⟨m, rfl⟩ := Nat.exists_eq_add_of_le h
    have hpos : (((j + m : Nat) : Int) - j).toNat = m := by omega
    have hneg : (-(((j + m : Nat) : Int) - j)).toNat = 0 := by omega
    rw [hpos, hneg, Nat.pow_zero, Nat.mul_one, Nat.add_comm j m, Nat.pow_add, ← Nat.mul_assoc, Nat.mul_le_mul_right_iff (Nat.two_pow_pos j)]
  · obtain ⟨m, rfl⟩ := Nat.exists_eq_add_of_le h
    have hpos : ((i : Int) - (i + m : Nat)).toNat = 0 := by omega
    have hneg : (-((i : Int) - (i + m : Nat))).toNat = m := by omega
    rw [hpos, hneg, Nat.pow_zero, Nat.mul_one, Nat.add_comm i m, Nat.pow_add, ← Nat.mul_assoc, Nat.mul_le_mul_right_iff (Nat.two_pow_pos i)]

/-- A smaller power of two is at most the fraction too. -/
theorem PowLe.of_le {e k : Int} {n d : Nat} (h : PowLe e n d) (hk : k ≤ e) : PowLe k n d := by
  have hsplit : k = (e.toNat : Int) - ((-e).toNat + (e - k).toNat : Nat) := by omega
  rw [hsplit, powLe_sub_iff, Nat.pow_add, ← Nat.mul_assoc]
  exact Nat.le_trans h (Nat.le_mul_of_pos_right _ (Nat.two_pow_pos _))

/-- Only the value of the fraction matters. -/
theorem powLe_scale (e : Int) (n d : Nat) {c : Nat} (hc : c ≠ 0) : PowLe e (n * c) (d * c) ↔ PowLe e n d := by
  unfold PowLe
  rw [Nat.mul_right_comm d, Nat.mul_right_comm n, Nat.mul_le_mul_right_iff (Nat.pos_of_ne_zero hc)]

/-- A fraction lies within a factor of two of the power that its terms' highest bits name. -/
theorem powLe_log2 {n d : Nat} (hn : n ≠ 0) (hd : d ≠ 0) :
    PowLe ((Nat.log2 n : Int) - Nat.log2 d - 1) n d ∧ ¬PowLe ((Nat.log2 n : Int) - Nat.log2 d + 1) n d := by
  have hbelow : (Nat.log2 n : Int) - Nat.log2 d - 1 = (Nat.log2 n : Int) - (Nat.log2 d + 1 : Nat) := by omega
  have habove : (Nat.log2 n : Int) - Nat.log2 d + 1 = ((Nat.log2 n + 1 : Nat) : Int) - Nat.log2 d := by omega
  rw [hbelow, habove, powLe_sub_iff, powLe_sub_iff, Nat.not_le, Nat.mul_comm d, Nat.mul_comm d]
  exact ⟨Nat.mul_le_mul (Nat.log2_self_le hn) (Nat.le_of_lt Nat.lt_log2_self),
    Nat.mul_lt_mul_of_lt_of_le' Nat.lt_log2_self (Nat.log2_self_le hd) (Nat.two_pow_pos _)⟩

/-- The test by which floorLog2 steps down. -/
theorem below_iff (k : Int) (n d : Nat) :
    (if 0 ≤ k then decide (n < d * 2 ^ k.toNat) else decide (n * 2 ^ (-k).toNat < d)) = true ↔ ¬PowLe k n d := by
  unfold PowLe
  split
  case isTrue h =>
    have hneg : (-k).toNat = 0 := by omega
    rw [hneg, Nat.pow_zero, Nat.mul_one, decide_eq_true_iff, Nat.not_le]
  case isFalse h =>
    have hpos : k.toNat = 0 := by omega
    rw [hpos, Nat.pow_zero, Nat.mul_one, decide_eq_true_iff, Nat.not_le]

theorem floorLog2_of_powLe {n d : Nat} (h : PowLe ((Nat.log2 n : Int) - Nat.log2 d) n d) : floorLog2 n d = (Nat.log2 n : Int) - Nat.log2 d :=
  if_neg (fun hbelow => (below_iff _ n d).mp hbelow h)

theorem floorLog2_of_not_powLe {n d : Nat} (h : ¬PowLe ((Nat.log2 n : Int) - Nat.log2 d) n d) :
    floorLog2 n d = (Nat.log2 n : Int) - Nat.log2 d - 1 := if_pos ((below_iff _ n d).mpr h)

/-- floorLog2 is the exponent of the greatest power of two that is at most the fraction. -/
theorem powLe_floorLog2 {n d : Nat} (hn : n ≠ 0) (hd : d ≠ 0) : PowLe (floorLog2 n d) n d ∧ ¬PowLe (floorLog2 n d + 1) n d := by
  obtain ⟨hlow, hhigh⟩ := powLe_log2 hn hd
  by_cases h : PowLe ((Nat.log2 n : Int) - Nat.log2 d) n d
  · rw [floorLog2_of_powLe h]
    exact ⟨h, hhigh⟩
  · rw [floorLog2_of_not_powLe h, Int.sub_add_cancel]
    exact ⟨hlow, h⟩

theorem floorLog2_eq {n d : Nat} {e : Int} (hn : n ≠ 0) (hd : d ≠ 0) (hlow : PowLe e n d) (hhigh : ¬PowLe (e + 1) n d) : floorLog2 n d = e := by
  obtain ⟨hlow', hhigh'⟩ := powLe_floorLog2 hn hd
  have hle : ¬floorLog2 n d + 1 ≤ e := fun h => hhigh' (hlow.of_le h)
  have hge : ¬e + 1 ≤ floorLog2 n d := fun h => hhigh (hlow'.of_le h)
  omega

theorem floorLog2_scale {n d c : Nat} (hn : n ≠ 0) (hd : d ≠ 0) (hc : c ≠ 0) : floorLog2 (n * c) (d * c) = floorLog2 n d := by
  obtain ⟨hlow, hhigh⟩ := powLe_floorLog2 hn hd
  exact floorLog2_eq (Nat.mul_ne_zero hn hc) (Nat.mul_ne_zero hd hc) ((powLe_scale _ n d hc).mpr hlow) (fun h => hhigh ((powLe_scale _ n d hc).mp h))

theorem two_pow_ne_zero (n : Nat) : 2 ^ n ≠ 0 := Nat.ne_of_gt (Nat.two_pow_pos n)

theorem floorLog2_two_pow_div (i j : Nat) : floorLog2 (2 ^ i) (2 ^ j) = (i : Int) - j := by
  have hnext : (i : Int) - j + 1 = ((i + 1 : Nat) : Int) - j := by omega
  refine floorLog2_eq (two_pow_ne_zero i) (two_pow_ne_zero j) ?_ ?_
  · exact (powLe_sub_iff i j _ _).mpr (Nat.le_of_eq (Nat.mul_comm _ _))
  · rw [hnext, powLe_sub_iff, Nat.mul_comm, Nat.not_le, Nat.mul_lt_mul_right (Nat.two_pow_pos j)]
    exact Nat.pow_lt_pow_right Nat.one_lt_two (Nat.lt_succ_self i)

theorem floorLog2_two_pow (n : Nat) : floorLog2 (2 ^ n) 1 = n := (floorLog2_two_pow_div n 0).trans (Int.sub_zero _)

theorem floorLog2_one_two_pow (n : Nat) : floorLog2 1 (2 ^ n) = -n := (floorLog2_two_pow_div 0 n).trans (Int.zero_sub _)

-- rounding of equal fractions

theorem roundMag_scale (m : Rm) (s : Bool) (n d : Nat) {c : Nat} (hc : c ≠ 0) : roundMag m s (n * c) (d * c) = roundMag m s n d := by
  have hc' : 0 < c := Nat.pos_of_ne_zero hc
  have htwice : 2 * (n % d * c) = 2 * (n % d) * c := (Nat.mul_assoc _ _ _).symm
  unfold roundMag
  simp only [Nat.mul_div_mul_right _ _ hc', Nat.mul_mod_mul_right, htwice, Nat.mul_lt_mul_right hc', Nat.mul_left_inj hc, ne_eq,
    Nat.mul_eq_zero, hc, or_false]

theorem magBits_scale (f : Fmt) (m : Rm) (s : Bool) {n d c : Nat} (hn : n ≠ 0) (hd : d ≠ 0) (hc : c ≠ 0) :
    magBits f m s (n * c) (d * c) = magBits f m s n d := by
  unfold magBits
  simp only [floorLog2_scale hn hd hc, Nat.mul_right_comm _ c, roundMag_scale m s _ _ hc]

/-- Equal fractions are rounded alike. -/
theorem roundTo_scale (f : Fmt) (z : Bool) (m : Rm) (s : Bool) (n : Nat) {d c : Nat} (hd : d ≠ 0) (hc : c ≠ 0) :
    roundTo f z m (.fin s (n * c) (d * c)) = roundTo f z m (.fin s n d) := by
  by_cases hn : n = 0
  · rw [hn, Nat.zero_mul]
    rfl
  · unfold roundTo
    simp only [magBits_scale f m s hn hd hc, hn, Nat.mul_ne_zero hn hc]

-- square roots

/-- Descending bits keep the root between the bits fixed and the bits still open. -/
theorem isqrtBits_spec : ∀ b n r : Nat, r * r ≤ n → n < (r + 2 ^ b) * (r + 2 ^ b) →
    isqrtBits b n r * isqrtBits b n r ≤ n ∧ n < (isqrtBits b n r + 1) * (isqrtBits b n r + 1)
  | 0, _, _, hlow, hhigh => ⟨hlow, hhigh⟩
  | b + 1, n, r, hlow, hhigh => by
    unfold isqrtBits
    dsimp only
    split
    case isTrue hfits =>
      have hopen : r + 2 ^ (b + 1) = r + 2 ^ b + 2 ^ b := by rw [Nat.pow_succ]; omega
      exact isqrtBits_spec b n _ hfits (hopen ▸ hhigh)
    case isFalse hbeyond => exact isqrtBits_spec b n r hlow (Nat.lt_of_not_le hbeyond)

/-- The root of a square is exact. -/
theorem isqrt_mul_self (q : Nat) : isqrt (q * q) = q := by
  have hlog : q * q < 2 ^ (Nat.log2 (q * q) + 1) := Nat.lt_log2_self
  have hpow : 2 ^ (Nat.log2 (q * q) + 1) ≤ 2 ^ (Nat.log2 (q * q) / 2 + 1 + (Nat.log2 (q * q) / 2 + 1)) :=
    Nat.pow_le_pow_right (by decide) (by omega)
  have hopen : q * q < (0 + 2 ^ (Nat.log2 (q * q) / 2 + 1)) * (0 + 2 ^ (Nat.log2 (q * q) / 2 + 1)) := by
    rw [Nat.zero_add, ← Nat.pow_add]
    exact Nat.lt_of_lt_of_le hlog hpow
  obtain ⟨hlow, hhigh⟩ := isqrtBits_spec _ (q * q) 0 (Nat.zero_le _) hopen
  rw [Nat.mul_self_le_mul_self_iff] at hlow
  rw [Nat.mul_self_lt_mul_self_iff] at hhigh
  exact Nat.le_antisymm hlow (Nat.le_of_lt_succ hhigh)

/-- The root of a fraction that is a square to the places taken is exact. -/
theorem sqrtXr_of_square {n d k q : Nat} (hd : d ≠ 0) (hk : (40 + max 0 (- floorLog2 n d)).toNat = k) (hq : n * 4 ^ k = q * q * d) :
    sqrtXr n d = .fin false q (2 ^ k) := by
  have hdiv : n * 4 ^ k / d = q * q := by rw [hq, Nat.mul_div_cancel _ (Nat.pos_of_ne_zero hd)]
  have hmod : n * 4 ^ k % d = 0 := by rw [hq, Nat.mul_mod_left]
  unfold sqrtXr
  simp only [hk, hdiv, hmod, isqrt_mul_self, and_self, if_true]

theorem four_pow (n : Nat) : 4 ^ n = 2 ^ n * 2 ^ n := Nat.mul_pow 2 2 n

/-- The square of a product of powers of two. -/
theorem four_pow_mul (i j : Nat) : 4 ^ i * 4 ^ j = 2 ^ i * 2 ^ j * (2 ^ i * 2 ^ j) := by
  rw [four_pow i, four_pow j, Nat.mul_mul_mul_comm]

theorem four_pow_ne_zero (n : Nat) : 4 ^ n ≠ 0 := Nat.ne_of_gt (Nat.pow_pos (by decide))

theorem sqrtXr_four_pow (n : Nat) : sqrtXr (4 ^ n) 1 = .fin false (2 ^ n * 2 ^ 40) (1 * 2 ^ 40) := by
  have hlog : floorLog2 (4 ^ n) 1 = ((2 * n : Nat) : Int) := by rw [← floorLog2_two_pow, Nat.pow_mul]
  have hplaces : (40 + max 0 (- floorLog2 (4 ^ n) 1)).toNat = 40 := by rw [hlog]; omega
  rw [sqrtXr_of_square Nat.one_ne_zero hplaces (q := 2 ^ n * 2 ^ 40) ((four_pow_mul n 40).trans (Nat.mul_one _).symm), Nat.one_mul]

theorem sqrtXr_one_four_pow (n : Nat) : sqrtXr 1 (4 ^ n) = .fin false (1 * 2 ^ (40 + n)) (2 ^ n * 2 ^ (40 + n)) := by
  have hlog : floorLog2 1 (4 ^ n) = -((2 * n : Nat) : Int) := by rw [← floorLog2_one_two_pow, Nat.pow_mul]
  have hplaces : (40 + max 0 (- floorLog2 1 (4 ^ n))).toNat = n + (40 + n) := by rw [hlog]; omega
  have hsquare : 1 * 4 ^ (n + (40 + n)) = 1 * 2 ^ (40 + n) * (1 * 2 ^ (40 + n)) * 4 ^ n := by
    rw [Nat.one_mul, Nat.one_mul, Nat.pow_add 4 n, four_pow (40 + n), Nat.mul_comm]
  rw [sqrtXr_of_square (four_pow_ne_zero n) hplaces hsquare, Nat.pow_add 2 n]

theorem rsqW_four_pow (z : Bool) (n : Nat) : rsqW z (.fin false (4 ^ n) 1) = BitVec.ofNat 32 (roundTo .f32 z .rn (.fin false 1 (2 ^ n))) := by
  rw [rsqW, if_neg (four_pow_ne_zero n), sqrtXr_one_four_pow, roundTo_scale _ _ _ _ _ (two_pow_ne_zero n) (two_pow_ne_zero (40 + n))]
  rfl

theorem rsqW_one_four_pow (z : Bool) (n : Nat) : rsqW z (.fin false 1 (4 ^ n)) = BitVec.ofNat 32 (roundTo .f32 z .rn (.fin false (2 ^ n) 1)) := by
  rw [← roundTo_scale .f32 z .rn false (2 ^ n) Nat.one_ne_zero (two_pow_ne_zero 40), ← sqrtXr_four_pow]
  rfl

-- exponentials and logarithms of powers of two

/-- An integral operand of EXP2 gives a power of two. -/
theorem exp2W_of_integer (z : Bool) {s : Bool} {n d : Nat} {i : Int} (hd : d ≠ 0) (hi : signedNum s n = i * d) (hlow : -150 ≤ i) (hhigh : i < 128) :
    exp2W z (.fin s n d) = BitVec.ofNat 32 (roundTo .f32 z .rn (scaleTwo false 1 i)) := by
  have hfloor : signedNum s n / (d : Int) = i := by rw [hi, Int.mul_ediv_cancel _ (by omega)]
  have hfrac : toFix false (signedNum s n - i * d).toNat d = 0 := by
    rw [hi, Int.sub_self, toFix, Int.toNat_zero, signedNum_zero, Int.zero_mul, Int.zero_ediv]
  unfold exp2W
  dsimp only
  rw [hfloor, if_neg (by omega), if_neg (by omega), if_pos hfrac]

/-- A large operand of EXP2 overflows. -/
theorem exp2W_of_le (z : Bool) {n d : Nat} (hd : 0 < d) (h : 128 * d ≤ n) : exp2W z (.fin false n d) = 0x7F800000#32 := by
  have hfloor : (128 : Int) ≤ signedNum false n / (d : Int) := (Int.le_ediv_iff_mul_le (by omega)).mpr (show (128 : Int) * d ≤ n by omega)
  exact if_pos hfloor

/-- An operand of EXP2 far below zero gives zero. -/
theorem exp2W_of_lt (z : Bool) {n d : Nat} (hd : 0 < d) (h : 150 * d < n) : exp2W z (.fin true n d) = 0x00000000#32 := by
  have hfloor : signedNum true n / (d : Int) < -150 := by
    rw [Int.ediv_lt_iff_lt_mul (by omega)]
    show -(n : Int) < -150 * d
    omega
  unfold exp2W
  dsimp only
  rw [if_neg (by omega), if_pos hfloor]
  rfl

theorem scaleTwo_natCast (n : Nat) : scaleTwo false 1 (n : Int) = .fin false (2 ^ n) 1 := by
  rw [scaleTwo, if_pos (Int.natCast_nonneg n), Int.toNat_natCast, Nat.one_mul]

theorem scaleTwo_neg_natCast (n : Nat) : scaleTwo false 1 (-(n : Int)) = .fin false 1 (2 ^ n) := by
  unfold scaleTwo
  split
  case isTrue h =>
    obtain rfl : n = 0 := by omega
    rfl
  case isFalse => rw [Int.neg_neg, Int.toNat_natCast]

theorem exp2W_natCast (z : Bool) {n : Nat} (hn : n ≤ 127) :
    exp2W z (.fin false n 1) = BitVec.ofNat 32 (roundTo .f32 z .rn (.fin false (2 ^ n) 1)) := by
  rw [← scaleTwo_natCast]
  exact exp2W_of_integer z Nat.one_ne_zero (Int.mul_one (n : Int)).symm (by omega) (by omega)

theorem exp2W_neg_natCast (z : Bool) {n : Nat} (hn : n ≤ 149) :
    exp2W z (.fin true n 1) = BitVec.ofNat 32 (roundTo .f32 z .rn (.fin false 1 (2 ^ n))) := by
  rw [← scaleTwo_neg_natCast]
  exact exp2W_of_integer z Nat.one_ne_zero (Int.mul_one (-(n : Int))).symm (by omega) (by omega)

theorem exp2W_zero (z s : Bool) {d : Nat} (hd : 0 < d) : exp2W z (.fin s 0 d) = 0x3F800000#32 := by
  rw [exp2W_of_integer z (i := 0) (Nat.ne_of_gt hd) ((signedNum_zero s).trans (Int.zero_mul _).symm) (by decide) (by decide)]
  cases z <;> decide

/-- A whole number of units, in fixed point. -/
theorem toFix_self {n : Nat} (hn : n ≠ 0) : toFix false n n = 2 ^ fixBits :=
  Int.mul_ediv_cancel_left _ (Int.natCast_ne_zero.mpr hn)

/-- An operand of LOG2 that is the power of two of its exponent gives that exponent. -/
theorem log2W_of_exponent (z : Bool) {n d : Nat} {e : Int} (hn : n ≠ 0) (hd : d ≠ 0) (he : floorLog2 n d = e)
    (hpow : if 0 ≤ e then n = d * 2 ^ e.toNat else n * 2 ^ (-e).toNat = d) :
    log2W z (.fin false n d) = BitVec.ofNat 32 (roundTo .f32 z .rn (.fin (decide (e < 0)) e.natAbs 1)) := by
  have hone : (if 0 ≤ e then toFix false n (d * 2 ^ e.toNat) else toFix false (n * 2 ^ (-e).toNat) d) = 2 ^ fixBits := by
    by_cases hsign : 0 ≤ e
    · rw [if_pos hsign] at hpow ⊢
      rw [← hpow, toFix_self hn]
    · rw [if_neg hsign] at hpow ⊢
      rw [hpow, toFix_self hd]
  unfold log2W
  dsimp only
  rw [he, if_neg hn, if_neg Bool.false_ne_true, if_pos hone]

theorem log2W_two_pow (z : Bool) (n : Nat) : log2W z (.fin false (2 ^ n) 1) = BitVec.ofNat 32 (roundTo .f32 z .rn (.fin false n 1)) := by
  have hpow : if 0 ≤ (n : Int) then 2 ^ n = 1 * 2 ^ (n : Int).toNat else 2 ^ n * 2 ^ (-(n : Int)).toNat = 1 := by
    rw [if_pos (Int.natCast_nonneg n), Int.toNat_natCast, Nat.one_mul]
  have hsign : decide ((n : Int) < 0) = false := decide_eq_false (by omega)
  rw [log2W_of_exponent z (two_pow_ne_zero n) Nat.one_ne_zero (floorLog2_two_pow n) hpow, hsign, Int.natAbs_natCast]

theorem log2W_one_two_pow (z : Bool) (n : Nat) :
    log2W z (.fin false 1 (2 ^ n)) = BitVec.ofNat 32 (roundTo .f32 z .rn (.fin (decide (0 < n)) n 1)) := by
  have hpow : if 0 ≤ -(n : Int) then 1 = 2 ^ n * 2 ^ (-(n : Int)).toNat else 1 * 2 ^ (- -(n : Int)).toNat = 2 ^ n := by
    split
    case isTrue h =>
      obtain rfl : n = 0 := by omega
      rfl
    case isFalse => rw [Int.neg_neg, Int.toNat_natCast, Nat.one_mul]
  have hsign : decide (-(n : Int) < 0) = decide (0 < n) := decide_eq_decide.mpr (by omega)
  rw [log2W_of_exponent z Nat.one_ne_zero (two_pow_ne_zero n) (floorLog2_one_two_pow n) hpow, hsign, Int.natAbs_neg, Int.natAbs_natCast]

-- operands so small that a function keeps them, or so large that it is flat

/-- The sine of a small operand rounds to the operand. -/
theorem sinW_of_small (z s : Bool) {n d : Nat} (h : 4096 * n < d) : sinW z (.fin s n d) = BitVec.ofNat 32 (roundTo .f32 z .rn (.fin s n d)) :=
  if_pos (show n * 2 ^ 12 < d by omega)

theorem tanhW_of_large (z s : Bool) {n d : Nat} (h : 9 * d ≤ n) : tanhW z (.fin s n d) = if s then 0xBF800000#32 else 0x3F800000#32 := if_pos h

theorem tanhW_zero (z s : Bool) {d : Nat} (hd : 0 < d) : tanhW z (.fin s 0 d) = BitVec.ofNat 32 (roundTo .f32 z .rn (.fin s 0 d)) := by
  rw [tanhW, if_neg (by omega), if_pos (by omega)]

theorem log2W_neg (z : Bool) {n d : Nat} (hn : 0 < n) : log2W z (.fin true n d) = 0x7FC00000#32 := if_neg (Nat.ne_of_gt hn)

theorem rsqW_neg (z : Bool) {n d : Nat} (hn : 0 < n) : rsqW z (.fin true n d) = 0x7FC00000#32 := if_neg (Nat.ne_of_gt hn)

theorem sqrtOf_neg {n d : Nat} (hn : 0 < n) : sqrtOf (.fin true n d) = .nan := if_neg (Nat.ne_of_gt hn)

-- what the instructions do for a thread

section
variable {s : State} {c : Ctx} {x y : RVal} (hroom : Says.UnitRoom s c.k)
include hroom

/-- The special-function unit takes an instruction while it has room (R197). -/
theorem postSfu_ok (vs : List RVal) : postSfu s c vs = .ok (postResult s c.k (dests c vs.length) (some vs) (.sfu s.clock)) := by
  refine if_neg ?_
  rintro ⟨hfull, hout, -⟩
  exact hroom.elim (fun hlt => Nat.not_le.mpr hlt hfull) hout

theorem actFdiv_ok (hx : src s c .f32 c.raw.a = .ok x) (hy : src s c .f32 c.raw.b = .ok y) :
    let fp := (getThread s c.k).fpctl
    actFdiv c s = .ok (postResult s c.k (dests c 1)
      (some [⟨Says.outF fp (rmOf c.raw.m) (Xr.div (Says.inF fp x.bits) (Says.inF fp y.bits)), x.poison || y.poison⟩]) (.sfu s.clock)) := by
  rw [actFdiv, srcF_ok hx, srcF_ok hy]
  exact postSfu_ok hroom _

theorem special_ok (f : Rm → Bool → Xr → Word) (hx : src s c .f32 c.raw.a = .ok x) :
    let fp := (getThread s c.k).fpctl
    special f c s = .ok (postResult s c.k (dests c 1) (some [⟨f (rmOf c.raw.m) (fp.getLsbD 1) (Says.inF fp x.bits), x.poison⟩]) (.sfu s.clock)) := by
  rw [special, hx]
  simp only [← inF32_eq]
  exact postSfu_ok hroom _

end

/-- The special functions issue the shared act with their value. -/
theorem exec_special {i : Instr} {f : Rm → Bool → Xr → Word} (h : Says.special i = some f) (s : State) :
    exec i s = .next (issue i (special f) s) := by
  unfold Says.special at h
  split at h
  case h_9 => cases h
  all_goals cases h; rfl

/-- R198's table, a row for each function; the cases are RCP, SQRT, RSQ, EXP2, LOG2, SIN, COS and TANH, in the order of Says.special. -/
theorem special_row {i : Instr} {f : Rm → Bool → Xr → Word} {r : Word × Option Word × Word × Word × Word} (hf : Says.special i = some f)
    (hr : Says.specialRow i = some r) (m : Rm) (z : Bool) :
    f m z .nan = 0x7FC00000#32 ∧ f m z (.inf true) = r.1 ∧ f m z (.inf false) = r.2.2.2.2 ∧
      ∀ d, 0 < d → f m z (.fin true 0 d) = r.2.2.1 ∧ f m z (.fin false 0 d) = r.2.2.2.1 ∧
        ∀ n x, 0 < n → r.2.1 = some x → f m z (.fin true n d) = x := by
  unfold Says.special at hf
  split at hf <;> cases hf <;> cases hr
  case h_1.refl.refl => exact ⟨rfl, rfl, rfl, fun d _ => ⟨rfl, rfl, fun _ _ _ hx => nomatch hx⟩⟩
  case h_2.refl.refl => exact ⟨rfl, rfl, rfl, fun d _ => ⟨rfl, rfl, fun n x hn hx => by cases hx; exact congrArg (fun y => BitVec.ofNat 32 (roundTo .f32 z m y)) (sqrtOf_neg hn)⟩⟩
  case h_3.refl.refl => exact ⟨rfl, rfl, rfl, fun d _ => ⟨rfl, rfl, fun n x hn hx => by cases hx; exact rsqW_neg z hn⟩⟩
  case h_4.refl.refl => exact ⟨rfl, rfl, rfl, fun d hd => ⟨exp2W_zero z true hd, exp2W_zero z false hd, fun _ _ _ hx => nomatch hx⟩⟩
  case h_5.refl.refl => exact ⟨rfl, rfl, rfl, fun d _ => ⟨rfl, rfl, fun n x hn hx => by cases hx; exact log2W_neg z hn⟩⟩
  case h_6.refl.refl => exact ⟨rfl, rfl, rfl, fun d hd => ⟨sinW_of_small z true hd, sinW_of_small z false hd, fun _ _ _ hx => nomatch hx⟩⟩
  case h_7.refl.refl => exact ⟨rfl, rfl, rfl, fun d _ => ⟨rfl, rfl, fun _ _ _ hx => nomatch hx⟩⟩
  case h_8.refl.refl => exact ⟨rfl, rfl, rfl, fun d hd => ⟨tanhW_zero z true hd, tanhW_zero z false hd, fun _ _ _ hx => nomatch hx⟩⟩

end Sys2Proof.Machine

namespace Sys2Proof

open Sys2Proof.Machine

/-- Settles O26. The instructions by the law of the unit's posting, the table a row at a time, and the exact cases by the exponents and
roots of powers of two. -/
theorem specialFunctionResult : Obligations.SpecialFunctionResult := by
  unfold Obligations.SpecialFunctionResult
  refine ⟨fun w => ⟨?fdiv, ?special⟩, ?table, ?bounds, ?powers⟩
  case fdiv =>
    intro s b t h
    refine congrArg Host.Outcome.next (h.issue (f := actFdiv) ?_)
    rintro k u v ⟨x, y, hx, hy, hroom, rfl⟩
    exact actFdiv_ok hroom hx hy
  case special =>
    intro i f hi s b t h
    rw [exec_special hi]
    refine congrArg Host.Outcome.next (h.issue ?_)
    rintro k u v ⟨x, hx, hroom, rfl⟩
    exact special_ok (c := ctxOf b i k) hroom f hx
  case table => exact fun i f r hf hr m z => special_row hf hr m z
  case bounds => exact fun z s n d hd => ⟨tanhW_of_large z s, sinW_of_small z s, exp2W_of_le z hd, exp2W_of_lt z hd⟩
  case powers =>
    exact fun z n => ⟨fun hn => ⟨exp2W_natCast z hn, log2W_two_pow z n⟩, fun hn => ⟨exp2W_neg_natCast z hn, log2W_one_two_pow z n⟩,
      fun _ => rsqW_four_pow z n, fun _ => rsqW_one_four_pow z n⟩

end Sys2Proof
end

section
/-! The group collectives: what each posts for the present threads (R205 to R214), what GSYNC orders (R215), and the obligation about them
(O29). -/

namespace Sys2Proof.Machine

-- threads that receive from others

section
variable {c : Ctx} {ks : List Nat} {s : State}

theorem fromThread_natCast (a d j t : Nat) :
    Says.fromThread s c ks a d j t = match presentAt c ks t with | some h => srcOf s c h a | none => srcOf s c j d := by
  unfold Says.fromThread
  rw [if_pos (Int.natCast_nonneg t)]
  rfl

theorem fromThread_of_neg (a d j : Nat) {t : Int} (ht : t < 0) : Says.fromThread s c ks a d j t = srcOf s c j d := by
  unfold Says.fromThread
  rw [if_neg (Int.not_le.mpr ht)]

/-- The index that GSHF reads from at index i, at distance r or by the index operand, where there may be one (R208). -/
def shuffleIndex (m r i idx : Nat) : Option Nat :=
  match m with
  | 0 => if r ≤ i then some (i - r) else none
  | 1 => some (i + r)
  | 2 => some (i ^^^ r)
  | _ => some idx

/-- A reach down the group past its first thread gives the fill, every other an index (R208). -/
theorem fromThread_shuffleFrom (a d j m b i idx : Nat) : Says.fromThread s c ks a d j (Says.shuffleFrom m b i idx) =
    match (shuffleIndex m (32 >>> b) i idx).bind (presentAt c ks) with | some h => srcOf s c h a | none => srcOf s c j d := by
  match m with
  | 0 =>
    change Says.fromThread s c ks a d j ((i : Int) - (32 >>> b : Nat)) =
      match (if 32 >>> b ≤ i then some (i - 32 >>> b) else none).bind (presentAt c ks) with | some h => srcOf s c h a | none => srcOf s c j d
    by_cases hr : 32 >>> b ≤ i
    · rw [if_pos hr, ← Int.natCast_sub hr]
      exact fromThread_natCast a d j _
    · rw [if_neg hr]
      exact fromThread_of_neg a d j (by omega)
  | 1 => exact fromThread_natCast a d j (i + 32 >>> b)
  | 2 => exact fromThread_natCast a d j (i ^^^ 32 >>> b)
  | _ + 3 => exact fromThread_natCast a d j idx

theorem actGshf_eq : actGshf c ks s = .ok (postAll c ks 1 (fun j =>
    let i := if c.raw.m = 3 then srcOf s c j c.raw.b else RVal.zero
    let x := Says.fromThread s c ks c.raw.a c.raw.d j (Says.shuffleFrom c.raw.m c.raw.b (keyLin j % 32) i.bits.toNat)
    [⟨x.bits, x.poison || i.poison⟩]) s) := by
  simp only [fromThread_shuffleFrom, Nat.shiftRight_eq_div_pow]
  rfl

theorem actGbc_eq : actGbc c ks s =
    let i := srcOf s c c.k c.raw.b
    let from_ := presentAt c ks i.bits.toNat
    .ok (if c.raw.m = 1 then postAll c ks 2 (fun j =>
        let x := match from_ with | some h => srcDOf s c h c.raw.a | none => srcDOf s c j c.raw.d
        [⟨x.bits.extractLsb' 0 32, x.poison || i.poison⟩, ⟨x.bits.extractLsb' 32 32, x.poison || i.poison⟩]) s
      else postAll c ks 1 (fun j =>
        let x := Says.fromThread s c ks c.raw.a c.raw.d j i.bits.toNat
        [⟨x.bits, x.poison || i.poison⟩]) s) := by
  unfold actGbc
  dsimp only
  split
  · rfl
  · exact congrArg (fun f => Except.ok (postAll c ks 1 f s)) (funext fun j =>
      congrArg (fun x : RVal => [(⟨x.bits, x.poison || (srcOf s c c.k c.raw.b).poison⟩ : RVal)]) (fromThread_natCast c.raw.a c.raw.d j _).symm)

-- votes

/-- LIVE and the polarity of a vote are the bits of M (R206, R210). -/
theorem decide_two_le_toNat (m : BitVec 2) : decide (2 ≤ m.toNat) = m.getLsbD 1 := by decide +revert

theorem eq_one_iff (m : BitVec 2) : m = 1 ↔ m.toNat = 1 := by decide +revert

theorem eq_three_iff (m : BitVec 2) : m = 3 ↔ m.toNat = 3 := by decide +revert

theorem decide_toNat_mod_two (m : BitVec 2) : decide (m.toNat % 2 = 1) = m.getLsbD 0 := by decide +revert

variable {w : TForm} (ha : c.raw.a = w.a.toNat) (hm : c.raw.m = w.m.toNat)
include ha hm

theorem voteOf_eq (live : Bool) (j : Nat) : voteOf s c live j = (live || Says.vote s w j) := by
  unfold voteOf Says.vote
  rw [ha, hm, decide_two_le_toNat]
  cases live <;> rfl

theorem actGvote_eq : actGvote c ks s = .ok (postAll c ks 1 (fun _ =>
    [⟨if (if w.m.getLsbD 0 then (List.range 32).all (fun t => match presentAt c ks t with | some j => Says.vote s w j | none => false)
        else ks.any (Says.vote s w)) then 1 else 0, ks.any (fun j => (readP s j (w.a.toNat - 112)).poison)⟩]) s) := by
  have hvote : voteOf s c false = Says.vote s w := funext fun j => voteOf_eq ha hm false j
  unfold actGvote
  rw [hvote, ← decide_toNat_mod_two, ← hm, ← ha]
  obtain heven | hodd := Nat.mod_two_eq_zero_or_one c.raw.m
  · simp only [heven]
    rfl
  · simp only [hodd]
    rfl

theorem actGball_eq : actGball c ks s = .ok (postAll c ks 1 (fun _ => [⟨Says.maskOf ks (fun j => w.m.getLsbD 0 || Says.vote s w j),
    !w.m.getLsbD 0 && ks.any (fun j => (readP s j (w.a.toNat - 112)).poison)⟩]) s) := by
  have hvote (live : Bool) : voteOf s c live = fun j => live || Says.vote s w j := funext fun j => voteOf_eq ha hm live j
  unfold actGball liveBit voteBad
  rw [hvote, hm, ha, decide_toNat_mod_two]
  rfl

theorem actGelect_eq : actGelect c ks s = .ok (postAll c ks 1 (fun j =>
    [⟨if ks.find? (fun h => w.m.getLsbD 0 || Says.vote s w h) == some j then 1 else 0,
      !w.m.getLsbD 0 && ks.any (fun h => (readP s h (w.a.toNat - 112)).poison)⟩]) s) := by
  have hvote (live : Bool) : voteOf s c live = fun j => live || Says.vote s w j := funext fun j => voteOf_eq ha hm live j
  unfold actGelect liveBit voteBad
  rw [hvote, hm, ha, decide_toNat_mod_two]
  refine congrArg (fun f => Except.ok (postAll c ks 1 f s)) (funext fun j => ?_)
  simp only [predR, beq_iff_eq, decide_eq_true_eq]

end

theorem actGmatch_eq {c : Ctx} {ks : List Nat} {s : State} : actGmatch c ks s =
    let x (j : Nat) : DVal := if c.raw.m = 1 then srcDOf s c j c.raw.a else ⟨(srcOf s c j c.raw.a).bits.setWidth 64, (srcOf s c j c.raw.a).poison⟩
    .ok (postAll c ks 1 (fun j => [⟨Says.maskOf ks (fun h => (x h).bits == (x j).bits), ks.any (fun h => (x h).poison)⟩]) s) := by
  unfold actGmatch Says.maskOf
  simp only [beq_iff_eq]
  rfl

-- reductions (R213, R214)

theorem combR_eq : combR = Says.comb := by
  funext f a b
  cases a <;> cases b <;> rfl

/-- The integer that a word is for a reduction of integers: signed for TY 0, else unsigned (R213). -/
def wordInt (typ : Nat) (a : Word) : Int := if typ = 0 then a.toInt else a.toNat

theorem wordInt_injective {typ : Nat} {a b : Word} (h : wordInt typ a = wordInt typ b) : a = b := by
  unfold wordInt at h
  split at h
  · exact BitVec.eq_of_toInt_eq h
  · exact BitVec.eq_of_toNat_eq (Int.natCast_inj.mp h)

theorem valTy_setWidth (typ : Nat) (a : Word) : valTy (if typ = 0 then 0 else 1) (a.setWidth 64) = wordInt typ a := by
  have hlo : DWord.lo (a.setWidth 64) = a := by
    unfold DWord.lo
    rw [BitVec.extractLsb'_setWidth_of_le (by decide), BitVec.extractLsb'_eq_self]
  unfold valTy wordInt
  rw [hlo]
  split <;> rfl

theorem lessThan_eq (typ : Nat) (a b : Word) : (if typ = 0 then a.slt b else a.ult b) = decide (wordInt typ a < wordInt typ b) := by
  unfold wordInt
  split
  · exact BitVec.slt_eq_decide
  · rw [BitVec.ult_eq_decide, decide_eq_decide, Int.ofNat_lt]

/-- Of two words of equal numbers it is the same which the smaller is, for they are the same word (R213). -/
theorem combOp_eq (opn typ : Nat) (m : Rm) (fp a b : Word) : combOp opn typ m fp a b = Says.combined opn typ m fp a b := by
  unfold combOp Says.combined
  simp only [valTy_setWidth, lessThan_eq, inF32_eq, compareInt, decide_eq_true_eq]
  by_cases htyp : typ = 2
  · subst htyp
    match opn with
    | 0 | 1 | 2 | 3 | 4 | _ + 5 => rfl
  · match opn with
    | 0 => simp [htyp]
    | 1 =>
      simp only [htyp, if_false]
      obtain hlt | heq | hgt := Int.lt_trichotomy (wordInt typ a) (wordInt typ b)
      · rw [if_pos (Int.le_of_lt hlt), if_pos hlt]
      · rw [wordInt_injective heq, ite_self, ite_self]
      · rw [if_neg (Int.not_le.mpr hgt), if_neg (Int.lt_asymm hgt)]
    | 2 => simp only [htyp, if_false, ← Int.not_lt, ite_not]
    | 3 | 4 | _ + 5 => rfl

theorem redSrc_eq (s : State) (c : Ctx) (typ : Nat) (fp : Word) (j : Nat) : redSrc s c typ fp j =
    match src s { c with k := j } (if typ = 2 then .f32 else .int) c.raw.a with
    | .ok v => ⟨Says.contributed typ fp v.bits, v.poison⟩
    | .error _ => ⟨0, false⟩ := by
  unfold redSrc Says.contributed fziOf
  simp only [Bool.and_eq_true, decide_eq_true_eq, and_assoc]
  rfl

/-- A step of the butterfly on the table of a function gives the table of its step. -/
theorem flyStep_map (f : Word → Word → Word) {m : Nat} (hm : m < 32) (x : Nat → Option RVal) :
    flyStep f m ((List.range 32).map x) = (List.range 32).map (Says.fly f m x) := by
  unfold flyStep Says.fly
  refine List.map_congr_left fun t ht => ?_
  have ht : t < 32 := List.mem_range.mp ht
  have hxor : t ^^^ m < 32 := Nat.xor_lt_two_pow (n := 5) ht hm
  have hget (n : Nat) (hn : n < 32) : ((List.range 32).map x)[n]?.getD none = x n := by simp [hn]
  rw [hget _ (Nat.lt_of_le_of_lt (Nat.min_le_left _ _) ht), hget _ (Nat.max_lt.mpr ⟨ht, hxor⟩), combR_eq]

theorem butterfly_map (f : Word → Word → Word) (x : Nat → Option RVal) : butterfly f ((List.range 32).map x) = Says.tree f x := by
  unfold butterfly Says.tree
  rw [flyStep_map f (by decide), flyStep_map f (by decide), flyStep_map f (by decide), flyStep_map f (by decide), flyStep_map f (by decide)]
  rfl

theorem reduceOver_eq (c : Ctx) (ks : List Nat) (s : State) (test : Nat → Bool) :
    reduceOver c ks s test = Says.reduced s c ks c.raw.m c.raw.b test := by
  have hop : combOp (c.raw.b / 16) (c.raw.b / 4 % 4) (rmOf c.raw.m) (getThread s c.k).fpctl =
      Says.combined (c.raw.b / 16) (c.raw.b / 4 % 4) (rmOf c.raw.m) (getThread s c.k).fpctl :=
    funext fun a => funext fun b => combOp_eq _ _ _ _ a b
  have hsrc := funext (redSrc_eq s c (c.raw.b / 4 % 4) (getThread s c.k).fpctl)
  exact (butterfly_map _ _).trans
    (congr (congrArg Says.tree hop) (funext fun t => congrArg (fun g => if test t then (presentAt c ks t).map g else none) hsrc))

theorem actGred_eq {c : Ctx} {ks : List Nat} {s : State} : actGred c ks s =
    .ok (postAll c ks 1 (fun _ => [(Says.reduced s c ks c.raw.m c.raw.b (fun _ => true)).getD RVal.zero]) s) := by
  rw [← reduceOver_eq, actGred]

theorem decide_div_two_mod_two (n : Code) : decide (n.toNat / 2 % 2 = 1) = n.getLsbD 1 := by decide +revert

theorem actGscan_eq {c : Ctx} {ks : List Nat} {s : State} {w : TForm} (hb : c.raw.b = w.b.toNat) : actGscan c ks s =
    .ok (postAll c ks 1 (fun j =>
      let i := keyLin j % 32
      [(Says.reduced s c ks c.raw.m c.raw.b (fun t => if w.b.getLsbD 1 then decide (t < i) else decide (t ≤ i))).getD (srcOf s c j c.raw.d)]) s) := by
  unfold actGscan
  simp only [reduceOver_eq, hb, decide_div_two_mod_two]

-- what GSYNC orders (R215)

theorem kget_kput_self (m : View) (k v : Nat) : kget 0 (kput m k v) k = v := by simp [kget]

theorem kget_kput_ne (m : View) {k j : Nat} (v : Nat) (h : j ≠ k) : kget 0 (kput m k v) j = kget 0 m j := by
  simp [kget, kfind_kput_ne m k j v h]

/-- A join has at least what each of its views has. -/
theorem le_joinView_left (w : View) : ∀ (v : View) (a : Nat), kget 0 v a ≤ kget 0 (joinView v w) a := by
  induction w with
  | nil => exact fun v a => Nat.le_refl _
  | cons e w ih =>
    intro v a
    refine Nat.le_trans ?_ (ih (kput v e.1 (max (kget 0 v e.1) e.2)) a)
    by_cases h : a = e.1
    · rw [h, kget_kput_self]
      exact Nat.le_max_left _ _
    · exact Nat.le_of_eq (kget_kput_ne v _ h).symm

theorem le_joinView_right (w : View) : ∀ (v : View) (a : Nat), kget 0 w a ≤ kget 0 (joinView v w) a := by
  induction w with
  | nil => exact fun v a => Nat.zero_le _
  | cons e w ih =>
    intro v a
    by_cases h : e.1 = a
    · have hfirst : kget 0 (e :: w) a = e.2 := by simp [kget, kfind, h]
      rw [hfirst]
      refine Nat.le_trans ?_ (le_joinView_left w (kput v e.1 (max (kget 0 v e.1) e.2)) a)
      rw [← h, kget_kput_self]
      exact Nat.le_max_right _ _
    · have hrest : kget 0 (e :: w) a = kget 0 w a := by simp [kget, kfind, h]
      rw [hrest]
      exact ih (kput v e.1 (max (kget 0 v e.1) e.2)) a

@[simp] theorem viewOf_setView_self (o : Order) (a : Nat) (v : View) : viewOf (setView o a v) a = v := kget_kset_self [] o.view a v

theorem viewOf_setView_ne (o : Order) {a b : Nat} (v : View) (h : b ≠ a) : viewOf (setView o a v) b = viewOf o b :=
  kget_kset_ne [] o.view a b v h

theorem le_viewOf_learn (o : Order) (a : Nat) (v : View) (b x : Nat) : kget 0 (viewOf o b) x ≤ kget 0 (viewOf (learn o a v) b) x := by
  unfold learn
  split
  · exact Nat.le_refl _
  · by_cases h : b = a
    · rw [h, viewOf_setView_self]
      exact le_joinView_left v _ x
    · exact Nat.le_of_eq (congrArg (kget 0 · x) (viewOf_setView_ne o _ h).symm)

theorem le_viewOf_learn_self (o : Order) (a : Nat) (v : View) (x : Nat) : kget 0 v x ≤ kget 0 (viewOf (learn o a v) a) x := by
  unfold learn
  split
  next h => rw [h]; exact Nat.zero_le _
  next => rw [viewOf_setView_self]; exact le_joinView_right v _ x

/-- The join of the views of some agents has at least what each of them has. -/
theorem le_foldl_joinView (o : Order) (x : Nat) : ∀ (ks : List Nat) (v : View),
    kget 0 v x ≤ kget 0 (ks.foldl (fun v k => joinView v (viewOf o k)) v) x ∧
      ∀ j ∈ ks, kget 0 (viewOf o j) x ≤ kget 0 (ks.foldl (fun v k => joinView v (viewOf o k)) v) x := by
  intro ks
  induction ks with
  | nil => exact fun v => ⟨Nat.le_refl _, fun j h => nomatch h⟩
  | cons k ks ih =>
    intro v
    obtain ⟨hstart, hrest⟩ := ih (joinView v (viewOf o k))
    refine ⟨Nat.le_trans (le_joinView_left _ v x) hstart, fun j hj => ?_⟩
    obtain rfl | hj := List.mem_cons.mp hj
    · exact Nat.le_trans (le_joinView_right _ v x) hstart
    · exact hrest j hj

/-- One thread's part in a synchronisation: it is ordered after v. -/
def syncOne (v : View) (s : State) (k : Nat) : State :=
  acquired { s with order := learn { s.order with selfFence := kput s.order.selfFence k s.order.next } k v } k

theorem le_viewOf_syncOne (v : View) (s : State) (k b x : Nat) : kget 0 (viewOf s.order b) x ≤ kget 0 (viewOf (syncOne v s k).order b) x :=
  le_viewOf_learn { s.order with selfFence := kput s.order.selfFence k s.order.next } k v b x

theorem le_viewOf_syncOne_self (v : View) (s : State) (k x : Nat) : kget 0 v x ≤ kget 0 (viewOf (syncOne v s k).order k) x :=
  le_viewOf_learn_self { s.order with selfFence := kput s.order.selfFence k s.order.next } k v x

/-- After a synchronisation no thread is ordered after less than before, and each of its own after v. -/
theorem le_viewOf_foldl_syncOne (v : View) (x : Nat) : ∀ (ks : List Nat) (s : State),
    (∀ b, kget 0 (viewOf s.order b) x ≤ kget 0 (viewOf (ks.foldl (syncOne v) s).order b) x) ∧
      ∀ k ∈ ks, kget 0 v x ≤ kget 0 (viewOf (ks.foldl (syncOne v) s).order k) x := by
  intro ks
  induction ks with
  | nil => exact fun s => ⟨fun b => Nat.le_refl _, fun k h => nomatch h⟩
  | cons k ks ih =>
    intro s
    obtain ⟨hkeep, hrest⟩ := ih (syncOne v s k)
    refine ⟨fun b => Nat.le_trans (le_viewOf_syncOne v s k b x) (hkeep b), fun j hj => ?_⟩
    obtain rfl | hj := List.mem_cons.mp hj
    · exact Nat.le_trans (le_viewOf_syncOne_self v s j x) (hkeep j)
    · exact hrest j hj

/-- Each thread of a synchronisation comes to be ordered after all that any of them was ordered after (R215). -/
theorem le_viewOf_syncAll (s : State) {ks : List Nat} {j k : Nat} (hk : k ∈ ks) (hj : j ∈ ks) (x : Nat) :
    kget 0 (viewOf s.order j) x ≤ kget 0 (viewOf (syncAll s ks).order k) x :=
  Nat.le_trans ((le_foldl_joinView s.order x ks []).2 j hj) ((le_viewOf_foldl_syncOne _ x ks s).2 k hk)

end Sys2Proof.Machine

namespace Sys2Proof

open Sys2Proof.Machine

/-- A collective that posts results by its act alone completes with them. -/
theorem completesConverged_of_act {i : Instr} {act : Ctx → List Nat → State → Act} {post : Bundle → Nat → State → State}
    (hexec : ∀ s, exec i s = .next (issueConvergent i act s)) (hact : ∀ b k u, act (ctxOf b i k) b.threads u = .ok (post b k u)) :
    CompletesConverged i (fun b k u v => v = post b k u) := by
  intro s b t h
  rw [hexec]
  refine congrArg Host.Outcome.next (h.issueConvergent ?_)
  rintro k u v rfl
  exact hact b k u

/-- Settles O29. Each collective by the law of what it posts above; GSYNC's order by the joins of views. -/
theorem collectiveResult : Obligations.CollectiveResult := by
  unfold Obligations.CollectiveResult
  intro w a d n1 live
  simp only [eq_one_iff, eq_three_iff]
  refine ⟨?gshf, ?gbc, ?gvote, ?gball, ?gred, ?gscan, ?gmatch, ?gelect, ?gsync, fun u ks k hk j hj x => le_viewOf_syncAll u hk hj x⟩
  case gshf => exact completesConverged_of_act (fun _ => rfl) fun _ _ _ => actGshf_eq
  case gbc => exact completesConverged_of_act (fun _ => rfl) fun _ _ _ => actGbc_eq
  case gvote => exact completesConverged_of_act (fun _ => rfl) fun _ _ _ => actGvote_eq rfl rfl
  case gball => exact completesConverged_of_act (fun _ => rfl) fun _ _ _ => actGball_eq rfl rfl
  case gred => exact completesConverged_of_act (fun _ => rfl) fun _ _ _ => actGred_eq
  case gscan => exact completesConverged_of_act (fun _ => rfl) fun _ _ _ => actGscan_eq rfl
  case gmatch => exact completesConverged_of_act (fun _ => rfl) fun _ _ _ => actGmatch_eq
  case gelect => exact completesConverged_of_act (fun _ => rfl) fun _ _ _ => actGelect_eq rfl rfl
  case gsync => exact completesConverged_of_act (act := actGsync) (fun _ => rfl) fun _ _ _ => rfl

end Sys2Proof
end

section
/-! Traps: the fault record (R403), the entry into a handler (R400), the kill without one (R401), and the obligation about them (O58). -/

namespace Sys2Proof.Machine

-- the fault record

theorem kget_wordTable (ws : List Word) (j : Nat) : kget 0 (wordTable ws) j = ws.getD j 0 := by
  unfold wordTable
  rw [kget_ksetList]
  by_cases h : j < ws.length
  · rw [if_pos ⟨Nat.zero_le j, by omega⟩, Nat.sub_zero]
  · rw [if_neg (by omega), List.getD_eq_getElem?_getD, List.getElem?_eq_none (by omega)]
    rfl

theorem b2n_le_one (b : Bool) : b2n b ≤ 1 := by cases b <;> decide

/-- TRAPSTAT's trap number and cause lie above its flags, and the space below them (R403). -/
theorem trapStatus_fields (n : Nat) {cause q v f space : Nat} (hcause : cause < 256) (hq : q ≤ 1) (hv : v ≤ 1) (hf : f ≤ 1)
    (hspace : space < 16) :
    let w := wd (n * 2 ^ 24 + cause * 2 ^ 16 + q * 2 ^ 14 + v * 2 ^ 13 + f * 2 ^ 12 + space * 2 ^ 8)
    w.extractLsb' 24 8 = BitVec.ofNat 8 n ∧ w.extractLsb' 16 8 = BitVec.ofNat 8 cause ∧ w.extractLsb' 8 4 = BitVec.ofNat 4 space := by
  unfold wd
  refine ⟨?_, ?_, ?_⟩ <;>
  · apply BitVec.eq_of_toNat_eq
    rw [BitVec.extractLsb'_toNat, Nat.shiftRight_eq_div_pow, BitVec.toNat_ofNat, BitVec.toNat_ofNat]
    omega

/-- The cause that a fault record names: for POISON that of the recorded origin, if one is (R242, R403). -/
def recordCause (t : Thread) (n cause : Nat) : Nat :=
  if n = Trap.poison then (if psnValid t then t.psninfo.toNat % 16 else 0) else cause

/-- The space that a fault record names, for POISON that of the recorded origin; 15 for none (R242, R403). -/
def recordSpace (t : Thread) (n : Nat) (place : Option (Nat × Nat)) : Nat :=
  if n = Trap.poison then (if psnValid t then t.psninfo.toNat / 16 % 16 else 0xF) else (match place with | some p => p.2 | none => 0xF)

theorem recordCause_lt (t : Thread) (n : Nat) {cause : Nat} (h : cause < 256) : recordCause t n cause < 256 := by
  unfold recordCause
  split
  · split <;> omega
  · exact h

theorem recordSpace_lt (t : Thread) (n : Nat) {place : Option (Nat × Nat)} (h : ∀ p, place = some p → p.2 < 16) :
    recordSpace t n place < 16 := by
  unfold recordSpace
  split
  · split <;> omega
  · match place, h with
    | none, _ => decide
    | some p, h => exact h p rfl

/-- A recorded origin names its cause and its space in PSNINFO (R242). -/
theorem psninfo_fields (v : Word) :
    BitVec.ofNat 8 (v.toNat % 16) = (v.extractLsb' 0 4).setWidth 8 ∧ BitVec.ofNat 4 (v.toNat / 16 % 16) = v.extractLsb' 4 4 := by
  refine ⟨?_, ?_⟩ <;> apply BitVec.eq_of_toNat_eq
  · rw [BitVec.toNat_setWidth, BitVec.extractLsb'_toNat, BitVec.toNat_ofNat, Nat.shiftRight_eq_div_pow]
    omega
  · rw [BitVec.extractLsb'_toNat, BitVec.toNat_ofNat, Nat.shiftRight_eq_div_pow]
    omega

theorem psnValid_eq (t : Thread) : psnValid t = t.psninfo.msb := (BitVec.msb_eq_getLsbD_last t.psninfo).symm

section
variable (s : State) (k : Nat) {n c : Nat} {place : Option (Nat × Nat)} (a : TrapAt)

theorem faultRecord_status (hc : c < 256) (hp : ∀ p, place = some p → p.2 < 16) :
    let w := (faultRecord s k n c place a).getD 0 0
    w.extractLsb' 24 8 = BitVec.ofNat 8 n ∧ w.extractLsb' 16 8 = BitVec.ofNat 8 (recordCause (getThread s k) n c) ∧
      w.extractLsb' 8 4 = BitVec.ofNat 4 (recordSpace (getThread s k) n place) := by
  obtain ⟨q, v, f, hq, hv, hf, hw⟩ : ∃ q v f, q ≤ 1 ∧ v ≤ 1 ∧ f ≤ 1 ∧ (faultRecord s k n c place a).getD 0 0 =
      wd (n * 2 ^ 24 + recordCause (getThread s k) n c * 2 ^ 16 + q * 2 ^ 14 + v * 2 ^ 13 + f * 2 ^ 12 +
        recordSpace (getThread s k) n place * 2 ^ 8) := by
    unfold faultRecord recordCause recordSpace
    simp only [decide_eq_true_eq]
    refine ⟨_, _, _, ?begun, b2n_le_one _, ?cls, rfl⟩
    case begun =>
      split
      · exact b2n_le_one _
      · exact Nat.zero_le 1
    case cls => split <;> decide
  rw [hw]
  exact trapStatus_fields n (recordCause_lt _ n hc) hq hv hf (recordSpace_lt _ n hp)

/-- The record of a trap other than POISON: its own cause and place, and no origin (R403). -/
theorem faultRecord_of_ne_poison (hn : n ≠ Trap.poison) (hc : c < 256) (hp : ∀ p, place = some p → p.2 < 16) :
    let r := faultRecord s k n c place a
    (r.getD 0 0).extractLsb' 16 8 = BitVec.ofNat 8 c ∧ r.getD 10 0 = 0 ∧ r.getD 11 0 = 0 ∧
      (place = none → (r.getD 0 0).extractLsb' 8 4 = 0xF#4 ∧ r.getD 8 0 = 0 ∧ r.getD 9 0 = 0) := by
  obtain ⟨-, hcause, hspace⟩ := faultRecord_status s k (n := n) a hc hp
  unfold recordCause at hcause
  unfold recordSpace at hspace
  rw [if_neg hn] at hcause hspace
  have hpoison : decide (n = Trap.poison) = false := decide_eq_false hn
  refine ⟨hcause, ?_, ?_, ?_⟩
  · simp [faultRecord, hpoison]
  · simp [faultRecord, hpoison]
  · rintro rfl
    exact ⟨hspace, by simp [faultRecord, hpoison, wd], by simp [faultRecord, hpoison, wd]⟩

/-- The record of a POISON trap: the origin's registers, and the cause and space they name (R242, R403). -/
theorem faultRecord_poison (hc : c < 256) (hp : ∀ p, place = some p → p.2 < 16) :
    let t := getThread s k
    let r := faultRecord s k Trap.poison c place a
    r.getD 10 0 = t.psnpc ∧ r.getD 11 0 = t.psninfo ∧ (place = none → r.getD 8 0 = t.psnlo ∧ r.getD 9 0 = t.psnhi) ∧
      (t.psninfo.msb = true → (r.getD 0 0).extractLsb' 16 8 = (t.psninfo.extractLsb' 0 4).setWidth 8 ∧
        (r.getD 0 0).extractLsb' 8 4 = t.psninfo.extractLsb' 4 4) ∧
      (t.psninfo.msb = false → (r.getD 0 0).extractLsb' 16 8 = 0 ∧ (r.getD 0 0).extractLsb' 8 4 = 0xF#4) := by
  intro t r
  obtain ⟨-, hcause, hspace⟩ := faultRecord_status s k (n := Trap.poison) a hc hp
  unfold recordCause at hcause
  unfold recordSpace at hspace
  rw [if_pos rfl, psnValid_eq] at hcause hspace
  refine ⟨rfl, rfl, ?_, fun hvalid => ?_, fun hnone => ?_⟩
  · rintro rfl
    exact ⟨rfl, rfl⟩
  · rw [if_pos hvalid] at hcause hspace
    exact ⟨hcause.trans (psninfo_fields _).1, hspace.trans (psninfo_fields _).2⟩
  · rw [if_neg (ne_true_of_eq_false hnone)] at hcause hspace
    exact ⟨hcause, hspace⟩

end

-- the entry into a handler

theorem handlerPc_eq (v : Word) (f : Form) : handlerPc v f =
    match f with
    | .d => 4 * (v.extractLsb' 0 16).setWidth 32
    | .l => 12 * (v.extractLsb' 16 15).setWidth 32 := by
  cases f <;> apply BitVec.eq_of_toNat_eq <;>
  · simp only [handlerPc, wd, bits, BitVec.ofNat_eq_ofNat, BitVec.toNat_ofNat, BitVec.toNat_mul, BitVec.toNat_setWidth,
      BitVec.extractLsb'_toNat, Nat.shiftRight_eq_div_pow]
    omega

/-- A thread as it stands in its handler: t is the thread with the collectives' results written, position the one that is saved and record
the fault record (R205, R400). -/
structure InHandler (t : Thread) (position : Option Seq) (record : List Word) (handler : Word) (x : Thread) : Prop where
  intrap : x.intrap = true
  fpctl : x.fpctl = 0
  csp : x.csp = t.csp
  joinPc : x.joinPc = none
  rpcWritten : x.rpcWritten = false
  seq : x.seq = none
  temporaries : x.regs.x = []
  saved : x.saved = some
    { fpctl := t.fpctl, csp := t.csp, p := t.regs.p, x := if position.isSome then t.regs.x else [], seq := position, eqp := t.eqp }
  eqp : x.eqp = t.eqp
  pc : x.pc = handler
  frec : x.frec = wordTable record

section
variable {s : State} {k : Nat} (n c : Nat) (place : Option (Nat × Nat)) (a : TrapAt)

theorem enterTrap_of_handler (hvec : (teamOf s k).trapvec.msb = true) (htrap : (getThread s k).intrap = false)
    (hkill : (teamOf s k).killed = false) (hhalt : haltingOn s (groupOf s k).core = false) :
    ∃ x, enterTrap s k n c place a = setThread s k x ∧
      InHandler ((getThread s k).deliver (fun p => decide (p.kind = .collective))) (if n = 0x0E then none else a.seq)
        (faultRecord s k n c place a) (handlerPc (teamOf s k).trapvec (classOf s k)) x := by
  have hvec31 : ((teamOf s k).trapvec.getLsbD 31) = true := (BitVec.msb_eq_getLsbD_last _).symm.trans hvec
  have hhandler : ¬((teamOf s k).trapvec.getLsbD 31 = false ∨
      ((getThread s k).deliver (fun p => decide (p.kind = .collective))).intrap = true ∨ (teamOf s k).killed = true) := by
    simp [Thread.deliver, hvec31, htrap, hkill]
  unfold enterTrap
  dsimp only
  rw [if_neg hhandler, hhalt]
  exact ⟨_, rfl, rfl, rfl, rfl, rfl, rfl, rfl, rfl, rfl, rfl, rfl, rfl⟩

theorem enterTrap_of_no_handler
    (h : (teamOf s k).trapvec.msb = false ∨ (getThread s k).intrap = true ∨ (teamOf s k).killed = true) :
    enterTrap s k n c place a = fatalTrap (setThread s k { (getThread s k).deliver (fun p => decide (p.kind = .collective)) with
      pc := a.resume, view := none, next := none, seq := if n = 0x0E then none else a.seq }) k (faultRecord s k n c place a) a.pc := by
  rw [BitVec.msb_eq_getLsbD_last] at h
  exact if_pos h

end

-- the kill without a handler

section
variable (s : State) (pod cause : Nat)

theorem markKilled_grids {g : Grid} (hg : g ∈ (markKilled s pod cause).grids) (hpod : g.pod = pod) : g.killed.isSome = true := by
  obtain ⟨g', -, rfl⟩ := List.mem_map.mp hg
  split at hpod
  next h => rw [if_pos h]; rfl
  next h => exact absurd hpod h

theorem markKilled_teams {e : Nat × Team} (he : e ∈ (markKilled s pod cause).teams) (hpod : e.2.grid = pod) : e.2.killed = true := by
  obtain ⟨e', -, rfl⟩ := List.mem_map.mp he
  split at hpod
  next h => rw [if_pos h]
  next h => exact absurd hpod h

theorem traceWrite_state (recs : List (List Byte)) : ∃ m o r, traceWrite s recs = { s with mem := m, order := o, traceRing := r } := by
  obtain ⟨m, o, h⟩ := ringWrite_state s s.traceRing 64 recs
  exact ⟨m, o, _, by unfold traceWrite; dsimp only; rw [h]⟩

variable (k : Nat) (r : List Word) (pc : Word)

/-- A fatal trap writes at most a record before it kills the grid (R401, R434). -/
theorem fatalTrap_eq :
    ∃ m o t, fatalTrap s k r pc = markKilled { s with mem := m, order := o, traceRing := t } (teamOf s k).grid 1 := by
  unfold fatalTrap
  split
  · dsimp only
    obtain ⟨m, o, t, h⟩ := traceWrite_state s _
    rw [h]
    exact ⟨m, o, t, rfl⟩
  · exact ⟨s.mem, s.order, s.traceRing, rfl⟩

@[simp] theorem getThread_fatalTrap (j : Nat) : getThread (fatalTrap s k r pc) j = getThread s j := by
  obtain ⟨m, o, t, h⟩ := fatalTrap_eq s k r pc
  rw [h]
  rfl

theorem fatalTrap_grids {g : Grid} (hg : g ∈ (fatalTrap s k r pc).grids) (hpod : g.pod = (teamOf s k).grid) : g.killed.isSome = true := by
  obtain ⟨m, o, t, h⟩ := fatalTrap_eq s k r pc
  rw [h] at hg
  exact markKilled_grids _ _ _ hg hpod

theorem fatalTrap_teams {e : Nat × Team} (he : e ∈ (fatalTrap s k r pc).teams) (hpod : e.2.grid = (teamOf s k).grid) :
    e.2.killed = true := by
  obtain ⟨m, o, t, h⟩ := fatalTrap_eq s k r pc
  rw [h] at he
  exact markKilled_teams _ _ _ he hpod

end

end Sys2Proof.Machine

namespace Sys2Proof

open Sys2Proof.Machine

/-- Settles O58. With a handler by what the entry saves and the words of the fault record; without one by the grid's kill. -/
theorem trapEntry : Obligations.TrapEntry := by
  unfold Obligations.TrapEntry
  intro s k n c place a _ hc hp t seq tm u x
  refine ⟨fun hvec htrap hkill hhalt => ?handled, fun hcase => ?fatal⟩
  case handled =>
    obtain ⟨y, hu, h⟩ := enterTrap_of_handler n c place a hvec htrap hkill hhalt
    have hu : u = setThread s k y := hu
    obtain rfl : x = y := (congrArg (getThread · k) hu).trans (getThread_setThread s k y)
    have hrec (j : Nat) : kget 0 x.frec j = (faultRecord s k n c place a).getD j 0 := by rw [h.frec, kget_wordTable]
    simp only [hrec]
    refine ⟨h.intrap, h.fpctl, h.csp, h.joinPc, h.rpcWritten, h.seq, h.temporaries, h.saved, h.eqp, ?pc, (faultRecord_status s k a hc hp).1,
      fun h5 => faultRecord_of_ne_poison s k a h5 hc hp, ?poison, rfl, rfl, rfl, rfl, rfl, ?place, ?state, fun j hj => ?others⟩
    case pc => exact h.pc.trans (handlerPc_eq _ _)
    case poison => rintro rfl; exact faultRecord_poison s k a hc hp
    case place => rintro p rfl; simp [faultRecord, wd]
    case state => rw [hu]; rfl
    case others => rw [hu, getThread_setThread_ne s k j x hj]
  case fatal =>
    have hu : u = fatalTrap (setThread s k { t with pc := a.resume, view := none, next := none, seq := seq }) k
      (faultRecord s k n c place a) a.pc := enterTrap_of_no_handler n c place a hcase
    refine ⟨?thread, fun g hg hpod => ?grids, fun e he hgrid => ?teams, fun j hj => ?others⟩
    case thread => exact (congrArg (getThread · k) hu).trans ((getThread_fatalTrap _ k _ _ k).trans (getThread_setThread s k _))
    case grids => rw [hu] at hg; exact fatalTrap_grids _ k _ _ hg hpod
    case teams => rw [hu] at he; exact fatalTrap_teams _ k _ _ he hgrid
    case others => rw [hu, getThread_fatalTrap, getThread_setThread_ne s k j _ hj]

end Sys2Proof
end
